-- ==== Sys2Proof/Word.lean ====
section
/-! DEFINITION. The two bit-vector types of the part: a byte, and the 64-bit register of a digest unit. -/

namespace Sys2Proof

/-- A byte is 8 bits (00_scope.md, "Units of size"). -/
abbrev Byte := BitVec 8

/-- A 64-bit cyclic redundancy code (R88). -/
abbrev Digest := BitVec 64

end Sys2Proof
end

