-- ==== Sys2Proof/Config.lean ====
section
/-! DEFINITION. What the part fixes (sizes, limits, timers, the four lane plans) and the free values. -/

namespace Sys2Proof.Config

/-- An extent is 4 MiB (00_scope.md, "Units of size"). -/
def extentBytes : Nat := 4194304

/-- A card block is 512 bytes. -/
def blockBytes : Nat := 512

/-- Extents of the pool (R70). -/
def nExtents : Nat := 1024

/-- Records of the clip table (R5, R7). -/
def nClips : Nat := 1024

/-- The longest clip, in bytes (R5). -/
def maxClipBytes : Nat := 1099511627776

/-- The greatest card capacity, in 512-byte blocks (R32). -/
def maxCardBlocks : Nat := 4294967295

/-- The greatest drive capacity, in drive blocks (R97). -/
def maxDriveBlocks : Nat := 281474976710655

/-- The greatest block count of a source run (R6). -/
def maxRunBlocks : Nat := 16777216

/-- The highest clip id (R7). -/
def maxClipId : Nat := 65535

/-- The probe timer, in seconds (R31). -/
def probeSeconds : Nat := 2

/-- The first health window after a mount, in seconds (R63). -/
def firstWindowSeconds : Nat := 2

/-- The identification timer of a port, in seconds (R97). -/
def identSeconds : Nat := 5

/-- The notice queue holds at most 128 notices (R174). -/
def noticeCapacity : Nat := 128

/-- At most four host card reads are outstanding (R58). -/
def maxCardReads : Nat := 4

/-- A host card read's count above 64 is clamped to 64 (R58). -/
def maxReadBlocks : Nat := 64

/-- The longest frame body (R166). -/
def maxBody : Nat := 40000

/-- Failed attempts that exhaust a block in NORMAL (R60). -/
def normalAttempts : Nat := 4

/-- Failed attempts that make a block uncorrectable in CAREFUL (R60). -/
def carefulAttempts : Nat := 8

/-- A clip's damage list holds at most 16 blocks (R61). -/
def maxDamage : Nat := 16

/-- Read attempts of a clip (R10, R15). -/
def maxReadAttempts : Nat := 3

/-- The write-fault tally that faults a port (R129). -/
def faultTally : Nat := 3

/-- One row of the lane plan table (R48). -/
structure PlanRow where
  lanes : Nat
  burst : Nat
  window : Nat
  verifyShare : Nat
  writeShare : Nat
  deriving DecidableEq, Repr

/-- The lane plan table of R48: balanced, ingest-first, verify-first, quiet. -/
def planRow : Fin 4 → PlanRow
  | 0 => ⟨4, 8, 32, 1, 1⟩
  | 1 => ⟨4, 16, 64, 1, 3⟩
  | 2 => ⟨2, 8, 32, 2, 1⟩
  | 3 => ⟨1, 4, 16, 1, 1⟩

/-- The byte a buffer address reads as before anything is written there.
DESIGN CHOICE, unsafe: the spec gives the pool memory no power-on contents (log 5). -/
def unwritten : Byte := 0#8

/-- FREE VALUE: the seconds left on a timer when it is asked for, before the bound of the timer's length (log 3). -/
opaque freeSeconds : Nat → Nat

/-- FREE VALUE: what a query says of a presence sense whose bay or port is OFF (log 22). -/
opaque freeSense : Nat → Bool

/-- FREE VALUE: the bytes of a message body for which 11_message_and_record_formats.md gives no layout (log 7). -/
opaque freeBytes : Nat → List Byte

end Sys2Proof.Config
end

