-- ==== Sys2Proof/Syntax.lean ====
section
/-! DEFINITION. The commands of the part: one constructor of `Instr` per row of spec/opcode_table.json, and the types of
their operands. A constructor is an event from outside, a request of the host, or a message that one block takes from
another. -/

namespace Sys2Proof

/-- Power of a bay or a port (R29, R99). -/
inductive Power where
  | off | on
  deriving DecidableEq, Repr

/-- States of a bay (R28). -/
inductive BayState where
  | off | empty | probing | mounted | faulted
  deriving DecidableEq, Repr

/-- The eject lock (R39). -/
inductive Lock where
  | engaged | disengaged
  deriving DecidableEq, Repr

/-- The lamp of a slot (R42). -/
inductive Lamp where
  | unlit | redFlashing | greenSteady | redSteady | amberFlashing | amberSteady
  deriving DecidableEq, Repr

/-- Modes of the health monitor (R63 to R66). -/
inductive HealthMode where
  | normal | careful
  deriving DecidableEq, Repr

/-- States of a port (R96). -/
inductive PortState where
  | off | detached | attached | ready | lost | faulted
  deriving DecidableEq, Repr

/-- States of a job (R2). -/
inductive JobState where
  | opened | sealed | stopping | done | stopped
  deriving DecidableEq, Repr

/-- Verify mode of a job (1.1). -/
inductive VerifyMode where
  | full | off
  deriving DecidableEq, Repr

/-- Damage policy of a job (1.1). -/
inductive DamagePolicy where
  | abort | salvage
  deriving DecidableEq, Repr

/-- Stop mode of a job (1.1). -/
inductive StopMode where
  | drain | cut
  deriving DecidableEq, Repr

/-- States of a clip (R8). -/
inductive ClipState where
  | queued | waiting | reading | landing | safe | partialSafe | failed | cancelled
  deriving DecidableEq, Repr

/-- Wait reasons of a clip (1.2). -/
inductive WaitReason where
  | space | port
  deriving DecidableEq, Repr

/-- Causes of clips and copies alike (R180). -/
inductive Cause where
  | media | sourceLost | sourceDigest | writeError | portLost | portFault | verifyMismatch | noRepairSource | space
  | cancelled
  deriving DecidableEq, Repr

/-- States of a copy (R11). -/
inductive CopyState where
  | pending | writing | written | verifying | verified | repairing | failed | dropped | skipped
  deriving DecidableEq, Repr

/-- Purpose of an extent (R70). -/
inductive Purpose where
  | first | repair
  deriving DecidableEq, Repr

/-- The card signature: a 16-byte serial and a capacity in 512-byte blocks (2.4). -/
structure CardSig where
  serial : List Byte
  capacity : Nat
  deriving DecidableEq, Repr

/-- A drive's identity: a 20-byte serial, its block size and its capacity in drive blocks (6.1). -/
structure DriveId where
  serial : List Byte
  blockSize : Nat
  capacity : Nat
  deriving DecidableEq, Repr

/-- A run of card blocks (R6). -/
structure Run where
  start : Nat
  count : Nat
  deriving DecidableEq, Repr

/-- A slot of JOB_OPEN's copy set as its bytes stand in the request: port and required flag (R181). -/
structure CopySlot where
  port : Nat
  flag : Nat
  deriving DecidableEq, Repr

/-- The four counts of a job (1.1). -/
structure Counts where
  safe : Nat
  partialSafe : Nat
  failed : Nat
  cancelled : Nat
  deriving DecidableEq, Repr

/-- The running state of a digest: the register and the byte count (R89). -/
structure DigestState where
  reg : Digest
  count : Nat
  deriving DecidableEq, Repr

/-- The claim identity of an extent (R70). -/
structure ClaimId where
  clip : Nat
  purpose : Purpose
  repairPort : Option (Fin 4)
  seq : Nat
  deriving DecidableEq, Repr

/-- A work item of a bay: the read of a clip, or a card-sourced repair read for one port (R51). -/
inductive WorkItem where
  | clip (clip : Nat)
  | repair (clip : Nat) (port : Fin 4)
  deriving DecidableEq, Repr

/-- What the job manager hands a bay to read: the item, the clip's length and runs, the damage policy, and for a repair
the damage list (R51, R61, R62). -/
structure ReadWork where
  item : WorkItem
  length : Nat
  runs : List Run
  policy : DamagePolicy
  damage : List Nat
  deriving DecidableEq, Repr

/-- Who claims an extent: a lane serving a bay, or a port's verify engine (R71). -/
inductive Requester where
  | lane (lane : Fin 4) (bay : Fin 8)
  | engine (port : Fin 4)
  deriving DecidableEq, Repr

/-- A port's answer to a hold enquiry (R16). -/
inductive HoldAnswer where
  | fits (footprint dataUnits : Nat)
  | noRoom
  | notReady
  deriving DecidableEq, Repr

/-- The run reserved for a copy: its first drive block, footprint and data units (1.3). -/
structure Placement where
  start : Nat
  footprint : Nat
  dataUnits : Nat
  deriving DecidableEq, Repr

/-- A port's answer to a confirmation: the placement, or not ready with a void hold's cause (R105). -/
inductive ConfirmAnswer where
  | placed (p : Placement)
  | notReady (cause : Option Cause)
  deriving DecidableEq, Repr

/-- The trailer fields that the job manager gives with a trailer append (R120, R124). -/
structure TrailerFields where
  job : Nat
  attempt : Nat
  length : Nat
  digest : Digest
  sig : CardSig
  damage : List Nat
  runStart : Nat
  label : List Byte
  deriving DecidableEq, Repr

/-- An entry of a verify queue. `repairPort` is absent for a verify entry and present for a sibling entry; `dataUnits`
is the verify entry's, and 0 in a sibling entry, which has no such field (R135). -/
structure VerifyEntry where
  clip : Nat
  length : Nat
  digest : Digest
  runStart : Nat
  dataUnits : Nat
  repairPort : Option (Fin 4)
  deriving DecidableEq, Repr

/-- The end of a probe, by the card's answer or by the timer: its bay, and whether it is late, that of a probe which has ended
already (R31; log 24). -/
structure ProbeEnd where
  bay : Fin 8
  late : Bool
  deriving DecidableEq, Repr

/-- The end of an identification, by the drive's answer or by the timer: its port, and whether it is late, that of an
identification which has ended already (R97; log 24). -/
structure IdentEnd where
  port : Fin 4
  late : Bool
  deriving DecidableEq, Repr

/-- A drive's answer to a write: its port, and whether it is late, the answer to a write that the port has abandoned (R130;
log 24). -/
structure WriteAnswer where
  port : Fin 4
  late : Bool
  deriving DecidableEq, Repr

/-- Events told by N_BAY with their further content (R43). -/
inductive BayEvent where
  | insert
  | mount (sig : CardSig)
  | probeFault
  | cardLost (left : BayState)
  | healthMode (mode : HealthMode)
  | lockChange
  deriving DecidableEq, Repr

/-- A removed area's final counts (R103, R115). -/
structure AreaCounts where
  fill : Nat
  abandoned : Nat
  placements : Nat
  deriving DecidableEq, Repr

/-- What an area change notice says of an installed area: start block, C, R and F (R115). -/
structure AreaBrief where
  start : Nat
  capacity : Nat
  reserve : Nat
  fill : Nat
  deriving DecidableEq, Repr

/-- Events told by N_PORT with their further content (R115). -/
inductive PortEvent where
  | attach (identity : Option DriveId)
  | detach
  | lost (grace : Nat)
  | returned (timeLeft : Nat)
  | graceExpiry (counts : AreaCounts)
  | fault (counts : AreaCounts)
  | areaChange (area : Option AreaBrief)
  deriving DecidableEq, Repr

/-- The four kinds of notice (10.4, R43, R115, R173). -/
inductive Notice where
  | bay (bay : Fin 8) (event : BayEvent) (state : BayState) (lock : Lock)
  | clip (clip job : Nat) (state : ClipState) (wait : Option WaitReason) (cause : Option Cause)
  | job (job : Nat) (state : JobState) (stop : Option StopMode) (counts : Counts)
  | port (port : Fin 4) (event : PortEvent) (state : PortState)
  deriving DecidableEq, Repr

/-- The commands, in the order of spec/opcode_table.json. `tag` is the request's tag (R166). Request operands are the
values as they stand in the request's body, so that the owning block can refuse them (R178). -/
inductive Instr where
  | powerOn
  | linkReset
  | linkUp
  | receiveFrame (transfer : List Byte)
  | sendFrame
  | noticeQueued (notice : Notice)
  | ident (tag : Nat)
  | plan (tag number : Nat)
  | poolFreeQuestion (plan : Fin 4)
  | planAnswer (yes : Bool)
  | health (tag selector w up lo : Nat)
  | grace (tag selector seconds : Nat)
  | baypwr (tag bay power : Nat)
  | portpwr (tag port power : Nat)
  | areaSet (tag port start length unit reserve fill : Nat) (label : List Byte)
  | areaDrop (tag port : Nat)
  | jobOpen (tag job bay verify damage count : Nat) (slots : List CopySlot)
  | clipAdd (tag job : Nat) (label : List Byte) (length : Nat) (runs : List Run) (expectFlag : Nat) (expect : Digest)
  | jobSeal (tag job : Nat)
  | jobStop (tag job mode : Nat)
  | clipCancel (tag clip : Nat)
  | cardRelease (tag bay force : Nat)
  | jobRetire (tag job : Nat)
  | cardRead (tag bay start count : Nat)
  | bayQuery (tag bay : Nat)
  | portQuery (tag port : Nat)
  | jobQuery (tag job : Nat)
  | clipQuery (tag clip : Nat)
  | poolQuery (tag : Nat)
  | reset (tag : Nat)
  | cardSeated (bay : Fin 8)
  | probeCompletion (probe : ProbeEnd) (answer : Option CardSig)
  | probeTimerExpiry (probe : ProbeEnd)
  | cardLeaves (bay : Fin 8)
  | cardLoss (bay : Fin 8) (seated : Bool)
  | ejectButton (bay : Fin 8)
  | bayJobBound (bay : Fin 8) (job : Nat) (sig : CardSig) (state : JobState)
  | bayJobState (bay : Fin 8) (state : JobState)
  | bayClearChange (bay : Fin 8) (value : Bool)
  | bayJobRemoved (bay : Fin 8)
  | bayReleaseAccepted (bay : Fin 8)
  | bayReadWork (bay : Fin 8) (work : ReadWork)
  | healthWindowExpiry (bay : Fin 8)
  | blockReadAttempt (lane : Fin 4) (answer : Option (List Byte))
  | readCompletionAck (lane : Fin 4) (item : WorkItem)
  | extentClaim (requester : Requester) (claim : ClaimId)
  | extentComplete (index : Nat) (claim : ClaimId) (bytes : Nat)
  | pendingSetQuestion (index : Nat) (claim : ClaimId)
  | pendingSetAnswer (index : Nat) (claim : ClaimId) (ports : List (Fin 4))
  | extentRelease (port : Fin 4) (extents : List (Nat × ClaimId))
  | clipDiscard (clip : Nat)
  | repairDiscard (clip : Nat) (port : Fin 4)
  | poolOffer (bay : Fin 8) (claim : ClaimId)
  | siblingOffer (port : Fin 4) (index : Nat) (claim : ClaimId)
  | waitRemoved (requester : Requester) (claim : ClaimId)
  | mountReport (bay : Fin 8) (sig : CardSig)
  | cardLostReport (bay : Fin 8)
  | burstEndReport (item : WorkItem) (state : DigestState)
  | blockSubstitution (clip block : Nat)
  | readCompletion (lane : Fin 4) (clip : Nat) (state : DigestState)
  | mediaFailure (clip : Nat)
  | repairReadCompletion (lane : Fin 4) (clip : Nat) (port : Fin 4) (digest : Digest)
  | repairSourceFailure (clip : Nat) (port : Fin 4)
  | holdAnswer (port : Fin 4) (clip : Nat) (answer : HoldAnswer)
  | confirmationAnswer (port : Fin 4) (clip : Nat) (answer : ConfirmAnswer)
  | extentWriteCompletion (port : Fin 4) (clip : Nat) (purpose : Purpose) (seq : Nat)
  | trailerWriteCompletion (port : Fin 4) (clip : Nat)
  | writeFailureReport (port : Fin 4) (clip : Nat)
  | verifyStart (port : Fin 4) (clip : Nat)
  | verifyDigestReport (port : Fin 4) (clip : Nat) (digest : Option Digest)
  | verifyCompletion (port : Fin 4) (clip : Nat) (trailerPassed : Bool)
  | siblingReadCompletion (port : Fin 4) (clip : Nat) (repairPort : Fin 4) (digest : Option Digest)
  | siblingCompletionAck (port : Fin 4) (clip : Nat) (repairPort : Fin 4)
  | areaInstalledReport (port : Fin 4)
  | driveLossReport (port : Fin 4)
  | driveReturnReport (port : Fin 4)
  | graceExpiryReport (port : Fin 4)
  | portFaultReport (port : Fin 4)
  | roomFreedReport (port : Fin 4) (clip : Nat)
  | holdEnquiry (port : Fin 4) (clip length : Nat)
  | holdConfirmation (port : Fin 4) (clip : Nat)
  | holdWithdrawal (port : Fin 4) (clip : Nat)
  | placementClose (port : Fin 4) (clip : Nat)
  | runAbandonment (port : Fin 4) (clip : Nat)
  | extentAppend (port : Fin 4) (index : Nat) (claim : ClaimId) (bytes : Nat)
  | trailerAppend (port : Fin 4) (clip : Nat) (fields : TrailerFields)
  | extentRemoval (port : Fin 4) (index : Nat) (claim : ClaimId)
  | trailerRemoval (port : Fin 4) (clip : Nat)
  | verifyAppend (port : Fin 4) (entry : VerifyEntry)
  | siblingAppend (port : Fin 4) (entry : VerifyEntry)
  | verifyRemoval (port : Fin 4) (clip : Nat)
  | siblingCancel (port : Fin 4) (clip : Nat) (repairPort : Fin 4)
  | driveConnected (port : Fin 4)
  | driveIdentified (ident : IdentEnd) (answer : Option DriveId)
  | identTimerExpiry (ident : IdentEnd)
  | driveLoss (port : Fin 4) (connected : Bool)
  | graceTimerExpiry (port : Fin 4)
  | writeCompletion (answer : WriteAnswer)
  | writeFailure (answer : WriteAnswer)
  | verifyChunkRead (port : Fin 4) (answer : Option (List Byte))
  | trailerRead (port : Fin 4) (answer : Option (List Byte))
  | siblingChunkRead (port : Fin 4) (answer : Option (List Byte))
  | claimAnswer (requester : Requester) (claim : ClaimId) (index : Option Nat)
  | workItemEnded (bay : Fin 8) (item : WorkItem)
  deriving DecidableEq, Repr

end Sys2Proof
end

