-- ==== Sys2Proof/Decode.lean ====
section
/-! DEFINITION. The decoder of table words. No row of spec/opcode_table.json gives bits, so no word spells a command; the
frames that the host sends are read in Sys2Proof/Machine/Operands.lean. -/

namespace Sys2Proof

/-- The command that a word spells by the table's bits: none. -/
def decodeTableWord (_nbits _w : Nat) : Option Instr := none

end Sys2Proof
end

