-- ==== Sys2Proof/Machine/Digest.lean ====
section
/-! DEFINITION. The digest arithmetic of 05_the_clip_digest.md and the byte order of integers. -/

namespace Sys2Proof.Machine

/-- The generator polynomial with its bits reversed (R88). -/
def digestPoly : Digest := 0xC96C5795D7870F42#64

/-- One of the eight steps of a byte (R88). -/
def digestStep (r : Digest) : Digest :=
  if r.getLsbD 0 then (r >>> 1) ^^^ digestPoly else r >>> 1

/-- A byte XORed into the low eight bits, and the eight steps (R88). -/
def digestByte (r : Digest) (b : Byte) : Digest :=
  digestStep (digestStep (digestStep (digestStep (digestStep (digestStep (digestStep (digestStep
    (r ^^^ b.setWidth 64))))))))

/-- The initial running state: register all ones, byte count 0 (R89). -/
def digestInitial : DigestState := ⟨BitVec.allOnes 64, 0⟩

/-- A digest unit takes bytes in order (R89). -/
def digestFeed (d : DigestState) (bytes : List Byte) : DigestState :=
  ⟨bytes.foldl digestByte d.reg, d.count + bytes.length⟩

/-- The final digest of a running state (R89). -/
def digestFinal (d : DigestState) : Digest := d.reg ^^^ BitVec.allOnes 64

/-- The digest of a sequence of bytes (R88). -/
def digestOf (bytes : List Byte) : Digest := digestFinal (digestFeed digestInitial bytes)

/-- An integer in n bytes, least significant byte first (R178). -/
def leBytes : Nat → Nat → List Byte
  | 0, _ => []
  | n + 1, v => BitVec.ofNat 8 v :: leBytes n (v / 256)

/-- The integer that bytes spell, least significant byte first (R178). -/
def leNat : List Byte → Nat
  | [] => 0
  | b :: t => b.toNat + 256 * leNat t

/-- The integer in the n bytes at an offset (R178). -/
def fieldAt (bytes : List Byte) (offset n : Nat) : Nat := leNat ((bytes.drop offset).take n)

/-- Bytes cut or filled with zeros to n places (R178, R186). -/
def fitBytes (n : Nat) (bytes : List Byte) : List Byte :=
  bytes.take n ++ List.replicate (n - bytes.length) 0#8

/-- ceil(a ÷ b) for b > 0 (00_scope.md, "Rounding"). -/
def ceilDiv (a b : Nat) : Nat := (a + (b - 1)) / b

end Sys2Proof.Machine
end

