-- ==== Sys2Proof/Machine/State.lean ====
section
/-! DEFINITION. The state of the part as plain data, block by block, and the state after reset. -/

namespace Sys2Proof.Machine

/-- No rule of the spec stops the machine, so no command raises a fault: a request out of place is answered by a reply
code (R168), a report out of place is dropped (R9). Safe: nothing is hidden behind a stop (log 31). -/
inductive Fault where
  deriving DecidableEq, Repr

/-- Why a command has no meaning in the model. -/
inductive Refusal where
  /-- Raised by `exec`'s arm of a command that is not modelled; no arm raises it now. Safe. -/
  | notModelled (mnemonic : String)
  deriving DecidableEq, Repr

/-! ## Bays (02_card_bays.md, 03_read_lanes_and_media_health.md) -/

/-- A bay's copies of its bound job: id, the job's signature, the job's state (2.1, R38). -/
structure BoundJob where
  id : Nat
  sig : CardSig
  state : JobState
  deriving DecidableEq, Repr

/-- The health monitor (3.5). `window` is the length of the window that runs (log 3). -/
structure Health where
  mode : HealthMode
  running : Bool
  window : Option Nat
  count : Nat
  w : Nat
  up : Nat
  lo : Nat
  deriving DecidableEq, Repr

/-- The bay record (2.1) with the bay's side of lanes and reads (R51, R60, R61, R83). -/
structure Bay where
  power : Power
  state : BayState
  cardPresent : Bool
  sig : Option CardSig
  probeTimer : Option Nat
  job : Option BoundJob
  clear : Bool
  lock : Lock
  lamp : Lamp
  health : Health
  reading : Option ReadWork
  repairs : List ReadWork
  waiting : Bool
  offered : Option WorkItem
  fails : Nat
  uncorrectable : Nat
  deriving DecidableEq, Repr

/-! ## Read lane arbiter and lanes (03_read_lanes_and_media_health.md) -/

/-- A host card read in progress on a lane: its entry, its bay, start block and truncated count, and the data of the
blocks read so far (R58). -/
structure HostRead where
  id : Nat
  bay : Fin 8
  start : Nat
  count : Nat
  blocks : Nat
  data : List Byte
  deriving DecidableEq, Repr

/-- What holds a lane (R50). -/
inductive Holder where
  | work (bay : Fin 8) (item : WorkItem)
  | host (read : HostRead)
  deriving DecidableEq, Repr

/-- The last extent of a read, kept until the job manager acknowledges the completion (R56). -/
structure LastExtent where
  index : Nat
  claim : ClaimId
  bytes : Nat
  deriving DecidableEq, Repr

/-- A lane (R50). It is FREE when it has no holder. -/
structure Lane where
  holder : Option Holder
  burst : Nat
  filled : Nat
  extent : Option Nat
  unit : Option DigestState
  claim : Option ClaimId
  endTurn : Bool
  ack : Option LastExtent
  deriving DecidableEq, Repr

/-- A PLAN whose question is with the pool manager (R49). -/
structure Asking where
  tag : Nat
  plan : Fin 4
  deriving DecidableEq, Repr

/-- A claim with its requester: a waiting request (R81), or a claim that its filler no longer awaits (log 44). -/
structure Wait where
  requester : Requester
  claim : ClaimId
  deriving DecidableEq, Repr

/-- The arbiter: plan in force, request list of host card reads, round-robin pointer, lanes (R48 to R52). `unawaited` lists the
claims that lanes have abandoned and whose answers are still to come (R80; log 44). -/
structure Arbiter where
  plan : Fin 4
  asking : Option Asking
  requests : List Nat
  pointer : Fin 8
  lanes : Vector Lane 4
  unawaited : List Wait
  deriving DecidableEq, Repr

/-! ## Staging pool (04_the_staging_pool.md) -/

/-- States of an extent that is not FREE (R70). -/
inductive ExtentState where
  | filling | full
  deriving DecidableEq, Repr

/-- For whom an offer has set an extent aside (R83, R84). -/
inductive SetAside where
  | bay (bay : Fin 8)
  | engine (port : Fin 4)
  deriving DecidableEq, Repr

/-- The record of an extent that is not FREE (R70). -/
structure Extent where
  state : ExtentState
  claim : ClaimId
  bytes : Nat
  pending : Option (List (Fin 4))
  aside : Option SetAside
  deriving DecidableEq, Repr

/-- Byte-addressed memory as a list of cells, addresses rising, none equal to what an unlisted address reads as. -/
abbrev Memory := List Host.Cell

/-- The pool manager. An index that `extents` does not list is FREE. `waits` stands in the order recorded. -/
structure Pool where
  extents : List (Nat × Extent)
  waits : List Wait
  window : Nat
  mem : Memory
  deriving DecidableEq, Repr

/-! ## Ports (06, 07, 08) -/

/-- The target area record (6.3). C and u are derived from it. -/
structure Area where
  start : Nat
  length : Nat
  unit : Nat
  blockSize : Nat
  reserve : Nat
  initialFill : Nat
  fill : Nat
  abandoned : Nat
  placements : Nat
  label : List Byte
  deriving DecidableEq, Repr

/-- An entry of the hold list; `void` carries the cause of a void hold (R103, R104). -/
structure Hold where
  clip : Nat
  footprint : Nat
  marked : Bool
  void : Option Cause
  deriving DecidableEq, Repr

/-- An entry of the open placements list (R105, R128). -/
structure OpenPlacement where
  clip : Nat
  start : Nat
  footprint : Nat
  givenUp : Bool
  deriving DecidableEq, Repr

/-- An entry of a write queue (R120). `bytes` is the extent's byte count as the append gave it, `start` the first block of the
run that the copy's open placement named when the append was taken (R123; log 37). -/
inductive WriteEntry where
  | extent (index : Nat) (claim : ClaimId) (bytes start : Nat)
  | trailer (clip : Nat) (fields : TrailerFields)
  deriving DecidableEq, Repr

/-- The write in progress: try count, first drive block, and the bytes written (R122 to R127). -/
structure DriveWrite where
  tries : Nat
  block : Nat
  data : List Byte
  deriving DecidableEq, Repr

/-- What a verify-side chunk reads (R138, R139, R145). -/
inductive ReadKind where
  | data | trailer | sibling
  deriving DecidableEq, Repr

/-- The verify-side chunk on the drive link: first block, number of blocks, and whether it is a retry. -/
structure DriveRead where
  kind : ReadKind
  block : Nat
  count : Nat
  retried : Bool
  deriving DecidableEq, Repr

/-- States of a verify engine (R136). -/
inductive EngineState where
  | idle | reading | waiting
  deriving DecidableEq, Repr

/-- A port's verify engine: state, next chunk, digest unit, chunk buffers, and the marks of the entry in progress
(R136, R138, R145). -/
structure Engine where
  state : EngineState
  chunk : Nat
  unit : Option DigestState
  buffer0 : Option (List Byte)
  buffer1 : Option (List Byte)
  unreadable : Bool
  extent : Option Nat
  claim : Option ClaimId
  ack : Bool
  noValue : Bool
  deriving DecidableEq, Repr

/-- Sides of the drive link (R137). -/
inductive Side where
  | write | verify
  deriving DecidableEq, Repr

/-- The sharing record (R137). -/
structure Share where
  side : Side
  taken : Nat
  deriving DecidableEq, Repr

/-- The port record (6.1). `unawaited` lists the claims that the verify engine has abandoned and whose answers are still to come
(R80; log 44). -/
structure Port where
  power : Power
  state : PortState
  drivePresent : Bool
  identity : Option DriveId
  ident : Option Nat
  otherDrive : Bool
  unidentified : Bool
  area : Option Area
  holds : List Hold
  openPl : List OpenPlacement
  grace : Nat
  graceTimer : Option Nat
  writeQ : List WriteEntry
  write : Option DriveWrite
  verifyQ : List VerifyEntry
  engine : Engine
  read : Option DriveRead
  share : Share
  tally : Nat
  unawaited : List ClaimId
  deriving DecidableEq, Repr

/-! ## Job manager (01_jobs_clips_and_copies.md) -/

/-- An entry of a job's copy set (1.1). -/
structure CopyEntry where
  port : Fin 4
  required : Bool
  deriving DecidableEq, Repr

/-- The job record (1.1). -/
structure Job where
  id : Nat
  bay : Fin 8
  sig : CardSig
  copySet : List CopyEntry
  verify : VerifyMode
  damage : DamagePolicy
  state : JobState
  stop : Option StopMode
  clips : List Nat
  forced : Bool
  counts : Counts
  deriving DecidableEq, Repr

/-- The source of a repair (R142). -/
inductive RepairSource where
  | none | card | port (port : Fin 4)
  deriving DecidableEq, Repr

/-- The repair record of a REPAIRING copy (R142). `reading` says that the source's read has not completed (log 15). -/
structure Repair where
  source : RepairSource
  cardExcluded : Bool
  running : Option DigestState
  reading : Bool
  deriving DecidableEq, Repr

/-- The copy record (1.3). -/
structure Copy where
  port : Fin 4
  required : Bool
  state : CopyState
  placement : Option Placement
  attempts : Nat
  digest : Option Digest
  cause : Option Cause
  repair : Option Repair
  deriving DecidableEq, Repr

/-- The clip record (1.2). -/
structure Clip where
  id : Nat
  job : Nat
  label : List Byte
  length : Nat
  runs : List Run
  expected : Option Digest
  running : Option DigestState
  digest : Option Digest
  bytesRead : Nat
  attempts : Nat
  mismatch : Bool
  damage : List Nat
  state : ClipState
  wait : Option WaitReason
  cause : Option Cause
  copies : List Copy
  deriving DecidableEq, Repr

/-- Phases of an admission: choosing the next clip, waiting for hold answers, waiting for confirmation answers. -/
inductive AdmPhase where
  | trying | enquiring | confirming
  deriving DecidableEq, Repr

/-- An answer taken from a port. -/
structure TakenAnswer where
  port : Fin 4
  answer : HoldAnswer
  deriving DecidableEq, Repr

/-- An admission in progress (R13 to R18). -/
structure Admission where
  phase : AdmPhase
  clip : Nat
  rest : List Nat
  awaiting : List (Fin 4)
  answers : List TakenAnswer
  confirmed : List (Fin 4)
  heldOver : Bool
  cancelled : Bool
  deriving DecidableEq, Repr

/-- A card-sourced repair as the job manager gave it to a bay. -/
structure CardRepair where
  clip : Nat
  port : Fin 4
  deriving DecidableEq, Repr

/-- What the job manager keeps for a bay: the bay view (R4), CLEAR as last given (R25), the card-sourced repairs given
to the bay in order (R148), and the admission in progress (R13). -/
structure BayView where
  sig : Option CardSig
  clear : Bool
  repairs : List CardRepair
  adm : Option Admission
  deriving DecidableEq, Repr

/-- The job manager. `late` lists the lanes' reports on an earlier read of a work item that were in transit when the item was given
to its bay anew; each is dropped when it is taken (R55; log 51). -/
structure JobManager where
  jobs : List Job
  clips : List Clip
  nextId : Nat
  views : Vector BayView 8
  late : List Instr
  deriving DecidableEq, Repr

/-! ## Link interface (10_the_control_link.md) -/

/-- Reply codes (R168, R180). -/
inductive ReplyCode where
  | done | busy | badArg | noRoom | noSuch | wrongState | notSafe | unknownKind | malformed | mediaError
  deriving DecidableEq, Repr

/-- What BAY_QUERY reports (R44). -/
structure BayInfo where
  power : Power
  state : BayState
  cardPresent : Bool
  sig : Option CardSig
  job : Option Nat
  away : Bool
  clear : Bool
  lock : Lock
  lamp : Lamp
  mode : HealthMode
  count : Nat
  w : Nat
  up : Nat
  lo : Nat
  deriving DecidableEq, Repr

/-- What PORT_QUERY reports (R116). -/
structure PortInfo where
  power : Power
  state : PortState
  drivePresent : Bool
  identifying : Bool
  identity : Option DriveId
  otherDrive : Bool
  grace : Nat
  graceLeft : Option Nat
  area : Option Area
  capacity : Nat
  unitBytes : Nat
  room : Nat
  nHolds : Nat
  nOpen : Nat
  nWrite : Nat
  nVerify : Nat
  tally : Nat
  deriving DecidableEq, Repr

/-- What POOL_QUERY reports of one clip (R86). -/
structure ClipHolding where
  clip : Nat
  first : Nat
  repair : Nat
  deriving DecidableEq, Repr

/-- What POOL_QUERY reports of one waiting request: the request and whether it is at the window (R81, R86). -/
structure WaitInfo where
  wait : Wait
  atWindow : Bool
  deriving DecidableEq, Repr

/-- What POOL_QUERY reports (R86). -/
structure PoolInfo where
  window : Nat
  nFree : Nat
  nFilling : Nat
  nFull : Nat
  clips : List ClipHolding
  perPort : List Nat
  waits : List WaitInfo
  deriving DecidableEq, Repr

/-- What IDENT reports (R169). -/
structure IdentInfo where
  vendor : String
  part : String
  revision : Nat
  bays : Nat
  ports : Nat
  extents : Nat
  clips : Nat
  freshStart : Bool
  deriving DecidableEq, Repr

/-- The content of a reply beside its code, kind by kind (10.3). -/
inductive ReplyBody where
  | codeAlone
  | ident (info : IdentInfo)
  | health (w up lo : Nat)
  | grace (seconds : Nat)
  | areaSet (capacity reserve unitBytes : Nat)
  | areaDrop (counts : AreaCounts)
  | clipAdd (clip : Nat)
  | jobState (state : JobState)
  | jobStop (state : JobState) (counts : Counts)
  | clipCancel (state : ClipState)
  | release (state : JobState) (forced : Bool)
  | retire (job : Nat) (bay : Fin 8) (state : JobState) (stop : Option StopMode) (forced : Bool) (counts : Counts)
  | cardRead (blocks failing : Nat) (data : List Byte)
  | bay (info : BayInfo)
  | port (info : PortInfo)
  | job (job : Job) (away clear : Bool)
  | clip (clip : Clip)
  | pool (info : PoolInfo)
  deriving DecidableEq, Repr

/-- A reply: the kind and tag of the request it answers, the code and the content (R168). -/
structure Reply where
  kind : Nat
  tag : Nat
  code : ReplyCode
  body : ReplyBody
  deriving DecidableEq, Repr

/-- A ready reply; `read` names the outstanding card read it answers (R167). -/
structure ReadyReply where
  read : Option Nat
  reply : Reply
  deriving DecidableEq, Repr

/-- A queued notice with its notices-dropped flag (R174). -/
structure QueuedNotice where
  notice : Notice
  dropped : Bool
  deriving DecidableEq, Repr

/-- The request in hand; `orphan` when a link reset has discarded its reply (R167, R176). -/
structure InHand where
  kind : Nat
  tag : Nat
  orphan : Bool
  deriving DecidableEq, Repr

/-- An outstanding host card read (R58). `id` is the model's own (log 32). -/
structure CardRead where
  id : Nat
  tag : Nat
  bay : Fin 8
  start : Nat
  count : Nat
  orphan : Bool
  deriving DecidableEq, Repr

/-- A message the part sends (R175). -/
inductive OutMessage where
  | reply (reply : Reply)
  | notice (notice : QueuedNotice)
  deriving DecidableEq, Repr

/-- A frame sent to the host: the message and the frame's bytes (R179; log 11). -/
structure SentFrame where
  message : OutMessage
  bytes : List Byte
  deriving DecidableEq, Repr

/-- The link interface's record (10_the_control_link.md). -/
structure LinkIf where
  up : Bool
  receive : List (List Byte)
  inHand : Option InHand
  reads : List CardRead
  ready : List ReadyReply
  notices : List QueuedNotice
  droppedMark : Bool
  freshStart : Bool
  inWaiting : Nat
  nextRead : Nat
  sent : List SentFrame
  deriving DecidableEq, Repr

/-! ## The part -/

/-- The whole part. `wire` holds the messages that blocks have sent each other and that are not yet taken, oldest first
(log 1); `fresh` counts the free values used (log 3); `pending` is the queue of commands waiting. -/
structure State where
  bays : Vector Bay 8
  arb : Arbiter
  pool : Pool
  ports : Vector Port 4
  jm : JobManager
  lki : LinkIf
  wire : List Instr
  fresh : Nat
  pending : List Instr
  deriving DecidableEq, Repr

/-! ## The state after reset: power-on with no card seated and no drive connected (R27, R45, R68, R69, R87, R95, R117,
R134, R151, R177; log 4, log 34) -/

/-- R69, power-on: stopped in NORMAL, count 0, the default settings of R45. -/
def Health.reset : Health :=
  { mode := .normal, running := false, window := none, count := 0, w := 10, up := 24, lo := 8 }

/-- R45 for a bay whose slot is empty. -/
def Bay.reset : Bay :=
  { power := .on, state := .empty, cardPresent := false, sig := none, probeTimer := none, job := none, clear := false,
    lock := .disengaged, lamp := .unlit, health := Health.reset, reading := none, repairs := [], waiting := false,
    offered := none, fails := 0, uncorrectable := 0 }

/-- A FREE lane (R68). -/
def Lane.reset : Lane :=
  { holder := none, burst := 0, filled := 0, extent := none, unit := none, claim := none, endTurn := false, ack := none }

/-- R68, power-on. -/
def Arbiter.reset : Arbiter :=
  { plan := 0, asking := none, requests := [], pointer := 7, lanes := Vector.replicate 4 Lane.reset,
    unawaited := [] }

/-- R87, power-on. -/
def Pool.reset : Pool := { extents := [], waits := [], window := 32, mem := [] }

/-- An IDLE verify engine with empty chunk buffers (R151). -/
def Engine.reset : Engine :=
  { state := .idle, chunk := 0, unit := none, buffer0 := none, buffer1 := none, unreadable := false, extent := none,
    claim := none, ack := false, noValue := false }

/-- R117, R134 and R151 for a port with no drive. -/
def Port.reset : Port :=
  { power := .on, state := .detached, drivePresent := false, identity := none, ident := none, otherDrive := false,
    unidentified := false, area := none, holds := [], openPl := [], grace := 30, graceTimer := none, writeQ := [],
    write := none, verifyQ := [], engine := Engine.reset, read := none, share := ⟨.write, 0⟩, tally := 0,
    unawaited := [] }

/-- R4, power-on: every bay shown not MOUNTED. -/
def BayView.reset : BayView := { sig := none, clear := false, repairs := [], adm := none }

/-- R27, power-on. -/
def JobManager.reset : JobManager :=
  { jobs := [], clips := [], nextId := 1, views := Vector.replicate 8 BayView.reset, late := [] }

/-- R177, power-on. -/
def LinkIf.reset : LinkIf :=
  { up := false, receive := [], inHand := none, reads := [], ready := [], notices := [], droppedMark := false,
    freshStart := true, inWaiting := 0, nextRead := 0, sent := [] }

/-- The part right after power-on with no card seated and no drive connected. -/
def State.reset : State :=
  { bays := Vector.replicate 8 Bay.reset, arb := Arbiter.reset, pool := Pool.reset,
    ports := Vector.replicate 4 Port.reset, jm := JobManager.reset, lki := LinkIf.reset, wire := [], fresh := 0,
    pending := [] }

end Sys2Proof.Machine
end

