-- ==== Sys2Proof/Machine/Formats.lean ====
section
/-! DEFINITION. The byte layouts of 11_message_and_record_formats.md that the part writes: codes, frames, the bodies
with a layout, and the trailer record. -/

namespace Sys2Proof.Machine

/-! ## Kinds (R180) -/

def kindIdent : Nat := 0x01
def kindPlan : Nat := 0x02
def kindHealth : Nat := 0x03
def kindGrace : Nat := 0x04
def kindBaypwr : Nat := 0x05
def kindPortpwr : Nat := 0x06
def kindAreaSet : Nat := 0x10
def kindAreaDrop : Nat := 0x11
def kindJobOpen : Nat := 0x20
def kindClipAdd : Nat := 0x21
def kindJobSeal : Nat := 0x22
def kindJobStop : Nat := 0x23
def kindClipCancel : Nat := 0x24
def kindCardRelease : Nat := 0x25
def kindJobRetire : Nat := 0x26
def kindCardRead : Nat := 0x30
def kindBayQuery : Nat := 0x40
def kindPortQuery : Nat := 0x41
def kindJobQuery : Nat := 0x42
def kindClipQuery : Nat := 0x43
def kindPoolQuery : Nat := 0x44
def kindReset : Nat := 0x50

/-- The kind byte of a notice (R180). -/
def noticeKind : Notice → Nat
  | .bay .. => 0x80
  | .clip .. => 0x81
  | .job .. => 0x82
  | .port .. => 0x83

/-! ## Codes (R180) -/

def codeReply : ReplyCode → Nat
  | .done => 0 | .busy => 1 | .badArg => 2 | .noRoom => 3 | .noSuch => 4 | .wrongState => 5 | .notSafe => 6
  | .unknownKind => 7 | .malformed => 8 | .mediaError => 9

def codeClip : ClipState → Nat
  | .queued => 1 | .waiting => 2 | .reading => 3 | .landing => 4 | .safe => 5 | .partialSafe => 6 | .failed => 7
  | .cancelled => 8

def codeCopy : CopyState → Nat
  | .pending => 1 | .writing => 2 | .written => 3 | .verifying => 4 | .verified => 5 | .repairing => 6 | .failed => 7
  | .dropped => 8 | .skipped => 9

def codeWait : WaitReason → Nat
  | .space => 1 | .port => 2

def codeCause : Cause → Nat
  | .media => 1 | .sourceLost => 2 | .sourceDigest => 3 | .writeError => 4 | .portLost => 5 | .portFault => 6
  | .verifyMismatch => 7 | .noRepairSource => 8 | .space => 9 | .cancelled => 10

/-- The repair source byte of a copy: 0 unless the copy is REPAIRING (R185). -/
def codeSource (c : Copy) : Nat :=
  match c.state, c.repair with
  | .repairing, some r => (match r.source with | .none => 0 | .card => 1 | .port _ => 2)
  | _, _ => 0

/-- The repair port byte of a copy: the sibling port while that is the source, else 0 (R185). -/
def codeSourcePort (c : Copy) : Nat :=
  match c.state, c.repair with
  | .repairing, some r => (match r.source with | .port p => p.val | _ => 0)
  | _, _ => 0

/-- A code of a field that may be absent: 0 is absent (R178). -/
def codeOpt {α : Type} (f : α → Nat) : Option α → Nat
  | none => 0
  | some a => f a

/-- A digest field that may be absent: zeros in its place (R178). -/
def digestBytes (d : Option Digest) : List Byte := leBytes 8 ((d.getD 0#64).toNat)

/-- One bit of a presence byte. -/
def presenceBit (b : Bool) (v : Nat) : Nat := if b then v else 0

/-! ## Bodies -/

/-- A run in a body: start block (4) and block count (4) (R182). -/
def runBytes (r : Run) : List Byte := leBytes 4 r.start ++ leBytes 4 r.count

/-- The 32 bytes of a copy in a CLIP_QUERY reply (R185). -/
def copyBytes (c : Copy) : List Byte :=
  leBytes 1 c.port.val ++ leBytes 1 (presenceBit c.required 1) ++ leBytes 1 (codeCopy c.state) ++
  leBytes 1 (codeOpt codeCause c.cause) ++ leBytes 1 c.attempts ++
  leBytes 1 (presenceBit c.placement.isSome 1 + presenceBit c.digest.isSome 2) ++
  leBytes 1 (codeSource c) ++ leBytes 1 (codeSourcePort c) ++
  leBytes 8 (codeOpt Placement.start c.placement) ++ leBytes 4 (codeOpt Placement.footprint c.placement) ++
  leBytes 4 (codeOpt Placement.dataUnits c.placement) ++ digestBytes c.digest

/-- The body of a CLIP_QUERY reply after its code: the head, label, runs, damage list and copies (R185). -/
def clipBytes (c : Clip) : List Byte :=
  leBytes 2 c.id ++ leBytes 1 c.job ++ leBytes 1 (codeClip c.state) ++ leBytes 1 (codeOpt codeWait c.wait) ++
  leBytes 1 (codeOpt codeCause c.cause) ++
  leBytes 1 (presenceBit c.expected.isSome 1 + presenceBit c.digest.isSome 2 + presenceBit c.mismatch 4) ++
  leBytes 1 c.attempts ++ leBytes 1 c.label.length ++ leBytes 1 c.runs.length ++ leBytes 1 c.damage.length ++
  leBytes 1 c.copies.length ++ leBytes 8 c.length ++ leBytes 8 c.bytesRead ++ digestBytes c.expected ++
  digestBytes c.digest ++ c.label ++ c.runs.flatMap runBytes ++ c.damage.flatMap (leBytes 4) ++
  c.copies.flatMap copyBytes

/-- A reply's body: the code, then the content in the layouts of 11.3 and 11.4; where the spec gives no layout, free
bytes, no more of them than a body of 40,000 bytes holds (R179; log 7). -/
def replyBytes (fresh : Nat) (r : Reply) : List Byte :=
  leBytes 1 (codeReply r.code) ++
    match r.body with
    | .codeAlone => []
    | .clipAdd id => leBytes 2 id
    | .cardRead blocks failing data => leBytes 2 blocks ++ leBytes 4 failing ++ data
    | .clip c => clipBytes c
    | _ => (Config.freeBytes fresh).take (Config.maxBody - 1)

/-- A notice's body: N_CLIP's six bytes (R185); for the others the spec gives no layout: free bytes, at most 40,000 (R179;
log 7). -/
def noticeBytes (fresh : Nat) : Notice → List Byte
  | .clip clip job state wait cause =>
    leBytes 2 clip ++ leBytes 1 job ++ leBytes 1 (codeClip state) ++ leBytes 1 (codeOpt codeWait wait) ++
      leBytes 1 (codeOpt codeCause cause)
  | _ => (Config.freeBytes fresh).take Config.maxBody

/-- A frame: the 8-byte header and the body (R179). -/
def frameOf (kind flags tag : Nat) (body : List Byte) : List Byte :=
  leBytes 4 body.length ++ leBytes 1 kind ++ leBytes 1 flags ++ leBytes 2 tag ++ body

/-- The bytes of a message to the host: flags 0x01 for a reply, 0x02 or 0x06 for a notice, tag 0 in a notice (R179). -/
def messageBytes (fresh : Nat) : OutMessage → List Byte
  | .reply r => frameOf r.kind 0x01 r.tag (replyBytes fresh r)
  | .notice n => frameOf (noticeKind n.notice) (if n.dropped then 0x06 else 0x02) 0 (noticeBytes fresh n.notice)

/-! ## The trailer record (R186) -/

/-- The trailer marker, the ASCII bytes of EZOC84TR. -/
def trailerMarker : List Byte := [0x45#8, 0x5A#8, 0x4F#8, 0x43#8, 0x38#8, 0x34#8, 0x54#8, 0x52#8]

/-- The first 504 bytes of the trailer record of a copy (R126, R186). -/
def trailerHead (port : Fin 4) (clip : Nat) (t : TrailerFields) : List Byte :=
  trailerMarker ++ leBytes 2 1 ++ leBytes 1 t.job ++ leBytes 1 port.val ++ leBytes 2 clip ++ leBytes 1 t.attempt ++
  leBytes 1 t.damage.length ++ leBytes 8 t.length ++ leBytes 8 t.digest.toNat ++ fitBytes 16 t.sig.serial ++
  leBytes 4 t.sig.capacity ++ fitBytes 64 (t.damage.flatMap (leBytes 4)) ++ leBytes 8 t.runStart ++
  leBytes 1 t.label.length ++ fitBytes 48 t.label ++ List.replicate 331 0#8

/-- The trailer record: its first 504 bytes and their digest (R94, R186). -/
def trailerRecord (port : Fin 4) (clip : Nat) (t : TrailerFields) : List Byte :=
  trailerHead port clip t ++ leBytes 8 (digestOf (trailerHead port clip t)).toNat

/-- The five checks of a trailer read back (R139). -/
def trailerPasses (e : VerifyEntry) (block : List Byte) : Bool :=
  let r := block.take 512
  r.take 8 == trailerMarker && fieldAt r 12 2 == e.clip && fieldAt r 16 8 == e.length &&
    fieldAt r 24 8 == e.digest.toNat && fieldAt r 504 8 == (digestOf (r.take 504)).toNat

end Sys2Proof.Machine
end

