-- ==== Sys2Proof/Machine/Operands.lean ====
section
/-! DEFINITION. Reading a transfer from the host: the form checks of R166 and the request bodies of R180 to R183, and the
small operand forms of requests (power, flags, selectors, copy sets, source runs). -/

namespace Sys2Proof.Machine

/-- What the link interface makes of a transfer: a refusal with the kind and tag as read, or a request. -/
inductive FrameResult where
  | refuse (kind tag : Nat) (code : ReplyCode)
  | request (kind tag : Nat) (command : Instr)
  deriving DecidableEq, Repr

/-- n runs of 8 bytes each (R182). -/
def parseRuns : Nat → List Byte → List Run
  | 0, _ => []
  | n + 1, bytes => ⟨fieldAt bytes 0 4, fieldAt bytes 4 4⟩ :: parseRuns n (bytes.drop 8)

/-- The four entry slots of JOB_OPEN (R181). -/
def parseSlots : Nat → List Byte → List CopySlot
  | 0, _ => []
  | n + 1, bytes => ⟨fieldAt bytes 0 1, fieldAt bytes 1 1⟩ :: parseSlots n (bytes.drop 2)

/-- The body length that a kind defines, with the counts within the body for CLIP_ADD and AREA_SET (R166, R180); none for
a kind that is not a request kind. -/
def bodyLength (kind : Nat) (b : List Byte) : Option Nat :=
  match kind with
  | 0x01 => some 0
  | 0x02 => some 1
  | 0x03 => some 4
  | 0x04 => some 3
  | 0x05 => some 2
  | 0x06 => some 2
  | 0x10 => some (38 + fieldAt b 1 1)
  | 0x11 => some 1
  | 0x20 => some 13
  | 0x21 => some (20 + fieldAt b 1 1 + 8 * fieldAt b 2 1)
  | 0x22 => some 1
  | 0x23 => some 2
  | 0x24 => some 2
  | 0x25 => some 2
  | 0x26 => some 1
  | 0x30 => some 7
  | 0x40 => some 1
  | 0x41 => some 1
  | 0x42 => some 1
  | 0x43 => some 2
  | 0x44 => some 0
  | 0x50 => some 0
  | _ => none

/-- The request a body of the right length spells (R180 to R183). -/
def parseBody (kind tag : Nat) (b : List Byte) : Option Instr :=
  match kind with
  | 0x01 => some (.ident tag)
  | 0x02 => some (.plan tag (fieldAt b 0 1))
  | 0x03 => some (.health tag (fieldAt b 0 1) (fieldAt b 1 1) (fieldAt b 2 1) (fieldAt b 3 1))
  | 0x04 => some (.grace tag (fieldAt b 0 1) (fieldAt b 1 2))
  | 0x05 => some (.baypwr tag (fieldAt b 0 1) (fieldAt b 1 1))
  | 0x06 => some (.portpwr tag (fieldAt b 0 1) (fieldAt b 1 1))
  | 0x10 => some (.areaSet tag (fieldAt b 0 1) (fieldAt b 2 8) (fieldAt b 10 8) (fieldAt b 18 4) (fieldAt b 22 8)
      (fieldAt b 30 8) (b.drop 38))
  | 0x11 => some (.areaDrop tag (fieldAt b 0 1))
  | 0x20 => some (.jobOpen tag (fieldAt b 0 1) (fieldAt b 1 1) (fieldAt b 2 1) (fieldAt b 3 1) (fieldAt b 4 1)
      (parseSlots 4 (b.drop 5)))
  | 0x21 => some (.clipAdd tag (fieldAt b 0 1) ((b.drop 20).take (fieldAt b 1 1)) (fieldAt b 4 8)
      (parseRuns (fieldAt b 2 1) (b.drop (20 + fieldAt b 1 1))) (fieldAt b 3 1) (BitVec.ofNat 64 (fieldAt b 12 8)))
  | 0x22 => some (.jobSeal tag (fieldAt b 0 1))
  | 0x23 => some (.jobStop tag (fieldAt b 0 1) (fieldAt b 1 1))
  | 0x24 => some (.clipCancel tag (fieldAt b 0 2))
  | 0x25 => some (.cardRelease tag (fieldAt b 0 1) (fieldAt b 1 1))
  | 0x26 => some (.jobRetire tag (fieldAt b 0 1))
  | 0x30 => some (.cardRead tag (fieldAt b 0 1) (fieldAt b 1 4) (fieldAt b 5 2))
  | 0x40 => some (.bayQuery tag (fieldAt b 0 1))
  | 0x41 => some (.portQuery tag (fieldAt b 0 1))
  | 0x42 => some (.jobQuery tag (fieldAt b 0 1))
  | 0x43 => some (.clipQuery tag (fieldAt b 0 2))
  | 0x44 => some (.poolQuery tag)
  | 0x50 => some (.reset tag)
  | _ => none

/-- The shortest body whose counts can be read: 20 bytes for CLIP_ADD, 38 for AREA_SET. -/
def countsWithin (kind : Nat) (b : List Byte) : Bool :=
  if kind = kindClipAdd then decide (20 ≤ b.length) else if kind = kindAreaSet then decide (38 ≤ b.length) else true

/-- The five checks of R166, in their order. Any bit set in the flags byte counts as a flag (log 8). -/
def parseFrame (t : List Byte) : FrameResult :=
  if t.length < 8 then .refuse 0 0 .malformed
  else
    let length := fieldAt t 0 4
    let kind := fieldAt t 4 1
    let flags := fieldAt t 5 1
    let tag := fieldAt t 6 2
    let body := t.drop 8
    if Config.maxBody < length ∨ t.length ≠ 8 + length then .refuse kind tag .malformed
    else if flags ≠ 0 then .refuse kind tag .malformed
    else
      match bodyLength kind body with
      | none => .refuse kind tag .unknownKind
      | some n =>
        if countsWithin kind body = false ∨ body.length ≠ n then .refuse kind tag .malformed
        else
          match parseBody kind tag body with
          | none => .refuse kind tag .unknownKind
          | some c => .request kind tag c

/-! ## Operand forms -/

/-- A number below n as an index; none outside (BAD_ARG). -/
def indexOf (n : Nat) (v : Nat) : Option (Fin n) := if h : v < n then some ⟨v, h⟩ else none

/-- The power code: OFF 1, ON 2 (R180). -/
def powerOf : Nat → Option Power
  | 1 => some .off
  | 2 => some .on
  | _ => none

/-- The verify mode code: FULL 1, OFF 2 (R180). -/
def verifyOf : Nat → Option VerifyMode
  | 1 => some .full
  | 2 => some .off
  | _ => none

/-- The damage policy code: ABORT 1, SALVAGE 2 (R180). -/
def policyOf : Nat → Option DamagePolicy
  | 1 => some .abort
  | 2 => some .salvage
  | _ => none

/-- The stop mode code: DRAIN 1, CUT 2 (R180). -/
def stopOf : Nat → Option StopMode
  | 1 => some .drain
  | 2 => some .cut
  | _ => none

/-- A one-byte flag: 0 clear, 1 set (R178). -/
def flagOf : Nat → Option Bool
  | 0 => some false
  | 1 => some true
  | _ => none

/-- A selector of HEALTH and GRACE: one number, or 0xFF for all (R180). -/
def selectorOf (n : Nat) (v : Nat) : Option (List (Fin n)) :=
  if v = 0xFF then some (List.finRange n) else (indexOf n v).map (fun i => [i])

/-- One slot of the copy set as an entry. -/
def entryOf (s : CopySlot) : Option CopyEntry :=
  match indexOf 4 s.port, flagOf s.flag with
  | some p, some f => some ⟨p, f⟩
  | _, _ => none

/-- The entries of slots, none when one of them is out of range. -/
def entriesOf : List CopySlot → Option (List CopyEntry)
  | [] => some []
  | s :: t =>
    match entryOf s, entriesOf t with
    | some e, some es => some (e :: es)
    | _, _ => none

/-- The copy set of JOB_OPEN: 1 to 4 entries, ports 0 to 3 and none twice, at least one required (R1, step 1). -/
def copySetOf (count : Nat) (slots : List CopySlot) : Option (List CopyEntry) :=
  if 1 ≤ count ∧ count ≤ 4 ∧ count ≤ slots.length then
    match entriesOf (slots.take count) with
    | none => none
    | some es => if (es.map CopyEntry.port).Nodup ∧ es.any CopyEntry.required then some es else none
  else none

/-- The number of card blocks in runs. -/
def runBlocks (runs : List Run) : Nat := (runs.map Run.count).sum

/-- Two runs share no card block. -/
def runsApart (a b : Run) : Bool := decide (a.start + a.count ≤ b.start) || decide (b.start + b.count ≤ a.start)

/-- No card block belongs to two runs (R6). -/
def runsDisjoint : List Run → Bool
  | [] => true
  | r :: rs => rs.all (runsApart r) && runsDisjoint rs

/-- The four conditions of R6 on source runs. -/
def runsValid (length capacity : Nat) (runs : List Run) : Bool :=
  runs.all (fun r => decide (1 ≤ r.count) && decide (r.count ≤ Config.maxRunBlocks) &&
      decide (r.start + r.count ≤ capacity)) &&
    runsDisjoint runs && decide (length ≤ runBlocks runs * Config.blockBytes) &&
    decide (runBlocks runs * Config.blockBytes < length + Config.blockBytes)

/-- The card block of a clip's k-th block, in the order of its runs (R6, R54). -/
def blockAt : List Run → Nat → Nat
  | [], _ => 0
  | r :: rs, k => if k < r.count then r.start + k else blockAt rs (k - r.count)

/-- U is a power of two in 8 to 65,536 (R100). -/
def unitValid (u : Nat) : Bool :=
  [8, 16, 32, 64, 128, 256, 512, 1024, 2048, 4096, 8192, 16384, 32768, 65536].contains u

/-- v clamped into lo to hi. -/
def clamp (lo hi v : Nat) : Nat := max lo (min hi v)

end Sys2Proof.Machine
end

