-- ==== Sys2Proof/Machine/Flags.lean ====
section
/-! DEFINITION. The conditions and flags that the spec derives from the records: away, lamp, settled, succeeded, terminal,
area sizes, and which side of a drive link is ready. -/

namespace Sys2Proof.Machine

/-! ## Bays -/

/-- Away, as a bay derives it: a job is bound and the bay is not MOUNTED, or is MOUNTED with another signature (R38). -/
def bayAway (b : Bay) : Bool :=
  match b.job with
  | none => false
  | some j => decide (b.state ≠ .mounted) || decide (b.sig ≠ some j.sig)

/-- The lamp: the first row of R42's table whose condition holds. -/
def lampOf (b : Bay) : Lamp :=
  match b.job with
  | none => .unlit
  | some j =>
    if b.state = .off then .unlit
    else if b.state = .faulted ∨ bayAway b = true then .redFlashing
    else if b.clear then .greenSteady
    else if j.state = .done ∨ j.state = .stopped then .redSteady
    else if b.health.mode = .careful then .amberFlashing
    else .amberSteady

/-- The work item of a read work that a bay holds, if it holds it (R51). -/
def bayWork (b : Bay) (item : WorkItem) : Option ReadWork :=
  match b.repairs.find? (fun w => decide (w.item = item)) with
  | some w => some w
  | none =>
    match b.reading with
    | some w => if w.item = item then some w else none
    | none => none

/-- The work item of a turn: the offered one if the bay still has it (R83), else the oldest repair, else the READING
clip (R53). -/
def bayItem (b : Bay) : Option WorkItem :=
  match b.offered.bind (bayWork b) with
  | some w => some w.item
  | none =>
    match b.repairs with
    | w :: _ => some w.item
    | [] => b.reading.map ReadWork.item

/-- A bay that gives lane work: MOUNTED, job not away, with read work, not waiting on the pool (R51). That it holds no
lane is the arbiter's to see. -/
def bayWantsLane (b : Bay) : Bool :=
  decide (b.state = .mounted) && b.job.isSome && !bayAway b && (bayItem b).isSome && !b.waiting

/-! ## Clips, copies, jobs -/

/-- SAFE, PARTIAL, FAILED and CANCELLED are terminal (R8). -/
def clipTerminal (c : Clip) : Bool :=
  match c.state with
  | .safe | .partialSafe | .failed | .cancelled => true
  | .queued | .waiting | .reading | .landing => false

/-- A settled copy (R12). -/
def copySettled (verify : VerifyMode) (c : Copy) : Bool :=
  match c.state with
  | .verified | .failed | .dropped | .skipped => true
  | .written => decide (verify = .off)
  | .pending | .writing | .verifying | .repairing => false

/-- A copy that has succeeded (R12). -/
def copySucceeded (verify : VerifyMode) (c : Copy) : Bool :=
  match c.state with
  | .verified => true
  | .written => decide (verify = .off)
  | _ => false

/-- A job in DONE or STOPPED (R2). -/
def jobEnded (j : Job) : Bool := decide (j.state = .done) || decide (j.state = .stopped)

/-- The number of extents of a clip (R54). -/
def extentCount (length : Nat) : Nat := ceilDiv length Config.extentBytes

/-- The byte count of extent k of a clip (R54). -/
def extentLength (length k : Nat) : Nat := min Config.extentBytes (length - k * Config.extentBytes)

/-- The terminal decision's clip state (R24). -/
def decisionState (verify : VerifyMode) (copies : List Copy) : ClipState :=
  if copies.all (fun c => !c.required || copySucceeded verify c) then .safe
  else if copies.any (copySucceeded verify) then .partialSafe
  else .failed

/-- The cause of a PARTIAL or FAILED decision: that of the first required copy that has not succeeded (R24). -/
def decisionCause (verify : VerifyMode) (copies : List Copy) : Option Cause :=
  match copies.find? (fun c => c.required && !copySucceeded verify c) with
  | some c => c.cause
  | none => none

/-! ## Target areas (6.3) -/

/-- C = floor(length blocks ÷ U). -/
def areaCapacity (a : Area) : Nat := a.length / a.unit

/-- u = U × s. -/
def areaUnitBytes (a : Area) : Nat := a.unit * a.blockSize

/-- The data units of a clip of length L (R101). -/
def dataUnits (a : Area) (length : Nat) : Nat := ceilDiv length (areaUnitBytes a)

/-- The footprint of a copy: its data units and one for the trailer (R101). -/
def footprint (a : Area) (length : Nat) : Nat := dataUnits a length + 1

/-- The footprints held; a void hold counts for no room (R103, R104). -/
def heldUnits (holds : List Hold) : Nat := ((holds.filter (fun h => h.void.isNone)).map Hold.footprint).sum

/-- A copy fits: F, the holds and its footprint do not exceed C − R (R101). -/
def copyFits (a : Area) (holds : List Hold) (length : Nat) : Bool :=
  decide (a.fill + heldUnits holds + footprint a length ≤ areaCapacity a - a.reserve)

/-- The drive block of extent k of a run (R123). -/
def extentBlock (runStart blockSize k : Nat) : Nat := runStart + k * (Config.extentBytes / blockSize)

/-- The trailer block of a run: run start + D × U (R105, R126). -/
def trailerBlock (runStart units unit : Nat) : Nat := runStart + units * unit

/-- An open placement of a clip (R107). -/
def openOf (p : Port) (clip : Nat) : Option OpenPlacement := p.openPl.find? (fun o => o.clip == clip)

/-- The port holds the clip's placement in an installed area and has not given up the copy (R75, R121). -/
def takesCopy (p : Port) (clip : Nat) : Bool :=
  p.area.isSome && (openOf p clip).any (fun o => !o.givenUp)

/-! ## The drive link (8.2) -/

/-- The link carries no chunk, and no claim for one is out. -/
def linkFree (p : Port) : Bool := p.write.isNone && p.read.isNone && p.engine.claim.isNone

/-- The clip of a write queue entry. -/
def entryClip : WriteEntry → Nat
  | .extent _ c _ _ => c.clip
  | .trailer clip _ => clip

/-- The write side is ready: the conditions of R122 other than the turn. -/
def writeReady (p : Port) : Bool := decide (p.state = .ready) && !p.writeQ.isEmpty && p.write.isNone

/-- The verify side is ready (R137), with a free chunk buffer (R138); not while the engine waits for an acknowledgment,
when no chunk of its entry is left to read (log 26). -/
def verifyReady (p : Port) : Bool :=
  decide (p.state = .ready) && !p.verifyQ.isEmpty && decide (p.engine.state ≠ .waiting) && !p.engine.ack &&
    (p.engine.buffer0.isNone || p.engine.buffer1.isNone)

/-- The share of a side under a plan (R137). -/
def shareOf (plan : Fin 4) : Side → Nat
  | .write => (Config.planRow plan).writeShare
  | .verify => (Config.planRow plan).verifyShare

/-- The other side. -/
def otherSide : Side → Side
  | .write => .verify
  | .verify => .write

/-- One side alone takes the chunk (R137). -/
def shareAlone (s : Share) (side : Side) : Share :=
  if s.side = side then ⟨side, s.taken + 1⟩ else ⟨side, 1⟩

/-- The verify side's next move is to claim the extent that its next chunk fills: its entry is a sibling entry with no extent
at hand (R145). -/
def claimsFirst (x : Port) : Bool :=
  x.verifyQ.head?.any (fun e => e.repairPort.isSome) &&
    (decide (x.engine.state = .idle) || x.engine.extent.isNone)

/-- The choice of R137: the sharing record after the next chunk is given, none when no side is ready. -/
def shareChoice (plan : Fin 4) (s : Share) (writeSide verifySide : Bool) : Option Share :=
  match writeSide, verifySide with
  | true, true =>
    if s.taken < shareOf plan s.side then some ⟨s.side, s.taken + 1⟩ else some ⟨otherSide s.side, 1⟩
  | true, false => some (shareAlone s .write)
  | false, true => some (shareAlone s .verify)
  | false, false => none

end Sys2Proof.Machine
end

