-- ==== Sys2Proof/Machine/Ops.lean ====
section
/-! DEFINITION. The named operations every block uses: reading and writing a bay, lane, port or job manager record, the
messages in transit, the pool's buffer memory, and the link interface's replies, notices and transfers. -/

namespace Sys2Proof.Machine

/-! ## Buffer memory (R73) -/

/-- The byte at an address. -/
def Memory.read : Memory → Nat → Byte
  | [], _ => Config.unwritten
  | (b, w) :: t, a => if b = a then w else Memory.read t a

/-- A byte written at an address, keeping the canonical form. -/
def Memory.write : Memory → Nat → Byte → Memory
  | [], a, v => if v = Config.unwritten then [] else [(a, v)]
  | (b, w) :: t, a, v =>
    if a < b then (if v = Config.unwritten then (b, w) :: t else (a, v) :: (b, w) :: t)
    else if a = b then (if v = Config.unwritten then t else (a, v) :: t)
    else (b, w) :: Memory.write t a v

/-- Bytes written upward from an address. -/
def Memory.writeBytes : Memory → Nat → List Byte → Memory
  | m, _, [] => m
  | m, a, v :: t => Memory.writeBytes (Memory.write m a v) (a + 1) t

/-- n bytes read upward from an address. -/
def Memory.readBytes (m : Memory) (a : Nat) : Nat → List Byte
  | 0 => []
  | n + 1 => Memory.read m a :: Memory.readBytes m (a + 1) n

/-- The canonical form: addresses strictly rising, no listed byte equal to what an unlisted address reads as. -/
abbrev Memory.wf (m : Memory) : Prop :=
  (m.map Prod.fst).Pairwise (· < ·) ∧ ∀ c ∈ m, c.2 ≠ Config.unwritten

/-! ## Records -/

/-- The record of a bay. -/
def State.bay (s : State) (b : Fin 8) : Bay := s.bays[b]

/-- A bay's record replaced. -/
def State.setBay (s : State) (b : Fin 8) (x : Bay) : State := { s with bays := s.bays.set b x }

/-- The record of a lane. -/
def State.lane (s : State) (n : Fin 4) : Lane := s.arb.lanes[n]

/-- A lane's record replaced. -/
def State.setLane (s : State) (n : Fin 4) (x : Lane) : State :=
  { s with arb := { s.arb with lanes := s.arb.lanes.set n x } }

/-- The claims that lanes have abandoned and whose answers are still to come, replaced (log 44). -/
def State.setUnawaited (s : State) (ws : List Wait) : State := { s with arb := { s.arb with unawaited := ws } }

/-- The record of a port. -/
def State.port (s : State) (p : Fin 4) : Port := s.ports[p]

/-- A port's record replaced. -/
def State.setPort (s : State) (p : Fin 4) (x : Port) : State := { s with ports := s.ports.set p x }

/-- The job manager's view of a bay. -/
def State.view (s : State) (b : Fin 8) : BayView := s.jm.views[b]

/-- A bay view replaced. -/
def State.setView (s : State) (b : Fin 8) (x : BayView) : State :=
  { s with jm := { s.jm with views := s.jm.views.set b x } }

/-- The present job record of an id (R1). -/
def State.job? (s : State) (id : Nat) : Option Job := s.jm.jobs.find? (fun j => j.id == id)

/-- The job of a bay (R1: at most one). -/
def State.jobOf (s : State) (b : Fin 8) : Option Job := s.jm.jobs.find? (fun j => j.bay == b)

/-- A job record changed. -/
def State.modJob (s : State) (id : Nat) (f : Job → Job) : State :=
  { s with jm := { s.jm with jobs := s.jm.jobs.map (fun j => if j.id = id then f j else j) } }

/-- The present clip record of an id (R9). -/
def State.clip? (s : State) (id : Nat) : Option Clip := s.jm.clips.find? (fun c => c.id == id)

/-- A clip record changed. -/
def State.modClip (s : State) (id : Nat) (f : Clip → Clip) : State :=
  { s with jm := { s.jm with clips := s.jm.clips.map (fun c => if c.id = id then f c else c) } }

/-- A clip's copy on a port (1.3: each port at most once). -/
def copyOn (c : Clip) (p : Fin 4) : Option Copy := c.copies.find? (fun k => k.port == p)

/-- A clip with its copy on a port changed. -/
def setCopyOn (p : Fin 4) (f : Copy → Copy) (c : Clip) : Clip :=
  { c with copies := c.copies.map (fun k => if k.port = p then f k else k) }

/-- A copy record changed. -/
def State.modCopy (s : State) (id : Nat) (p : Fin 4) (f : Copy → Copy) : State := s.modClip id (setCopyOn p f)

/-! ## Messages in transit (log 1) -/

/-- A message sent to another block. -/
def State.send (s : State) (m : Instr) : State := { s with wire := s.wire ++ [m] }

/-- Messages sent in order. -/
def State.sendAll (s : State) (ms : List Instr) : State := { s with wire := s.wire ++ ms }

/-- A message taken: it is in transit no more. -/
def State.arrive (s : State) (m : Instr) : State := { s with wire := s.wire.erase m }

/-- A message by which a lane, or its bay, reports to the job manager on a work item (R19, R55, R56, R61, R62). -/
def reportsOn (item : WorkItem) : Instr → Bool
  | .burstEndReport i _ => decide (i = item)
  | .blockSubstitution c _ | .readCompletion _ c _ | .mediaFailure c => decide (item = .clip c)
  | .repairReadCompletion _ c p _ | .repairSourceFailure c p => decide (item = .repair c p)
  | _ => false

/-- A read of a work item begins: the reports on an earlier one that are still in transit are late (R55; log 51). -/
def State.beginRead (s : State) (item : WorkItem) : State :=
  { s with jm := { s.jm with
    late := s.jm.late.filter (fun m => !reportsOn item m) ++ s.wire.filter (reportsOn item) } }

/-- A late report has come: it is late no more. -/
def State.forget (s : State) (m : Instr) : State := { s with jm := { s.jm with late := s.jm.late.erase m } }

/-- A lane's report is applied, or dropped where it is late: the work item that it is about is gone (R9, R55; log 51). -/
def State.unlessLate (s : State) (m : Instr) (apply : State → State) : State :=
  if m ∈ s.jm.late then s.forget m else apply s

/-- The messages in transit that are not late. -/
def State.inTime (s : State) : List Instr := s.jm.late.foldl List.erase s.wire

/-- A notice handed to the link interface (R174). -/
def State.notify (s : State) (n : Notice) : State := s.send (.noticeQueued n)

/-- A notice of a bay: the event, its state after the event and its lock (R43). -/
def State.bayNotice (s : State) (b : Fin 8) (e : BayEvent) : State :=
  s.notify (.bay b e (s.bay b).state (s.bay b).lock)

/-- A notice of a port: the event and its state after the event (R115). -/
def State.portNotice (s : State) (p : Fin 4) (e : PortEvent) : State := s.notify (.port p e (s.port p).state)

/-- The bay sets its lamp anew (R42). -/
def State.lampSet (s : State) (b : Fin 8) : State := s.setBay b { s.bay b with lamp := lampOf (s.bay b) }

/-! ## The link interface (10_the_control_link.md) -/

/-- The entry of a card read leaves the table when its reply is sent (R58). -/
def dropRead (read : Option Nat) (reads : List CardRead) : List CardRead :=
  match read with
  | none => reads
  | some id => reads.filter (fun r => r.id != id)

/-- The next request is taken only when no request is in hand and every ready reply that does not answer a card read has
been sent (R167). -/
def mayTakeRequest (l : LinkIf) : Bool := l.up && l.inHand.isNone && l.ready.all (fun r => r.read.isSome)

/-- One frame sent: the oldest ready reply, else the notice at the head (R175). None when there is neither. -/
def State.sendOne (s : State) : Option State :=
  match s.lki.ready with
  | r :: rest =>
    some { s with
      lki := { s.lki with
        ready := rest
        reads := dropRead r.read s.lki.reads
        sent := s.lki.sent ++ [⟨.reply r.reply, messageBytes s.fresh (.reply r.reply)⟩] }
      fresh := s.fresh + 1 }
  | [] =>
    match s.lki.notices with
    | n :: rest =>
      some { s with
        lki := { s.lki with
          notices := rest
          sent := s.lki.sent ++ [⟨.notice n, messageBytes s.fresh (.notice n)⟩] }
        fresh := s.fresh + 1 }
    | [] => none

/-- A transfer taken whole: refused with a reply, or dispatched as the request in hand (R166, R167). -/
def State.takeTransfer (s : State) (t : List Byte) : State :=
  match parseFrame t with
  | .refuse kind tag code =>
    { s with lki := { s.lki with ready := s.lki.ready ++ [⟨none, ⟨kind, tag, code, .codeAlone⟩⟩] } }
  | .request kind tag c => ({ s with lki := { s.lki with inHand := some ⟨kind, tag, false⟩ } }).send c

/-- One act of the link interface: a frame for a transfer of the host that waits (R175), else the next waiting transfer
taken (R167). -/
def State.linkAct (s : State) : Option State :=
  if s.lki.up = false then none
  else
    match (if s.lki.inWaiting = 0 then none else s.sendOne) with
    | some t => some { t with lki := { t.lki with inWaiting := t.lki.inWaiting - 1 } }
    | none =>
      match s.lki.receive with
      | t :: rest =>
        if mayTakeRequest s.lki then some (({ s with lki := { s.lki with receive := rest } } : State).takeTransfer t)
        else none
      | [] => none

/-- At most n acts of the link interface. -/
def State.linkActs : Nat → State → State
  | 0, s => s
  | n + 1, s =>
    match s.linkAct with
    | some t => State.linkActs n t
    | none => s

/-- The link interface acts until it has nothing to send and nothing to take; each act uses up one waiting transfer. -/
def State.linkSettle (s : State) : State := State.linkActs (s.lki.inWaiting + s.lki.receive.length) s

/-- The request in hand is this one. -/
def handIs (l : LinkIf) (kind tag : Nat) : Bool := l.inHand.any (fun h => h.kind == kind && h.tag == tag)

/-- The request in hand is this one, and a link reset has taken its reply (R176). -/
def handOrphan (l : LinkIf) (kind tag : Nat) : Bool :=
  l.inHand.any (fun h => h.kind == kind && h.tag == tag && h.orphan)

/-- The request is decided: it is in hand no more. -/
def State.dropHand (s : State) (kind tag : Nat) : State :=
  if handIs s.lki kind tag then { s with lki := { s.lki with inHand := none } } else s

/-- A reply joins the ready replies. -/
def State.joinReady (s : State) (r : ReadyReply) : State := { s with lki := { s.lki with ready := s.lki.ready ++ [r] } }

/-- A request is decided and its reply becomes ready, or is discarded after a link reset (R167, R176). -/
def State.answer (s : State) (kind tag : Nat) (code : ReplyCode) (body : ReplyBody) : State :=
  if handOrphan s.lki kind tag then (s.dropHand kind tag).linkSettle
  else ((s.dropHand kind tag).joinReady ⟨none, ⟨kind, tag, code, body⟩⟩).linkSettle

/-- A refusal: the code alone, and nothing else changed (R168). -/
def State.refuse (s : State) (kind tag : Nat) (code : ReplyCode) : State := s.answer kind tag code .codeAlone

/-- The table entry of an outstanding card read. -/
def State.read? (s : State) (id : Nat) : Option CardRead := s.lki.reads.find? (fun r => r.id == id)

/-- A host card read ends: its reply becomes ready (R58, R59), or is discarded with its entry after a link reset. -/
def State.endRead (s : State) (id : Nat) (code : ReplyCode) (body : ReplyBody) : State :=
  match s.read? id with
  | none => s
  | some r =>
    if r.orphan then { s with lki := { s.lki with reads := dropRead (some id) s.lki.reads } }
    else (s.joinReady ⟨some id, ⟨kindCardRead, r.tag, code, body⟩⟩).linkSettle

/-! ## Free values (log 3) -/

/-- The time left on a timer started with t seconds: a free value no greater than t. -/
def timeLeft (fresh t : Nat) : Nat := min t (Config.freeSeconds fresh)

/-- A free value has been used. -/
def State.spend (s : State) : State := { s with fresh := s.fresh + 1 }

end Sys2Proof.Machine
end

