-- ==== Sys2Proof/Machine/PoolOps.lean ====
section
/-! DEFINITION. The staging pool's shared operations: finding, claiming, filling and freeing extents, waiting requests and
rounds of offers (04_the_staging_pool.md). -/

namespace Sys2Proof.Machine

/-- The record of an extent that is not FREE. -/
def extentAt (p : Pool) (i : Nat) : Option Extent := (p.extents.find? (fun e => e.1 == i)).map Prod.snd

/-- An extent record put at an index, indexes rising. -/
def putExtent : List (Nat × Extent) → Nat → Extent → List (Nat × Extent)
  | [], i, e => [(i, e)]
  | (j, f) :: t, i, e =>
    if i < j then (i, e) :: (j, f) :: t else if i = j then (i, e) :: t else (j, f) :: putExtent t i e

/-- The extent at an index made FREE (R77). -/
def dropExtent (es : List (Nat × Extent)) (i : Nat) : List (Nat × Extent) := es.filter (fun e => e.1 != i)

/-- The least index from i on that a rising list does not hold. -/
def leastGap : Nat → List (Nat × Extent) → Nat
  | i, [] => i
  | i, (j, _) :: t => if j = i then leastGap (i + 1) t else i

/-- The FREE extent of lowest index (R71). -/
def lowestFree (p : Pool) : Option Nat :=
  if leastGap 0 p.extents < Config.nExtents then some (leastGap 0 p.extents) else none

/-- The number of extents a clip holds, FILLING and FULL, of either purpose (R72). -/
def heldCount (p : Pool) (clip : Nat) : Nat := (p.extents.filter (fun e => e.2.claim.clip == clip)).length

/-- The clip holds fewer extents than the window. -/
def belowWindow (p : Pool) (clip : Nat) : Bool := decide (heldCount p clip < p.window)

/-- The buffer address of an extent's byte. -/
def bufferAddress (index offset : Nat) : Nat := index * Config.extentBytes + offset

/-- A FILLING extent with a claim identity. -/
def fillingWith (p : Pool) (i : Nat) (c : ClaimId) : Bool :=
  (extentAt p i).any (fun e => decide (e.state = .filling) && decide (e.claim = c))

/-- A filler places bytes: only while the extent is FILLING with that identity; otherwise they are dropped (R73). -/
def poolPlace (p : Pool) (i : Nat) (c : ClaimId) (offset : Nat) (bytes : List Byte) : Pool :=
  match extentAt p i with
  | some e =>
    if e.state = .filling ∧ e.claim = c then
      { p with
        extents := putExtent p.extents i { e with bytes := e.bytes + bytes.length }
        mem := Memory.writeBytes p.mem (bufferAddress i offset) bytes }
    else p
  | none => p

/-- The same on the part. -/
def State.place (s : State) (i : Nat) (c : ClaimId) (offset : Nat) (bytes : List Byte) : State :=
  { s with pool := poolPlace s.pool i c offset bytes }

/-- For whom a request's offer sets an extent aside (R83, R84). -/
def asideFor : Requester → SetAside
  | .lane _ b => .bay b
  | .engine p => .engine p

/-- An extent made FILLING for a claim (R71, R83). -/
def poolClaim (p : Pool) (i : Nat) (c : ClaimId) (aside : Option SetAside) : Pool :=
  { p with extents := putExtent p.extents i ⟨.filling, c, 0, none, aside⟩ }

/-- The extent an offer has set aside for this requester's work item with this claim identity (R71). -/
def setAsideFor (p : Pool) (r : Requester) (c : ClaimId) : Option Nat :=
  (p.extents.find? (fun e => decide (e.2.aside = some (asideFor r)) && decide (e.2.claim = c) &&
    decide (e.2.state = .filling))).map Prod.fst

/-- The lane requests of one lane, in the order recorded. -/
def waitsOfLane (ws : List Wait) (n : Fin 4) : List Wait :=
  ws.filter (fun w => match w.requester with | .lane m _ => decide (m = n) | .engine _ => false)

/-- The sibling requests of one port. -/
def waitsOfPort (ws : List Wait) (p : Fin 4) : List Wait :=
  ws.filter (fun w => match w.requester with | .lane _ _ => false | .engine q => decide (q = p))

/-- The waiting requests in the order of R82: lanes from LANE0, then ports from PRT0. -/
def orderedWaits (ws : List Wait) : List Wait :=
  ((List.finRange 4).flatMap (waitsOfLane ws)) ++ ((List.finRange 4).flatMap (waitsOfPort ws))

/-- The first request in R82's order whose clip is below the window. -/
def nextWait (p : Pool) : Option Wait := (orderedWaits p.waits).find? (fun w => belowWindow p w.claim.clip)

/-- The message of an offer (R83, R84). -/
def offerMessage (w : Wait) (i : Nat) : Instr :=
  match w.requester with
  | .lane _ b => .poolOffer b w.claim
  | .engine p => .siblingOffer p i w.claim

/-- One offer: the FREE extent of lowest index set aside for the first request below the window (R82). -/
def State.offerOne (s : State) : Option State :=
  match lowestFree s.pool, nextWait s.pool with
  | some i, some w =>
    some (({ s with
      pool := { poolClaim s.pool i w.claim (some (asideFor w.requester)) with waits := s.pool.waits.erase w } } :
      State).send (offerMessage w i))
  | _, _ => none

/-- At most n offers. -/
def State.offers : Nat → State → State
  | 0, s => s
  | n + 1, s =>
    match s.offerOne with
    | some t => State.offers n t
    | none => s

/-- One round of offers; every offer removes a waiting request (R82). -/
def State.offerRound (s : State) : State := State.offers s.pool.waits.length s

/-- The removals sent to an extent's pending ports when it is discarded (R78). -/
def removalMessages (e : Nat × Extent) : List Instr :=
  match e.2.pending with
  | none => []
  | some ports => ports.map (fun p => .extentRemoval p e.1 e.2.claim)

/-- The word to a requester whose waiting request is removed without an offer (R85). -/
def waitRemovedMessage (w : Wait) : Instr := .waitRemoved w.requester w.claim

/-- A discard of every extent and waiting request whose claim identity is among those discarded, with one round of offers
(R78, R79). The removals go out in the order of the indexes, each extent's in the order of its pending set, and then the
word to the requesters, in the order recorded (log 40). -/
def State.discard (s : State) (hit : ClaimId → Bool) : State :=
  State.offerRound
    (({ s with pool := { s.pool with
        extents := s.pool.extents.filter (fun e => !hit e.2.claim)
        waits := s.pool.waits.filter (fun w => !hit w.claim) } } : State).sendAll
      ((s.pool.extents.filter (fun e => hit e.2.claim)).flatMap removalMessages ++
        (s.pool.waits.filter (fun w => hit w.claim)).map waitRemovedMessage))

/-- The claim identities of a clip (R78). -/
def ofClip (clip : Nat) (c : ClaimId) : Bool := c.clip == clip

/-- The claim identities of one repair (R79). -/
def ofRepair (clip : Nat) (p : Fin 4) (c : ClaimId) : Bool :=
  c.clip == clip && decide (c.purpose = .repair) && decide (c.repairPort = some p)

/-- A port leaves the pending set of one extent; the extent is freed when the set is then empty (R76, R77). -/
def releaseOne (p : Fin 4) (pool : Pool) (x : Nat × ClaimId) : Pool :=
  match extentAt pool x.1 with
  | some e =>
    match e.pending with
    | some ports =>
      if e.state = .full ∧ e.claim = x.2 ∧ p ∈ ports then
        if ports.erase p = [] then { pool with extents := dropExtent pool.extents x.1 }
        else { pool with extents := putExtent pool.extents x.1 { e with pending := some (ports.erase p) } }
      else pool
    | none => pool
  | none => pool

end Sys2Proof.Machine
end

