-- ==== Sys2Proof/Machine/LaneOps.lean ====
section
/-! DEFINITION. The read lane arbiter's and the lanes' shared operations: holding and returning a lane, grants, turns,
blocks taken, the end of an extent and of a read, host card reads (3.2 to 3.4), with the health monitor's two events
(3.5). -/

namespace Sys2Proof.Machine

/-! ## Lanes and what holds them -/

/-- The bay whose card a lane reads. -/
def holderBay (l : Lane) : Option (Fin 8) :=
  match l.holder with
  | none => none
  | some (.work b _) => some b
  | some (.host r) => some r.bay

/-- The lane a bay holds, for its own work or for a host card read (R50, R51). -/
def State.laneOf (s : State) (b : Fin 8) : Option (Fin 4) :=
  (List.finRange 4).find? (fun n => decide (holderBay (s.lane n) = some b))

/-- The claim that a lane has out. -/
def claimOut (n : Fin 4) (l : Lane) : List Wait :=
  match l.holder, l.claim with
  | some (.work b _), some c => [⟨.lane n b, c⟩]
  | _, _ => []

/-- A lane is returned and FREE (R55). A claim that it has out goes on to the pool manager (R80), and its answer is awaited no
more (log 44). -/
def State.freeLane (s : State) (n : Fin 4) : State :=
  (s.setLane n Lane.reset).setUnawaited (s.arb.unawaited ++ claimOut n (s.lane n))

/-- The claim identity of the extent that a work item stands at after `count` bytes (R54, R70). -/
def claimOf (item : WorkItem) (count : Nat) : ClaimId :=
  match item with
  | .clip c => ⟨c, .first, none, count / Config.extentBytes⟩
  | .repair c p => ⟨c, .repair, some p, count / Config.extentBytes⟩

/-- The work item that a claim is for (R81). -/
def itemOf (c : ClaimId) : WorkItem :=
  match c.repairPort with
  | some p => .repair c.clip p
  | none => .clip c.clip

/-- The newest running state handed on for an item among messages (log 16). -/
def inTransitState (item : WorkItem) : List Instr → Option DigestState
  | [] => none
  | m :: t =>
    match inTransitState item t with
    | some d => some d
    | none =>
      match m with
      | .burstEndReport i d => if i = item then some d else none
      | _ => none

/-- The running digest state that the job manager keeps for an item (R19, R91). -/
def State.storedState (s : State) (item : WorkItem) : Option DigestState :=
  match item with
  | .clip c => (s.clip? c).bind Clip.running
  | .repair c p => ((s.clip? c).bind (fun k => copyOn k p)).bind (fun k => k.repair.bind Repair.running)

/-- The state a lane loads at a grant: as handed on last in this read of the item, and in none before it as the job manager set it at
the start (R53, R90, R91; log 16, log 51). -/
def State.loadState (s : State) (item : WorkItem) : DigestState :=
  match inTransitState item s.inTime with
  | some d => d
  | none => (s.storedState item).getD digestInitial

/-! ## Grants (R52, R53) -/

/-- A bay eligible for a lane (R51). -/
def State.bayEligible (s : State) (b : Fin 8) : Bool := bayWantsLane (s.bay b) && (s.laneOf b).isNone

/-- The bays in round-robin order, from the bay after the pointer (R52). -/
def roundRobin (pointer : Fin 8) : List (Fin 8) :=
  (List.range 8).map (fun k => Fin.ofNat 8 (pointer.val + 1 + k))

/-- The FREE active lane of lowest number (R48, R52). -/
def State.freeActiveLane (s : State) : Option (Fin 4) :=
  (List.finRange 4).find? (fun n =>
    decide (n.val < (Config.planRow s.arb.plan).lanes) && (s.lane n).holder.isNone)

/-- The lane asks the pool manager for the extent its unit stands at (R54). -/
def State.claimNext (s : State) (n : Fin 4) (b : Fin 8) (item : WorkItem) (count : Nat) : State :=
  (s.setLane n { s.lane n with claim := some (claimOf item count) }).send
    (.extentClaim (.lane n b) (claimOf item count))

/-- The burst length of a turn: the plan's in NORMAL, 1 in CAREFUL (R53). -/
def burstOf (plan : Fin 4) (mode : HealthMode) : Nat :=
  match mode with
  | .normal => (Config.planRow plan).burst
  | .careful => 1

/-- A lane granted to a bay prepares the turn and makes its first claim (R53, R54). The offer that chose the item is
used up (R83). -/
def State.startTurn (s : State) (n : Fin 4) (b : Fin 8) (item : WorkItem) : State :=
  (((s.setBay b { s.bay b with offered := none, fails := 0 }).setLane n
    { holder := some (.work b item), burst := burstOf s.arb.plan (s.bay b).health.mode, filled := 0, extent := none,
      unit := some (s.loadState item), claim := none, endTurn := false, ack := none })).claimNext n b item
    (s.loadState item).count

/-- The first host card read on the request list whose bay holds no lane (R52). -/
def State.nextHostRead (s : State) : Option CardRead :=
  (s.arb.requests.filterMap s.read?).find? (fun r => (s.laneOf r.bay).isNone)

/-- A host card read granted a lane: it is looked at as its bay stands, and ends at once or holds the lane (R58). -/
def State.grantHost (s : State) (n : Fin 4) (r : CardRead) : State :=
  let t : State := { s with arb := { s.arb with requests := s.arb.requests.filter (fun i => i != r.id) } }
  match (s.bay r.bay).state, (s.bay r.bay).sig with
  | .mounted, some sig =>
    if sig.capacity ≤ r.start then t.endRead r.id .badArg .codeAlone
    else
      (t.setBay r.bay { t.bay r.bay with fails := 0 }).setLane n
        { Lane.reset with holder := some (.host ⟨r.id, r.bay, r.start, min r.count (sig.capacity - r.start), 0, []⟩) }
  | _, _ => t.endRead r.id .wrongState (.cardRead 0 0 [])

/-- The first eligible bay in round-robin order with its work item (R52, R53). -/
def State.nextBay (s : State) : Option (Fin 8 × WorkItem) :=
  ((roundRobin s.arb.pointer).find? s.bayEligible).bind (fun b => (bayItem (s.bay b)).map (fun i => (b, i)))

/-- One grant, none when there is no FREE active lane or no eligible requester, or while a PLAN is being asked (R49,
R52). -/
def State.grantOne (s : State) : Option State :=
  if s.arb.asking.isSome then none
  else
    match s.freeActiveLane with
    | none => none
    | some n =>
      match s.nextHostRead with
      | some r => some (s.grantHost n r)
      | none =>
        match s.nextBay with
        | some (b, item) => some (({ s with arb := { s.arb with pointer := b } } : State).startTurn n b item)
        | none => none

/-- At most k grants. -/
def State.grantUpTo : Nat → State → State
  | 0, s => s
  | k + 1, s =>
    match s.grantOne with
    | some t => State.grantUpTo k t
    | none => s

/-- The arbiter looks for grants (R52). Each grant uses up a host card read or a FREE lane, of which there are four. -/
def State.grants (s : State) : State := State.grantUpTo (s.arb.requests.length + 5) s

/-- A lane is returned, and the arbiter looks for grants (R52, R55). -/
def State.returnLane (s : State) (n : Fin 4) : State := (s.freeLane n).grants

/-! ## The health monitor (R63 to R66) -/

/-- The monitor as it starts at a mount (R63). -/
def Health.start (h : Health) : Health :=
  { h with mode := .normal, running := true, window := some Config.firstWindowSeconds, count := 0 }

/-- The monitor as it stops (R63). -/
def Health.stop (h : Health) : Health := { h with mode := .normal, running := false, window := none, count := 0 }

/-- A change of mode: the count cleared and a new window of W started (R64, R65). -/
def Health.change (h : Health) (mode : HealthMode) : Health :=
  { h with mode := mode, window := some h.w, count := 0 }

/-- A turn of the bay's own work ends after its extent in progress (R53, R66). -/
def State.shortenTurn (s : State) (b : Fin 8) : State :=
  match s.laneOf b with
  | none => s
  | some n =>
    match (s.lane n).holder with
    | some (.work _ _) => s.setLane n { s.lane n with endTurn := true }
    | _ => s

/-- A bay's mode changes: notice, lamp, and a turn shortened when it enters CAREFUL (R66). -/
def State.changeMode (s : State) (b : Fin 8) (mode : HealthMode) : State :=
  let t := ((s.setBay b { s.bay b with health := (s.bay b).health.change mode }).bayNotice b
    (.healthMode mode)).lampSet b
  match mode with
  | .careful => t.shortenTurn b
  | .normal => t

/-- A retry event (R64, R65). A stopped monitor drops it (R63). -/
def State.retryEvent (s : State) (b : Fin 8) : State :=
  let h := (s.bay b).health
  if h.running then
    let t := s.setBay b { s.bay b with health := { h with count := h.count + 1 } }
    match h.mode with
    | .normal => if h.up < h.count + 1 then t.changeMode b .careful else t
    | .careful => t
  else s

/-- What a failed attempt leads to (R60). -/
inductive Judgement where
  | again | uncorrectable
  deriving DecidableEq, Repr

/-- A failed attempt is counted and judged by the monitor's mode; exhausted in NORMAL the bay enters CAREFUL and judges
again (R60). -/
def State.judgeFailure (s : State) (b : Fin 8) : State × Judgement :=
  let fails := (s.bay b).fails + 1
  let t := s.setBay b { s.bay b with fails := fails }
  match (s.bay b).health.mode with
  | .normal =>
    if fails < Config.normalAttempts then (t.retryEvent b, .again)
    else if fails < Config.carefulAttempts then ((t.changeMode b .careful).retryEvent b, .again)
    else (t.changeMode b .careful, .uncorrectable)
  | .careful => if fails < Config.carefulAttempts then (t.retryEvent b, .again) else (t, .uncorrectable)

/-! ## Filling extents (R54, R56, R61, R62) -/

/-- A work item leaves the bay's read work. -/
def loseItem (b : Bay) (item : WorkItem) : Bay :=
  match item with
  | .clip _ => { b with reading := b.reading.filter (fun w => decide (w.item ≠ item)) }
  | .repair _ _ => { b with repairs := b.repairs.filter (fun w => decide (w.item ≠ item)) }

/-- The same on the part. -/
def State.loseWork (s : State) (b : Fin 8) (item : WorkItem) : State := s.setBay b (loseItem (s.bay b) item)

/-- The report of a read's completion (R56, R144). -/
def completionReport (n : Fin 4) (item : WorkItem) (d : DigestState) : Instr :=
  match item with
  | .clip c => .readCompletion n c d
  | .repair c p => .repairReadCompletion n c p (digestFinal d)

/-- The clip's bytes that its block at byte `count` holds (R54, R90). -/
def blockShare (length count : Nat) (data : List Byte) : List Byte :=
  data.take (min Config.blockBytes (length - count))

/-- The card block that the lane reads next for a work (R6, R54). -/
def nextBlock (w : ReadWork) (count : Nat) : Nat := blockAt w.runs (count / Config.blockBytes)

/-- The last extent is full: it counts in the turn, the read's completion is reported, and the lane waits for the
acknowledgment (R54, R56). -/
def State.readEnds (s : State) (n : Fin 4) (b : Fin 8) (item : WorkItem) (i : Nat) (c : ClaimId) (d : DigestState) :
    State :=
  ((s.setLane n { s.lane n with
      unit := some d, extent := none, filled := (s.lane n).filled + 1
      ack := some ⟨i, c, d.count - c.seq * Config.extentBytes⟩ }).loseWork b item).send (completionReport n item d)

/-- An extent that is not the last is full: it is reported, and the lane returns or claims the next (R54, R55). -/
def State.extentEnds (s : State) (n : Fin 4) (b : Fin 8) (item : WorkItem) (i : Nat) (c : ClaimId) (d : DigestState) :
    State :=
  let l := { s.lane n with unit := some d, extent := none, filled := (s.lane n).filled + 1 }
  let t := (s.setLane n l).send (.extentComplete i c Config.extentBytes)
  if l.burst ≤ l.filled ∨ l.endTurn = true then (t.send (.burstEndReport item d)).returnLane n
  else t.claimNext n b item d.count

/-- A block's data is taken: placed in the extent and fed to the digest unit (R54, R73, R90). -/
def State.takeBlock (s : State) (n : Fin 4) (data : List Byte) : State :=
  match (s.lane n).holder, (s.lane n).unit, (s.lane n).extent with
  | some (.work b item), some d, some i =>
    match bayWork (s.bay b) item with
    | none => s
    | some w =>
      let bytes := blockShare w.length d.count data
      let c := claimOf item d.count
      let d' := digestFeed d bytes
      let t := (s.place i c (d.count % Config.extentBytes) bytes).setBay b { s.bay b with fails := 0 }
      if w.length ≤ d'.count then t.readEnds n b item i c d'
      else if d'.count % Config.extentBytes = 0 then t.extentEnds n b item i c d'
      else t.setLane n { s.lane n with unit := some d' }
  | _, _, _ => s

/-- 512 zero bytes in place of a block (R61, R62). -/
def zeroBlock : List Byte := List.replicate Config.blockBytes 0#8

/-- The lane stands at a block of the damage list of a repair read (R62). -/
def State.atDamaged (s : State) (n : Fin 4) : Bool :=
  match (s.lane n).holder, (s.lane n).unit, (s.lane n).extent with
  | some (.work b (.repair c p)), some d, some _ =>
    (bayWork (s.bay b) (.repair c p)).any (fun w => w.damage.contains (nextBlock w d.count))
  | _, _, _ => false

/-- At most k damaged blocks of a repair read taken as zeros without reading the card (R62). -/
def State.skipDamaged : Nat → State → Fin 4 → State
  | 0, s, _ => s
  | k + 1, s, n => if s.atDamaged n then State.skipDamaged k (s.takeBlock n zeroBlock) n else s

/-- The damaged blocks that stand next are taken; a damage list has at most 16 (R61). -/
def State.skipZeros (s : State) (n : Fin 4) : State := State.skipDamaged Config.maxDamage s n

/-! ## Host card reads (R58, R59) -/

/-- A host card read that holds a lane ends: its reply becomes ready and its lane returns (R58, R59). -/
def State.hostEnds (s : State) (n : Fin 4) (r : HostRead) (code : ReplyCode) (failing : Nat) : State :=
  ((s.freeLane n).endRead r.id code (.cardRead r.blocks failing r.data)).grants

/-- A block of a host card read is read (R58). -/
def State.hostBlock (s : State) (n : Fin 4) (r : HostRead) (data : List Byte) : State :=
  let r' := { r with blocks := r.blocks + 1, data := r.data ++ data }
  let t := s.setBay r.bay { s.bay r.bay with fails := 0 }
  if r.count ≤ r'.blocks then t.hostEnds n r' .done 0
  else t.setLane n { s.lane n with holder := some (.host r') }

/-- A failed attempt of a host card read (R59, R60). -/
def State.hostFailed (s : State) (n : Fin 4) (r : HostRead) : State :=
  match s.judgeFailure r.bay with
  | (t, .again) => t
  | (t, .uncorrectable) => t.hostEnds n r .mediaError (r.start + r.blocks)

/-- A lane that serves a host card read is FREE again, and the read gets no reply (R59). -/
def abortHost (l : Lane) : Lane :=
  match l.holder with
  | some (.host _) => Lane.reset
  | _ => l

end Sys2Proof.Machine
end

