-- ==== Sys2Proof/Machine/BayOps.lean ====
section
/-! DEFINITION. The bays' shared operations: starting a probe, mounting, losing a card, the eject lock (02_card_bays.md). -/

namespace Sys2Proof.Machine

/-- A probe starts: the timer at 2 s, PROBING, the notice of insertion, the lamp (R31). -/
def State.startProbe (s : State) (b : Fin 8) : State :=
  ((s.setBay b { s.bay b with state := .probing, probeTimer := some Config.probeSeconds }).bayNotice b .insert).lampSet b

/-- A complete identification: a serial of 16 bytes and a capacity in 1 to 4,294,967,295 (R32). -/
def sigValid (g : CardSig) : Bool :=
  decide (g.serial.length = 16) && decide (1 ≤ g.capacity) && decide (g.capacity ≤ Config.maxCardBlocks)

/-- A bay becomes MOUNTED with a signature (R32, R35). -/
def State.mountCard (s : State) (b : Fin 8) (g : CardSig) : State :=
  ((((s.setBay b { s.bay b with
      state := .mounted, sig := some g, probeTimer := none, health := (s.bay b).health.start }).send
    (.mountReport b g)).bayNotice b (.mount g)).lampSet b).grants

/-- A bay becomes FAULTED by its probe (R32, R33). -/
def State.probeFails (s : State) (b : Fin 8) : State :=
  ((s.setBay b { s.bay b with state := .faulted, probeTimer := none }).bayNotice b .probeFault).lampSet b

/-- The card leaves the slot of a bay that is PROBING or FAULTED (R34). -/
def State.cardGone (s : State) (b : Fin 8) (left : BayState) : State :=
  ((s.setBay b { s.bay b with state := .empty, probeTimer := none }).bayNotice b (.cardLost left)).lampSet b

/-- The arbiter takes a bay's loss: the host card read on the bay's lane ends, and the lane is returned. A lane that only
waits for the acknowledgment of a completed read keeps waiting (R36, R55, R56, R59; log 17). -/
def State.loseLane (s : State) (b : Fin 8) : State :=
  match s.laneOf b with
  | none => s
  | some n =>
    match (s.lane n).holder with
    | some (.host r) => (s.freeLane n).endRead r.id .wrongState (.cardRead r.blocks 0 r.data)
    | some (.work _ _) => if (s.lane n).ack.isSome then s else s.freeLane n
    | none => s

/-- A bay without its card: no signature, no read work, the monitor stopped (R36, R63). -/
def bayWithoutCard (x : Bay) (state : BayState) : Bay :=
  { x with state := state, sig := none, health := x.health.stop, reading := none, repairs := [], offered := none, fails := 0 }

/-- A MOUNTED bay loses its card and reports the loss (R29, R36). -/
def State.loseCard (s : State) (b : Fin 8) (state : BayState) : State :=
  let t := s.loseLane b
  (t.setBay b (bayWithoutCard (t.bay b) state)).send (.cardLostReport b)

/-- The loss of a mounted card; while the card is still seated a new probe starts (R36, R37). -/
def State.cardLost (s : State) (b : Fin 8) (seated : Bool) : State :=
  let t := ((s.loseCard b .empty).bayNotice b (.cardLost .mounted)).lampSet b
  let u := t.setBay b { t.bay b with cardPresent := seated }
  (if seated then u.startProbe b else u).grants

/-- The lock is disengaged; a notice when it was ENGAGED (R41). -/
def State.unlock (s : State) (b : Fin 8) : State :=
  match (s.bay b).lock with
  | .disengaged => s
  | .engaged => (s.setBay b { s.bay b with lock := .disengaged }).bayNotice b .lockChange

/-- Steps of BAYPWR off for a bay that is ON (R29). -/
def State.bayOff (s : State) (b : Fin 8) : State :=
  let t := match (s.bay b).state with
    | .mounted => s.loseCard b .off
    | _ => s
  ((t.setBay b { t.bay b with power := .off, state := .off, probeTimer := none }).lampSet b).grants

/-- Steps of BAYPWR on for a bay that is OFF (R30). -/
def State.bayOn (s : State) (b : Fin 8) : State :=
  let t := s.setBay b { s.bay b with power := .on, state := .empty }
  if (s.bay b).cardPresent then t.startProbe b else t.lampSet b

end Sys2Proof.Machine
end

