-- ==== Sys2Proof/Machine/PortOps.lean ====
section
/-! DEFINITION. The ports' shared operations: identification, the choice between write and verify work, starting a chunk,
abandoning and ending work, removing an area (06, 07, 08). -/

namespace Sys2Proof.Machine

/-! ## Identification (R97) -/

/-- The conditions under which a port identifies the drive it finds (R97). -/
def wantsIdent (p : Port) : Bool :=
  (decide (p.state = .detached) || decide (p.state = .lost)) && decide (p.power = .on) && p.drivePresent &&
    p.ident.isNone && !p.unidentified && !p.otherDrive

/-- A port that finds a drive identifies it (R97). -/
def State.maybeIdentify (s : State) (p : Fin 4) : State :=
  if wantsIdent (s.port p) then s.setPort p { s.port p with ident := some Config.identSeconds } else s

/-- A valid identity (R97). -/
def identityValid (d : DriveId) : Bool :=
  decide (d.serial.length = 20) && (decide (d.blockSize = 512) || decide (d.blockSize = 4096)) &&
    decide (1 ≤ d.capacity) && decide (d.capacity ≤ Config.maxDriveBlocks)

/-- An identification ends without a valid identity (R97, R111). -/
def State.identFails (s : State) (p : Fin 4) : State :=
  match (s.port p).state with
  | .detached =>
    (s.setPort p { s.port p with ident := none, unidentified := true }).portNotice p (.attach none)
  | .lost => s.setPort p { s.port p with ident := none, otherDrive := true }
  | _ => s.setPort p { s.port p with ident := none }

/-! ## Chunks on the drive link (8.2) -/

/-- Zeros up to a whole number of drive blocks (R124). -/
def padTo (blockSize : Nat) (bytes : List Byte) : List Byte :=
  fitBytes (ceilDiv bytes.length blockSize * blockSize) bytes

/-- The write of a queue entry: its first drive block and its bytes. The entry itself names its run, so it is written also when
the clip's open placement has left the list (R122 to R124, R126; log 37). -/
def entryWrite (mem : Memory) (n : Fin 4) (a : Area) : WriteEntry → DriveWrite
  | .extent i c bytes start =>
    ⟨1, extentBlock start a.blockSize c.seq, padTo a.blockSize (Memory.readBytes mem (bufferAddress i 0) bytes)⟩
  | .trailer clip t =>
    ⟨1, trailerBlock t.runStart (dataUnits a t.length) a.unit, padTo a.blockSize (trailerRecord n clip t)⟩

/-- The write engine starts the entry at the head of its queue (R122). -/
def State.startWrite (s : State) (p : Fin 4) : State :=
  match (s.port p).writeQ with
  | [] => s
  | e :: _ =>
    match (s.port p).area with
    | some a => s.setPort p { s.port p with write := some (entryWrite s.pool.mem p a e) }
    | none => s

/-- The claim identity of the extent a sibling read stands at (R145). -/
def siblingClaim (e : VerifyEntry) (rp : Fin 4) (chunk : Nat) : ClaimId := ⟨e.clip, .repair, some rp, chunk⟩

/-- The read of an extent's worth of a run (R123, R138, R145). -/
def dataRead (kind : ReadKind) (a : Area) (e : VerifyEntry) (chunk : Nat) : DriveRead :=
  ⟨kind, extentBlock e.runStart a.blockSize chunk, ceilDiv (extentLength e.length chunk) a.blockSize, false⟩

/-- The engine starts the head entry: a verify entry's start is reported, with the digest of no bytes for a clip of
length 0 (R93, R136, R138). -/
def State.startEntry (s : State) (p : Fin 4) (e : VerifyEntry) : State :=
  let t := s.setPort p { s.port p with engine := { Engine.reset with state := .reading, unit := some digestInitial } }
  match e.repairPort with
  | some _ => t
  | none =>
    let u := t.send (.verifyStart p e.clip)
    if e.length = 0 then u.send (.verifyDigestReport p e.clip (some (digestFinal digestInitial))) else u

/-- The engine reads the next chunk of the head entry, or claims the extent that a sibling read's next chunk fills
(R138, R139, R145). -/
def State.nextChunk (s : State) (p : Fin 4) (e : VerifyEntry) : State :=
  match (s.port p).area with
  | none => s
  | some a =>
    match e.repairPort with
    | none =>
      if (s.port p).engine.unreadable = true ∨ extentCount e.length ≤ (s.port p).engine.chunk then
        s.setPort p { s.port p with read := some ⟨.trailer, trailerBlock e.runStart e.dataUnits a.unit, 1, false⟩ }
      else s.setPort p { s.port p with read := some (dataRead .data a e (s.port p).engine.chunk) }
    | some rp =>
      match (s.port p).engine.extent with
      | some _ => s.setPort p { s.port p with read := some (dataRead .sibling a e (s.port p).engine.chunk) }
      | none =>
        (s.setPort p { s.port p with
          engine := { (s.port p).engine with claim := some (siblingClaim e rp (s.port p).engine.chunk) } }).send
          (.extentClaim (.engine p) (siblingClaim e rp (s.port p).engine.chunk))

/-- The verify engine takes its chunk (R136). -/
def State.startVerify (s : State) (p : Fin 4) : State :=
  match (s.port p).verifyQ with
  | [] => s
  | e :: _ =>
    match (s.port p).engine.state with
    | .idle => (s.startEntry p e).nextChunk p e
    | _ => s.nextChunk p e

/-- The port chooses the side of the next chunk while its link is free (R137). A sibling read that has to claim its extent
first counts as a chunk when it begins, not at the claim (R145; log 26). -/
def State.runLink (s : State) (p : Fin 4) : State :=
  if linkFree (s.port p) then
    match shareChoice s.arb.plan (s.port p).share (writeReady (s.port p)) (verifyReady (s.port p)) with
    | none => s
    | some sh =>
      let t := s.setPort p { s.port p with share := sh }
      match sh.side with
      | .write => t.startWrite p
      | .verify => if claimsFirst (s.port p) then s.startVerify p else t.startVerify p
  else s

/-! ## Ending and abandoning work -/

/-- A port with its verify engine IDLE. A claim that the engine has out goes on to the pool manager (R80), and its answer is
awaited no more (log 44). -/
def idleEngine (x : Port) : Port :=
  { x with engine := Engine.reset, read := none, unawaited := x.unawaited ++ x.engine.claim.toList }

/-- The verify engine's work is abandoned: state, digest state and chunk buffers dropped, nothing reported (R135, R141). -/
def State.abandonEngine (s : State) (p : Fin 4) : State := s.setPort p (idleEngine (s.port p))

/-- The engine's entry ends: it leaves the head of the queue and the engine is IDLE (R139, R145). -/
def State.entryEnds (s : State) (p : Fin 4) : State :=
  s.setPort p { idleEngine (s.port p) with verifyQ := (s.port p).verifyQ.tail }

/-- The entry in progress is one that a test hits. -/
def entryRuns (x : Port) (hit : VerifyEntry → Bool) : Bool := decide (x.engine.state ≠ .idle) && x.verifyQ.head?.any hit

/-- The entries of a verify queue that a test hits are removed; the one in progress is abandoned (R135). -/
def State.removeVerify (s : State) (p : Fin 4) (hit : VerifyEntry → Bool) : State :=
  let t := if entryRuns (s.port p) hit then s.abandonEngine p else s
  (t.setPort p { t.port p with verifyQ := (t.port p).verifyQ.filter (fun e => !hit e) }).runLink p

/-- The entries of a write queue that a test hits are removed; a write in progress is abandoned (R121, R130). -/
def State.removeWrites (s : State) (p : Fin 4) (hit : WriteEntry → Bool) : State :=
  let busy := (s.port p).writeQ.head?.any hit
  (s.setPort p { s.port p with
    write := if busy then none else (s.port p).write
    writeQ := (s.port p).writeQ.filter (fun e => !hit e) }).runLink p

/-- The extents that entries of a write queue name, as a release names them (R76). -/
def entryExtents (es : List WriteEntry) : List (Nat × ClaimId) :=
  es.filterMap (fun e => match e with | .extent i c _ _ => some (i, c) | .trailer _ _ => none)

/-- A release of extents, none for none (R76). -/
def releaseMessages (p : Fin 4) (extents : List (Nat × ClaimId)) : List Instr :=
  if extents = [] then [] else [.extentRelease p extents]

/-- The counts of an area as a notice or reply carries them. -/
def areaCounts (a : Option Area) : AreaCounts :=
  match a with
  | none => ⟨0, 0, 0⟩
  | some a => ⟨a.fill, a.abandoned, a.placements⟩

/-- An area is removed: open placements emptied, every hold void with the cause (R103). -/
def removeArea (x : Port) (cause : Cause) : Port :=
  { x with area := none, openPl := [], holds := x.holds.map (fun h => { h with void := some cause }) }

/-- The write and verify queues are emptied and their work abandoned (R99, R102, R113, R118, R129; log 41). -/
def emptyQueues (x : Port) : Port :=
  { idleEngine x with writeQ := [], write := none, verifyQ := [] }

/-- The port becomes FAULTED (R129). -/
def State.portFaults (s : State) (p : Fin 4) : State :=
  let u := (s.send (.portFaultReport p)).sendAll (releaseMessages p (entryExtents (s.port p).writeQ))
  (u.setPort p { removeArea (emptyQueues (u.port p)) .portFault with state := .faulted }).portNotice p
    (.fault (areaCounts (s.port p).area))

/-- The given-up mark set on a clip's open placement (R128). -/
def giveUp (clip : Nat) (os : List OpenPlacement) : List OpenPlacement :=
  os.map (fun o => if o.clip = clip then { o with givenUp := true } else o)

/-- A copy is lost to write failure (R128). -/
def State.copyLost (s : State) (p : Fin 4) (clip : Nat) : State :=
  let x := s.port p
  let gone := x.writeQ.filter (fun e => decide (entryClip e = clip))
  let t := ((s.setPort p { x with
      openPl := giveUp clip x.openPl
      writeQ := x.writeQ.filter (fun e => decide (entryClip e ≠ clip))
      write := none
      tally := x.tally + 1 }).sendAll (releaseMessages p (entryExtents gone))).send (.writeFailureReport p clip)
  if Config.faultTally ≤ x.tally + 1 then t.portFaults p else t.runLink p

/-- A READY port loses its drive and is LOST (R109). -/
def State.portLost (s : State) (p : Fin 4) : State :=
  let t := s.abandonEngine p
  ((t.setPort p { t.port p with
      state := .lost, graceTimer := some (t.port p).grace, write := none }).send (.driveLossReport p)).portNotice p
    (.lost (t.port p).grace)

/-- A LOST port identifies the lost drive (R112). -/
def State.driveReturns (s : State) (p : Fin 4) : State :=
  let t := s.setPort p { s.port p with state := .ready, ident := none, graceTimer := none }
  (((t.portNotice p (.returned (timeLeft s.fresh ((s.port p).graceTimer.getD 0)))).spend).send
    (.driveReturnReport p)).runLink p

/-- Grace expires (R113). -/
def State.graceExpires (s : State) (p : Fin 4) : State :=
  let u := (s.send (.graceExpiryReport p)).sendAll (releaseMessages p (entryExtents (s.port p).writeQ))
  ((u.setPort p { removeArea (emptyQueues (u.port p)) .portLost with
      state := .detached, identity := none, otherDrive := false, ident := none, graceTimer := none }).portNotice p
    (.graceExpiry (areaCounts (s.port p).area))).maybeIdentify p

/-- The loss of the drive taken by a port's state, its presence sense set already (R98). A LOST port that has ignored a drive
does not identify it again while it stays connected (R111); an identification that the loss ends begins anew where the drive
still answers (log 29). -/
def State.driveLost (s : State) (p : Fin 4) : State :=
  match (s.port p).state with
  | .off => s
  | .detached => (s.setPort p { s.port p with ident := none }).maybeIdentify p
  | .attached =>
    ((s.setPort p { s.port p with identity := none, state := .detached }).portNotice p .detach).maybeIdentify p
  | .ready => (s.portLost p).maybeIdentify p
  | .lost =>
    let t := s.setPort p { s.port p with ident := none, otherDrive := false }
    if (s.port p).ident.isSome then t.maybeIdentify p else t
  | .faulted =>
    ((s.setPort p { s.port p with identity := none, state := .detached }).portNotice p .detach).maybeIdentify p

/-- Steps of PORTPWR off for a port that is ON (R99). The queues hold nothing, or what an abandoned run, or a clip that has
ended, has left there until its removal comes: they are emptied (R122; log 42). -/
def State.portOff (s : State) (p : Fin 4) : State :=
  s.setPort p { removeArea (emptyQueues (s.port p)) .portLost with
    power := .off, state := .off, ident := none, graceTimer := none, identity := none, otherDrive := false,
    unidentified := false }

/-- Steps of PORTPWR on for a port that is OFF (R99). -/
def State.portOn (s : State) (p : Fin 4) : State :=
  (s.setPort p { s.port p with power := .on, state := .detached }).maybeIdentify p

end Sys2Proof.Machine
end

