-- ==== Sys2Proof/Machine/JobOps.lean ====
section
/-! DEFINITION. The job manager's shared operations: CLEAR and job states, ends of clips, repairs and their sources,
re-reads, cuts (01, 08, 09). -/

namespace Sys2Proof.Machine

/-! ## Reports and the records that they name (R9) -/

/-- The present clip of an id that is not terminal (R9). -/
def State.liveClip (s : State) (id : Nat) : Option Clip := (s.clip? id).filter (fun c => !clipTerminal c)

/-- The READING clip of an id. -/
def State.readingClip (s : State) (id : Nat) : Option Clip := (s.clip? id).filter (fun c => decide (c.state = .reading))

/-- A live clip and its copy on a port (R9). -/
def State.liveCopy (s : State) (id : Nat) (p : Fin 4) : Option (Clip × Copy) :=
  (s.liveClip id).bind (fun c => (copyOn c p).map (fun k => (c, k)))

/-! ## CLEAR and the job's state -/

/-- The job is not away: its bay is MOUNTED with its card (R4). -/
def State.present (s : State) (j : Job) : Bool := decide ((s.view j.bay).sig = some j.sig)

/-- A clip that is SAFE with an empty damage list (R25). -/
def clipClean (c : Clip) : Bool := decide (c.state = .safe) && c.damage.isEmpty

/-- CLEAR as the job manager derives it (R25). -/
def State.clearOf (s : State) (b : Fin 8) : Bool :=
  match s.jobOf b with
  | none => false
  | some j =>
    s.present j && decide (j.state = .done) && j.clips.all (fun i => (s.clip? i).any clipClean)

/-- CLEAR evaluated anew and given to the bay when it changes (R25). -/
def State.evalClear (s : State) (b : Fin 8) : State :=
  if (s.view b).clear = s.clearOf b then s
  else (s.setView b { s.view b with clear := s.clearOf b }).send (.bayClearChange b (s.clearOf b))

/-- The N_JOB notice (R173). -/
def jobNotice (j : Job) : Notice := .job j.id j.state j.stop j.counts

/-- A job changes state: at DONE and STOPPED the notice; the bay is told; at DONE and STOPPED CLEAR is evaluated (R2,
R38). -/
def State.setJobState (s : State) (id : Nat) (st : JobState) (stop : Option StopMode) : State :=
  match s.job? id with
  | none => s
  | some j =>
    let t := s.modJob id (fun j => { j with state := st, stop := stop })
    match st with
    | .done | .stopped =>
      ((t.notify (jobNotice { j with state := st, stop := stop })).send (.bayJobState j.bay st)).evalClear j.bay
    | _ => t.send (.bayJobState j.bay st)

/-- Every clip of the job is terminal (R3). -/
def State.allTerminal (s : State) (j : Job) : Bool := j.clips.all (fun i => (s.clip? i).all clipTerminal)

/-- The test of R3, and of R2 for STOPPING. -/
def State.testJob (s : State) (id : Nat) : State :=
  match s.job? id with
  | none => s
  | some j =>
    if s.allTerminal j then
      match j.state with
      | .sealed => s.setJobState id .done j.stop
      | .stopping => s.setJobState id .stopped j.stop
      | _ => s
    else s

/-! ## The end of a clip -/

/-- The count of a terminal state goes up by 1 (R8). -/
def countEnd (st : ClipState) (k : Counts) : Counts :=
  match st with
  | .safe => { k with safe := k.safe + 1 }
  | .partialSafe => { k with partialSafe := k.partialSafe + 1 }
  | .failed => { k with failed := k.failed + 1 }
  | .cancelled => { k with cancelled := k.cancelled + 1 }
  | _ => k

/-- The N_CLIP notice (R173). -/
def clipNotice (c : Clip) : Notice := .clip c.id c.job c.state c.wait c.cause

/-- The verify mode of a clip's job. -/
def State.verifyOfClip (s : State) (c : Clip) : VerifyMode :=
  match s.job? c.job with
  | some j => j.verify
  | none => .full

/-- A copy that is not settled becomes DROPPED with cause CANCELLED (R11). -/
def dropCopy (verify : VerifyMode) (k : Copy) : Copy :=
  if copySettled verify k then k else { k with state := .dropped, cause := some .cancelled, repair := none }

/-- The record of a clip that becomes terminal. -/
def endRecord (st : ClipState) (cause : Option Cause) (verify : VerifyMode) (c : Clip) : Clip :=
  { c with state := st, wait := none, cause := cause, running := none, copies := c.copies.map (dropCopy verify) }

/-- A clip becomes terminal: its record, its job's count, the notice (R8). -/
def State.endClip (s : State) (c : Clip) (st : ClipState) (cause : Option Cause) : State :=
  let c' := endRecord st cause (s.verifyOfClip c) c
  ((s.modClip c.id (fun _ => c')).modJob c.job (fun j => { j with counts := countEnd st j.counts })).notify (clipNotice c')

/-- The abandonments of copies that an end drops, and the closes of copies it keeps, for those with a placement (R107,
R108). -/
def placementMessages (verify : VerifyMode) (c : Clip) : List Instr :=
  c.copies.filterMap (fun k =>
    match k.placement with
    | none => none
    | some _ => if copySettled verify k then some (.placementClose k.port c.id) else some (.runAbandonment k.port c.id))

/-- A clip that was not LANDING ends by failure: its extents discarded when it was READING, its runs abandoned or closed
(R15, R21, R23). -/
def State.failClip (s : State) (c : Clip) (cause : Cause) (discard : Bool) : State :=
  let t := s.endClip c .failed (some cause)
  let u := if discard then t.send (.clipDiscard c.id) else t
  (u.sendAll (placementMessages (s.verifyOfClip c) c)).testJob c.job

/-- The terminal decision of a LANDING clip whose copies are all settled (R24). -/
def State.decideClip (s : State) (id : Nat) : State :=
  match s.clip? id with
  | none => s
  | some c =>
    let v := s.verifyOfClip c
    if c.state = .landing ∧ c.copies.all (copySettled v) = true then
      let st := decisionState v c.copies
      let cause := match st with
        | .safe => none
        | _ => decisionCause v c.copies
      ((s.endClip c st cause).sendAll (placementMessages v c)).testJob c.job
    else s

/-! ## Repairs (8.4 to 8.8) -/

/-- The fields of a trailer append, from the records as they stand (R124). -/
def trailerFields (j : Job) (c : Clip) (k : Copy) (d : Digest) (p : Placement) : TrailerFields :=
  ⟨c.job, k.attempts, c.length, d, j.sig, c.damage, p.start, c.label⟩

/-- The trailer append of a copy (R124). The digest and the placement are always present when it is due. -/
def State.appendTrailer (s : State) (id : Nat) (p : Fin 4) : State :=
  match s.clip? id with
  | none => s
  | some c =>
    match s.job? c.job, copyOn c p, c.digest with
    | some j, some k, some d =>
      match k.placement with
      | some pl => s.send (.trailerAppend p id (trailerFields j c k d pl))
      | none => s
    | _, _, _ => s

/-- A card-sourced repair leaves the job manager's list of those given to a bay. -/
def State.dropGiven (s : State) (b : Fin 8) (id : Nat) (p : Fin 4) : State :=
  s.setView b { s.view b with repairs := (s.view b).repairs.filter (fun r => !(r.clip == id && decide (r.port = p))) }

/-- The bay of a clip's job. -/
def State.bayOfClip (s : State) (c : Clip) : Option (Fin 8) := (s.job? c.job).map Job.bay

/-- The repair read of a copy is ended: its extents discarded, and its source told (R148, R149). -/
def State.endRepairRead (s : State) (c : Clip) (k : Copy) : State :=
  match k.repair with
  | none => s
  | some r =>
    let t := s.send (.repairDiscard c.id k.port)
    match r.source with
    | .none => t
    | .port q => t.send (.siblingCancel q c.id k.port)
    | .card =>
      match s.bayOfClip c with
      | none => t
      | some b => (t.dropGiven b c.id k.port).send (.workItemEnded b (.repair c.id k.port))

/-- A sibling copy that may serve as a source: VERIFIED, on another port that is READY and holds its run (R143; log
14). -/
def State.siblingFit (s : State) (c : Clip) (p q : Fin 4) : Bool :=
  decide (q ≠ p) && decide ((s.port q).state = .ready) && takesCopy (s.port q) c.id &&
    (copyOn c q).any (fun k => decide (k.state = .verified))

/-- The sibling source of lowest port number (R143). -/
def State.siblingSource (s : State) (c : Clip) (p : Fin 4) : Option (Fin 4) :=
  (List.finRange 4).find? (s.siblingFit c p)

/-- The card-excluded flag of a copy's repair. -/
def excluded (k : Copy) : Bool := k.repair.any Repair.cardExcluded

/-- The card may serve as the source (R143). -/
def State.cardFit (s : State) (j : Job) (k : Copy) : Bool := !excluded k && s.present j

/-- The read work of a card-sourced repair (R62, R144). -/
def repairWork (j : Job) (c : Clip) (p : Fin 4) : ReadWork := ⟨.repair c.id p, c.length, c.runs, j.damage, c.damage⟩

/-- A copy's repair is given to its job's bay; a card read of it begins (R91, R143, R144). -/
def State.giveToCard (s : State) (j : Job) (c : Clip) (k : Copy) : State :=
  (((s.modCopy c.id k.port (fun x => { x with repair := some ⟨.card, excluded k, some digestInitial, true⟩ })).setView j.bay
    { s.view j.bay with repairs := (s.view j.bay).repairs ++ [⟨c.id, k.port⟩] }).beginRead (.repair c.id k.port)).send
    (.bayReadWork j.bay (repairWork j c k.port))

/-- The verify queue entry of a copy (R135). -/
def verifyEntry (c : Clip) (p : Placement) : VerifyEntry :=
  ⟨c.id, c.length, c.digest.getD 0#64, p.start, p.dataUnits, none⟩

/-- The sibling entry for a repair from a copy (R135). -/
def siblingEntry (c : Clip) (p : Placement) (rp : Fin 4) : VerifyEntry :=
  ⟨c.id, c.length, c.digest.getD 0#64, p.start, 0, some rp⟩

/-- A copy's repair is given to a sibling port (R143). -/
def State.giveToSibling (s : State) (c : Clip) (k : Copy) (q : Fin 4) : State :=
  let t := s.modCopy c.id k.port (fun x => { x with repair := some ⟨.port q, excluded k, none, true⟩ })
  match (copyOn c q).bind Copy.placement with
  | some pl => t.send (.siblingAppend q (siblingEntry c pl k.port))
  | none => t

/-- A copy is FAILED with a cause, its repair record removed (R11, R142). -/
def State.failCopy (s : State) (id : Nat) (p : Fin 4) (cause : Cause) : State :=
  s.modCopy id p (fun k => { k with state := .failed, cause := some cause, repair := none })

/-- The choice of a repair source for a REPAIRING copy (R143). -/
def State.chooseSource (s : State) (id : Nat) (p : Fin 4) : State :=
  match s.clip? id with
  | none => s
  | some c =>
    match s.job? c.job, copyOn c p with
    | some j, some k =>
      if k.state = .repairing then
        if s.cardFit j k then s.giveToCard j c k
        else
          match s.siblingSource c p with
          | some q => s.giveToSibling c k q
          | none => (s.failCopy id p .noRepairSource).decideClip id
      else s
    | _, _ => s

/-- A copy enters REPAIRING (R142). -/
def State.beginRepair (s : State) (id : Nat) (p : Fin 4) : State :=
  let t := s.modCopy id p (fun k =>
    { k with state := .repairing, attempts := 2, repair := some ⟨.none, false, none, false⟩ })
  match s.clip? id with
  | none => t
  | some c => if c.length = 0 then t.appendTrailer id p else t.chooseSource id p

/-- The source of a copy's repair is lost: extents discarded, source told, and chosen anew (R148). -/
def State.reSource (s : State) (c : Clip) (k : Copy) : State :=
  ((s.endRepairRead c k).modCopy c.id k.port (fun x =>
    { x with repair := x.repair.map (fun r => { r with source := .none, running := none, reading := false }) })
  ).chooseSource c.id k.port

/-- A failed verify or sibling read of a copy: REPAIRING with write attempts 1, FAILED with 2 (R140, R146). -/
def State.mismatchCopy (s : State) (id : Nat) (k : Copy) : State :=
  if k.attempts = 1 then s.beginRepair id k.port else (s.failCopy id k.port .verifyMismatch).decideClip id

/-- A REPAIRING copy whose source is this port (R146, R148). -/
def readsFrom (q : Fin 4) (k : Copy) : Bool :=
  decide (k.state = .repairing) && k.repair.any (fun r => decide (r.source = .port q))

/-- A REPAIRING copy for which the card is being read (R144; log 15). -/
def readsCard (k : Copy) : Bool :=
  decide (k.state = .repairing) && k.repair.any (fun r => decide (r.source = .card) && r.reading)

/-- Every repair of a clip that reads from this port chooses its source anew (R148). -/
def State.reSourceClip (s : State) (q : Fin 4) (id : Nat) : State :=
  match s.clip? id with
  | none => s
  | some c =>
    (c.copies.filter (readsFrom q)).foldl (fun t k =>
      match (t.clip? id).bind (fun c => (copyOn c k.port).map (fun k => (c, k))) with
      | some (c, k) => if readsFrom q k then t.reSource c k else t
      | none => t) s

/-- The same for every clip, in the order of the clip table (log 28). -/
def State.reSourceAll (s : State) (q : Fin 4) : State :=
  (s.jm.clips.map Clip.id).foldl (fun t id => t.reSourceClip q id) s

/-- A copy that its port's grace expiry or fault makes FAILED (R11): WRITING, VERIFYING, REPAIRING, or WRITTEN under verify
FULL. -/
def portFails (verify : VerifyMode) (k : Copy) : Bool :=
  match k.state with
  | .writing | .verifying | .repairing => true
  | .written => decide (verify = .full)
  | _ => false

/-- A clip's copy on a port that is gone becomes FAILED, its repair ended, and the clip's decision tested (R113, R129,
R149). -/
def State.portFailsClip (s : State) (p : Fin 4) (cause : Cause) (id : Nat) : State :=
  match s.clip? id with
  | none => s
  | some c =>
    if clipTerminal c then s
    else
      match copyOn c p with
      | none => s
      | some k =>
        if portFails (s.verifyOfClip c) k then ((s.endRepairRead c k).failCopy id p cause).decideClip id else s

/-- The same for every clip, in the order of the clip table (log 28). -/
def State.portFailsAll (s : State) (p : Fin 4) (cause : Cause) : State :=
  (s.jm.clips.map Clip.id).foldl (fun t id => t.portFailsClip p cause id) s

/-! ## Re-reads and cuts -/

/-- A WRITING copy goes back to PENDING with no placement (R22). -/
def unplaceCopy (k : Copy) : Copy := if k.state = .writing then { k with state := .pending, placement := none } else k

/-- The record of a clip sent back for a re-read (R22), with the mark of a mismatch where that is the reason (R21). For a clip of a
STOPPING job, which R156 has cancelled instead, R156 names the lane, the extents and the runs and not these fields: that they are
cleared and marked there too is the model's choice (DESIGN CHOICE; log 50). -/
def reReadRecord (mismatch : Bool) (c : Clip) : Clip :=
  { c with
    state := .queued, running := none, digest := none, bytesRead := 0, damage := [], mismatch := c.mismatch || mismatch,
    copies := c.copies.map unplaceCopy }

/-- The abandonments of a re-read: one for each WRITING copy (R22, R108). -/
def writingAbandonments (c : Clip) : List Instr :=
  (c.copies.filter (fun k => decide (k.state = .writing))).map (fun k => .runAbandonment k.port c.id)

/-- The closes of kept copies that hold a placement (R157). -/
def keptCloses (verify : VerifyMode) (c : Clip) : List Instr :=
  c.copies.filterMap (fun k =>
    match k.placement with
    | none => none
    | some _ => if copySettled verify k then some (.placementClose k.port c.id) else none)

/-- A clip is sent back for a re-read, or cancelled instead in a STOPPING job, its fields as the re-read leaves them (R22, R156;
log 50). -/
def State.reRead (s : State) (c : Clip) (mismatch : Bool) : State :=
  let c' := reReadRecord mismatch c
  let t := ((s.modClip c.id (fun _ => c')).send (.clipDiscard c.id)).sendAll (writingAbandonments c)
  match s.job? c.job with
  | some j =>
    if j.state = .stopping then
      ((t.endClip c' .cancelled none).sendAll (keptCloses j.verify c')).testJob c.job
    else t
  | none => t

/-- The trailer appends of a clip of length 0 that becomes LANDING, one for each WRITING copy (R20). -/
def State.appendTrailers (s : State) (c : Clip) : State :=
  (c.copies.filter (fun k => decide (k.state = .writing))).foldl (fun t k => t.appendTrailer c.id k.port) s

/-- A clip read is complete with its final running state: LANDING, a re-read, or FAILED (R20, R21, R92). The admission
point is the caller's. That a mismatch which fails the clip leaves `mismatch` as it was, clear when it is the clip's first at read
attempts 3, is the model's choice (log 46). -/
def State.completeRead (s : State) (c : Clip) (d : DigestState) : State :=
  let v := digestFinal d
  let c' := { c with digest := some v, bytesRead := d.count, running := none }
  let t := s.modClip c.id (fun _ => c')
  if c.expected = none ∨ c.expected = some v then
    let u := t.modClip c.id (fun x => { x with state := .landing })
    (if c.length = 0 then u.appendTrailers c' else u).decideClip c.id
  else if c.mismatch = true ∨ Config.maxReadAttempts ≤ c.attempts then t.failClip c' .sourceDigest true
  else t.reRead c' true

/-- The messages of a cut to the port of a copy that it drops (R159, step 4). -/
def dropMessages (id : Nat) (k : Copy) : List Instr :=
  [.trailerRemoval k.port id, .verifyRemoval k.port id] ++
    match k.placement with
    | some _ => [.runAbandonment k.port id]
    | none => []

/-- The messages of a cut to the ports: those to the dropped copies' ports, then the closes of the kept copies (R159, steps 4
and 5). -/
def cutMessages (verify : VerifyMode) (c : Clip) : List Instr :=
  (c.copies.filter (fun k => !copySettled verify k)).flatMap (dropMessages c.id) ++ keptCloses verify c

/-- The repair reads of a clip that is cut are ended (R159, step 2). -/
def State.endRepairs (s : State) (c : Clip) : State :=
  (c.copies.filter (fun k => decide (k.state = .repairing))).foldl (fun t k => t.endRepairRead c k) s

/-- The word to the bay that its READING clip's read is ended (R55, R159, step 1). -/
def State.endClipRead (s : State) (c : Clip) : State :=
  match s.bayOfClip c with
  | some b => if c.state = .reading then s.send (.workItemEnded b (.clip c.id)) else s
  | none => s

/-- The cut of a READING or LANDING clip (R158, R159). The test of its job and the admission point are the caller's. -/
def State.cutClip (s : State) (c : Clip) : State :=
  let t := ((s.endClip c .cancelled none).endClipRead c).endRepairs c
  (t.send (.clipDiscard c.id)).sendAll (cutMessages (s.verifyOfClip c) c)

/-! ## Claims answered after their read is gone (R80) -/

/-- The job manager still holds the read that a claim is for. -/
def State.readStands (s : State) (r : Requester) (c : ClaimId) : Bool :=
  match r, c.repairPort with
  | .lane _ _, none => (s.readingClip c.clip).isSome
  | .lane _ _, some p => (s.liveCopy c.clip p).any (fun x => readsCard x.2)
  | .engine q, some p => (s.liveCopy c.clip p).any (fun x => readsFrom q x.2)
  | .engine _, none => false

/-- The message is a discard of the extents of a claim identity. -/
def discards (c : ClaimId) : Instr → Bool
  | .clipDiscard clip => ofClip clip c
  | .repairDiscard clip p => ofRepair clip p c
  | _ => false

/-- The message reports that the read of a claim has ended at its filler: by the loss of the bay's card or of the port's drive, by a
media failure, or by an uncorrectable block of a repair (R22, R23, R62, R148). -/
def reportsLoss (c : ClaimId) : Requester → Instr → Bool
  | .lane _ b, .cardLostReport a => decide (a = b)
  | .lane _ _, .mediaFailure clip => clip == c.clip && c.repairPort.isNone
  | .lane _ _, .repairSourceFailure clip p => clip == c.clip && decide (c.repairPort = some p)
  | .engine q, .driveLossReport p => decide (p = q)
  | .engine q, .portFaultReport p => decide (p = q)
  | _, _ => false

/-- A discard that will free what a claim was given is on its way, or the job manager will send it when it takes the report
that is on its way of the end of the read. A read that stands because it was begun anew brings none, and a late report of an earlier
read is dropped (R80; log 18, log 51). -/
def State.discardDue (s : State) (r : Requester) (c : ClaimId) : Bool :=
  s.wire.any (discards c) || (s.inTime.any (reportsLoss c r) && s.readStands r c)

/-- A message that gives a filler an extent for a claim identity. -/
def givesExtent (c : ClaimId) (i : Nat) : Instr → Bool
  | .claimAnswer _ d (some k) => decide (d = c) && k == i
  | .siblingOffer _ k d => decide (d = c) && k == i
  | _ => false

/-- A lane fills an extent for a claim identity, or keeps it until its read's completion is acknowledged. -/
def laneHolds (c : ClaimId) (i : Nat) (l : Lane) : Bool :=
  l.ack.any (fun a => a.index == i && decide (a.claim = c)) ||
    match l.holder, l.unit with
    | some (.work _ item), some d => decide (l.extent = some i) && decide (claimOf item d.count = c)
    | _, _ => false

/-- The entry at the head of the verify queue is the sibling read that a claim is for. -/
def headClaims (x : Port) (c : ClaimId) : Bool :=
  x.verifyQ.head?.any (fun e => decide (e.repairPort.map (fun rp => siblingClaim e rp x.engine.chunk) = some c))

/-- A verify engine reads into an extent for a claim identity. -/
def engineHolds (c : ClaimId) (i : Nat) (x : Port) : Bool := decide (x.engine.extent = some i) && headClaims x c

/-- The extent is still the one that an answer or an offer gave: FILLING with that identity, set aside as it was then, and
neither given anew by a message on its way nor in another filler's hands. -/
def State.stillGiven (s : State) (aside : Option SetAside) (c : ClaimId) (i : Nat) : Bool :=
  (extentAt s.pool i).any (fun e => decide (e.state = .filling) && decide (e.claim = c) && decide (e.aside = aside)) &&
    !s.wire.any (givesExtent c i) && (List.finRange 4).all (fun n => !laneHolds c i (s.lane n) && !engineHolds c i (s.port n))

/-- The place among the waiting requests is still the one that an answer "wait" told of: not all that stand are told of by
answers still on their way. -/
def State.stillWaits (s : State) (r : Requester) (c : ClaimId) : Bool :=
  decide (s.wire.count (.claimAnswer r c none) < s.pool.waits.count ⟨r, c⟩)

/-- The answer to a claim, or the offer, that its filler no longer awaits: the extent, or the place among the waiting requests, is
given back where no discard is due to free it, so that no extent stays held for a read that has ended (R80; log 18). -/
def State.giveBack (s : State) (aside : Option SetAside) (r : Requester) (c : ClaimId) (index : Option Nat) : State :=
  if s.discardDue r c then s
  else
    match index with
    | some i =>
      if s.stillGiven aside c i then
        ({ s with pool := { s.pool with extents := dropExtent s.pool.extents i } } : State).offerRound
      else s
    | none =>
      if s.stillWaits r c then { s with pool := { s.pool with waits := s.pool.waits.erase ⟨r, c⟩ } } else s

/-- What a filler has of the pool: by whom it was claimed, what the extent was set aside for, the claim, and the extent, none for
a place among the waiting requests. -/
structure Given where
  requester : Requester
  aside : Option SetAside
  claim : ClaimId
  index : Option Nat
  deriving DecidableEq, Repr

/-- A filler gives up what it has of the pool for reads that have ended: each is given back where no discard is due (R80; log 18). -/
def State.giveBackAll (s : State) (gs : List Given) : State :=
  gs.foldl (fun t g => t.giveBack g.aside g.requester g.claim g.index) s

/-- The extent that a lane fills. -/
def laneGiven (n : Fin 4) (l : Lane) : List Given :=
  match l.holder, l.unit, l.extent with
  | some (.work b item), some d, some i => [⟨.lane n b, none, claimOf item d.count, some i⟩]
  | _, _, _ => []

/-- The extent that the lane of a bay fills for one of the work items. -/
def State.lanesGiven (s : State) (b : Fin 8) (items : WorkItem → Bool) : List Given :=
  (List.finRange 4).flatMap (fun n =>
    match (s.lane n).holder with
    | some (.work a item) => if a = b ∧ items item = true then laneGiven n (s.lane n) else []
    | _ => [])

/-- The extents that offers have set aside for work items of a bay (R83). Which lane claimed does not matter. -/
def asidesGiven (p : Pool) (b : Fin 8) (items : WorkItem → Bool) : List Given :=
  (p.extents.filter (fun e => decide (e.2.aside = some (.bay b)) && items (itemOf e.2.claim))).map
    (fun e => ⟨.lane 0 b, some (.bay b), e.2.claim, some e.1⟩)

/-- The requester is a lane that serves the bay. -/
def servesBay (b : Fin 8) : Requester → Bool
  | .lane _ a => decide (a = b)
  | .engine _ => false

/-- The places among the waiting requests of a bay's work item. -/
def bayPlaces (p : Pool) (b : Fin 8) (item : WorkItem) : List Given :=
  (p.waits.filter (fun w => servesBay b w.requester && decide (itemOf w.claim = item))).map
    (fun w => ⟨w.requester, none, w.claim, none⟩)

/-- What a bay and its lane have in hand for the bay's work items. -/
def State.bayGiven (s : State) (b : Fin 8) (items : WorkItem → Bool) : List Given :=
  s.lanesGiven b items ++ asidesGiven s.pool b items

/-- The bay waits on the pool no more when it gives up the place that it waits for (R51, R80; log 18). -/
def State.endWait (s : State) (b : Fin 8) (item : WorkItem) : State :=
  if (bayPlaces s.pool b item).any (fun g => !s.discardDue g.requester g.claim && s.stillWaits g.requester g.claim) then
    s.setBay b { s.bay b with waiting := false }
  else s

/-- What an extent was set aside for by the offer by which an engine has it; none when a claim was granted it. -/
def engineAside (pool : Pool) (p : Fin 4) (i : Nat) : Option SetAside :=
  ((extentAt pool i).bind Extent.aside).filter (fun a => decide (a = .engine p))

/-- The extent that a verify engine has for the sibling read at the head of its queue (R145). -/
def State.engineGiven (s : State) (p : Fin 4) : List Given :=
  match (s.port p).verifyQ, (s.port p).engine.extent with
  | e :: _, some i =>
    match e.repairPort with
    | some rp => [⟨.engine p, engineAside s.pool p i, siblingClaim e rp (s.port p).engine.chunk, some i⟩]
    | none => []
  | _, _ => []

/-- The place of a WAITING engine among the waiting requests (R136). -/
def enginePlaces (p : Fin 4) (x : Port) : List Given :=
  match x.verifyQ with
  | e :: _ =>
    match e.repairPort with
    | some rp => if x.engine.state = .waiting then [⟨.engine p, none, siblingClaim e rp x.engine.chunk, none⟩] else []
    | none => []
  | [] => []

end Sys2Proof.Machine
end

