-- ==== Sys2Proof/Machine/AdmissionOps.lean ====
section
/-! DEFINITION. Admission (R13 to R18): the admission points, the choice of clips, enquiries, the decision from the
answers, the start of a read, and the cancelling of a clip that waits (R157). -/

namespace Sys2Proof.Machine

/-! ## Admission points and the clips to try -/

/-- The clip waits for admission. -/
def clipWaits (c : Clip) : Bool := decide (c.state = .queued) || decide (c.state = .waiting)

/-- The clips of a job that a test hits, in clip-list order. -/
def State.jobClips (s : State) (j : Job) (hit : Clip → Bool) : List Nat := j.clips.filter (fun i => (s.clip? i).any hit)

/-- The order in which clips are tried (R14), of the clips as they stand now. -/
def State.tryOrder (s : State) (j : Job) : List Nat :=
  s.jobClips j (fun c => decide (c.state = .waiting)) ++
    s.jobClips j (fun c => decide (c.state = .queued) && decide (1 ≤ c.attempts)) ++
    s.jobClips j (fun c => decide (c.state = .queued) && decide (c.attempts = 0))

/-- The conditions of R14. -/
def State.mayAdmit (s : State) (b : Fin 8) (j : Job) : Bool :=
  (decide (j.state = .opened) || decide (j.state = .sealed)) && s.present j &&
    j.clips.all (fun i => (s.clip? i).all (fun c => decide (c.state ≠ .reading))) && (s.view b).repairs.isEmpty

/-- The admission record of a bay set. -/
def State.setAdm (s : State) (b : Fin 8) (a : Option Admission) : State := s.setView b { s.view b with adm := a }

/-- An admission begins where the conditions hold; otherwise there is none (R14). The clips that it tries are fixed here, so a
clip that is added while it is in progress is tried in the run held over for it, and not in this one: the spec leaves that open
(DESIGN CHOICE; log 47). The conditions of R14 are tested here and not again: that an admission goes on when a card-sourced repair
is given to its bay meanwhile (R144) is the model's choice (DESIGN CHOICE; log 49). -/
def State.startAdm (s : State) (b : Fin 8) : State :=
  match s.jobOf b with
  | none => s.setAdm b none
  | some j =>
    if s.mayAdmit b j then s.setAdm b (some ⟨.trying, 0, s.tryOrder j, [], [], [], false, false⟩) else s.setAdm b none

/-- An admission ends; an admission point held over runs admission once more (R13). -/
def State.endAdm (s : State) (b : Fin 8) : State :=
  match (s.view b).adm with
  | none => s
  | some a => if a.heldOver then s.startAdm b else s.setAdm b none

/-- An admission point is held over while an admission is in progress (R13). -/
def State.holdOver (s : State) (b : Fin 8) : State :=
  match (s.view b).adm with
  | none => s
  | some a => s.setAdm b (some { a with heldOver := true })

/-! ## The start of a read -/

/-- The read work of a clip (R51). -/
def clipWork (j : Job) (c : Clip) : ReadWork := ⟨.clip c.id, c.length, c.runs, j.damage, []⟩

/-- Steps 2 to 4 of R18, and the completion at once of a clip of length 0 (R20). The admission ends. That the bay is not told of
the READING clip (step 4) when its length is 0 is the model's reading: such a clip reads no block and holds no lane (DEDUCED;
log 45). -/
def State.startRead (s : State) (b : Fin 8) (id : Nat) : State :=
  let t := s.modClip id (fun c =>
    { c with state := .reading, wait := none, attempts := c.attempts + 1, bytesRead := 0, running := some digestInitial })
  match t.clip? id, t.jobOf b with
  | some c, some j =>
    if c.length = 0 then ((t.completeRead c digestInitial).holdOver b).endAdm b
    else ((t.beginRead (.clip c.id)).send (.bayReadWork b (clipWork j c))).endAdm b
  | _, _ => t.endAdm b

/-! ## The decision from the answers -/

/-- The answer taken from a port. -/
def answerOf (as : List TakenAnswer) (p : Fin 4) : Option HoldAnswer :=
  (as.find? (fun x => decide (x.port = p))).map TakenAnswer.answer

/-- A port answered fits. -/
def answeredFits (as : List TakenAnswer) (p : Fin 4) : Bool :=
  match answerOf as p with
  | some (.fits _ _) => true
  | _ => false

/-- The ports that answered fits, in the order in which their answers were taken: the order in which their holds are withdrawn, which
R17 leaves open, is the model's choice (log 28). -/
def fitPorts (as : List TakenAnswer) : List (Fin 4) := (as.map TakenAnswer.port).filter (answeredFits as)

/-- The ports of PENDING copies, in copy-set order, that answered fits (R18, step 1). -/
def confirmPorts (c : Clip) (as : List TakenAnswer) : List (Fin 4) :=
  ((c.copies.filter (fun k => decide (k.state = .pending))).map Copy.port).filter (answeredFits as)

/-- The first required PENDING copy, in copy-set order, that was not answered fits (R17). A required copy that an earlier read left
FAILED is not enquired again (R22), and neither R17 nor R18 names it: that it stands in the way of no admission is the model's
reading (DEDUCED; log 52). -/
def refusedCopy (c : Clip) (as : List TakenAnswer) : Option Copy :=
  c.copies.find? (fun k => decide (k.state = .pending) && k.required && !answeredFits as k.port)

/-- The wait reason of a refused copy: SPACE for no room, PORT for not ready (R17). -/
def waitReasonOf (as : List TakenAnswer) (p : Fin 4) : WaitReason :=
  match answerOf as p with
  | some .noRoom => .space
  | _ => .port

/-- The clip waits with a reason; the notice when it enters WAITING or its reason changes (R8, R17). -/
def State.makeWait (s : State) (c : Clip) (r : WaitReason) : State :=
  let c' := { c with state := .waiting, wait := some r }
  let t := s.modClip c.id (fun _ => c')
  if c.state = .waiting ∧ c.wait = some r then t else t.notify (clipNotice c')

/-- A copy that the answers leave without a hold: SKIPPED with its cause (R18, step 1). -/
def skipCopy (as : List TakenAnswer) (k : Copy) : Copy :=
  if k.state = .pending then
    match answerOf as k.port with
    | some .noRoom => { k with state := .skipped, cause := some .space }
    | some .notReady => { k with state := .skipped, cause := some .portLost }
    | _ => k
  else k

/-- The ports of a clip's PENDING copies, in copy-set order (R16). -/
def pendingPorts (c : Clip) : List (Fin 4) := (c.copies.filter (fun k => decide (k.state = .pending))).map Copy.port

/-- Every port has answered, and the job is not away: the clip is refused, or admitted with its holds confirmed (R17,
R18). A refusal withdraws the holds and then makes the clip wait, as R17 words it; that the notice of WAITING comes with the wait
reason, and so after the withdrawals, is the model's reading (DEDUCED; log 28). -/
def State.decideAnswers (s : State) (b : Fin 8) (a : Admission) (c : Clip) : State :=
  match refusedCopy c a.answers with
  | some k =>
    ((s.sendAll ((fitPorts a.answers).map (fun p => .holdWithdrawal p c.id))).makeWait c
      (waitReasonOf a.answers k.port)).setAdm b (some { a with phase := .trying })
  | none =>
    let t := (s.modClip c.id (fun c => { c with copies := c.copies.map (skipCopy a.answers) })).sendAll
      ((confirmPorts c a.answers).map (fun p => .holdConfirmation p c.id))
    if confirmPorts c a.answers = [] then t.startRead b c.id
    else t.setAdm b (some { a with phase := .confirming, awaiting := confirmPorts c a.answers, confirmed := confirmPorts c a.answers })

/-- The last answer of an enquiry is taken: whether the job is away is asked then, and a job that has gone away and is back
meanwhile counts as not away (R16, R157; log 43). A card-sourced repair given to the bay since the admission began does not stop it:
the clip may be admitted with the repair outstanding (DESIGN CHOICE; log 49). -/
def State.answersIn (s : State) (b : Fin 8) (a : Admission) : State :=
  if a.cancelled then (s.holdOver b).endAdm b
  else
    match s.clip? a.clip, s.jobOf b with
    | some c, some j =>
      if s.present j then s.decideAnswers b a c
      else (s.sendAll ((fitPorts a.answers).map (fun p => .holdWithdrawal p c.id))).endAdm b
    | _, _ => s.endAdm b

/-! ## Trying one clip after another -/

/-- One clip is tried: failed with SOURCE_LOST, enquired for, or decided at once when it has no PENDING copy (R15, R16). -/
def State.tryClip (s : State) (b : Fin 8) (a : Admission) (c : Clip) : State :=
  if Config.maxReadAttempts ≤ c.attempts then s.failClip c .sourceLost false
  else
    let a' : Admission := { a with phase := .enquiring, clip := c.id, awaiting := pendingPorts c, answers := [] }
    if pendingPorts c = [] then s.decideAnswers b a' c
    else (s.setAdm b (some a')).sendAll ((pendingPorts c).map (fun p => .holdEnquiry p c.id c.length))

/-- One move of an admission that waits for no port; none when there is no such admission. -/
def State.admStep (s : State) (b : Fin 8) : Option State :=
  match (s.view b).adm with
  | none => none
  | some a =>
    match a.phase with
    | .enquiring | .confirming => none
    | .trying =>
      match a.rest with
      | [] => some (s.endAdm b)
      | id :: rest =>
        let t := s.setAdm b (some { a with rest := rest })
        match t.clip? id with
        | some c => if clipWaits c then some (t.tryClip b { a with rest := rest } c) else some t
        | none => some t

/-- At most k moves. -/
def State.admSteps : Nat → State → Fin 8 → State
  | 0, s, _ => s
  | k + 1, s, b =>
    match s.admStep b with
    | some t => State.admSteps k t b
    | none => s

/-- The admission goes on until it waits for ports or has ended; each clip is moved at most eight times (log 33). -/
def State.admRun (s : State) (b : Fin 8) : State := State.admSteps (8 * (s.jm.clips.length + 1)) s b

/-- An admission point for a bay (R13). -/
def State.admissionPoint (s : State) (b : Fin 8) : State :=
  match (s.view b).adm with
  | some a => s.setAdm b (some { a with heldOver := true })
  | none => (s.startAdm b).admRun b

/-- An admission point for every bay whose job has a WAITING clip with a PENDING copy on a port, and that a further test
admits (R13, R106). Bays in order of number (log 28). -/
def waitsFor (p : Fin 4) (c : Clip) : Bool :=
  decide (c.state = .waiting) && c.copies.any (fun k => decide (k.port = p) && decide (k.state = .pending))

/-- The bay's job has a clip that waits for a port. -/
def State.bayWaitsFor (s : State) (p : Fin 4) (b : Fin 8) : Bool :=
  match s.jobOf b with
  | none => false
  | some j => j.clips.any (fun i => (s.clip? i).any (waitsFor p))

/-- The admission points of an area installed, a drive returned or room freed (R13). -/
def State.portPoints (s : State) (p : Fin 4) (skip : Option (Fin 8)) : State :=
  (List.finRange 8).foldl (fun t b => if t.bayWaitsFor p b = true ∧ skip ≠ some b then t.admissionPoint b else t) s

/-- The admission points of bays whose last card-sourced repair has ended since `before` (R13, R144). Whether one has is asked once,
when all that the report brings is done: where the same report gives the bay another repair, there is no admission point between
(DESIGN CHOICE; log 53). -/
def State.afterRepairs (s before : State) : State :=
  (List.finRange 8).foldl (fun t b =>
    if (before.view b).repairs ≠ [] ∧ (t.view b).repairs = [] then t.admissionPoint b else t) s

/-- An admission point for the bay of a job. -/
def State.jobPoint (s : State) (id : Nat) : State :=
  match s.job? id with
  | some j => s.admissionPoint j.bay
  | none => s

/-! ## Cancelling a clip that waits (R157) -/

/-- The admission of a clip that is cancelled: fits answered are withdrawn, or confirmed runs abandoned (R157; log 13). -/
def State.cancelAdm (s : State) (b : Fin 8) (clip : Nat) : State :=
  match (s.view b).adm with
  | none => s
  | some a =>
    if a.clip = clip then
      match a.phase with
      | .trying => s
      | .enquiring =>
        (s.setAdm b (some { a with cancelled := true })).sendAll
          ((fitPorts a.answers).map (fun p => .holdWithdrawal p clip))
      | .confirming =>
        (s.setAdm b (some { a with cancelled := true })).sendAll (a.confirmed.map (fun p => .runAbandonment p clip))
    else s

/-- A QUEUED or WAITING clip is cancelled (R157). -/
def State.cancelWaiting (s : State) (c : Clip) : State :=
  let t := (s.endClip c .cancelled none).sendAll (keptCloses (s.verifyOfClip c) c)
  match s.bayOfClip c with
  | some b => t.cancelAdm b c.id
  | none => t

/-- Every QUEUED and WAITING clip of a job is cancelled, in clip-list order (R155, R161). -/
def State.cancelAll (s : State) (j : Job) : State :=
  j.clips.foldl (fun t i =>
    match t.clip? i with
    | some c => if clipWaits c then t.cancelWaiting c else t
    | none => t) s

/-- Every READING and LANDING clip of a job is cut, in clip-list order (R161). -/
def State.cutAll (s : State) (j : Job) : State :=
  j.clips.foldl (fun t i =>
    match t.clip? i with
    | some c => if clipTerminal c = true ∨ clipWaits c = true then t else t.cutClip c
    | none => t) s

/-- The cut of a whole job (R161). -/
def State.cutJob (s : State) (j : Job) : State := ((s.cancelAll j).cutAll j).setJobState j.id .stopped (some .cut)

end Sys2Proof.Machine
end

