-- ==== Sys2Proof/Machine/Bays.lean ====
section
/-! DEFINITION. The meanings of the bay events and of the messages a bay takes: CARD_SEATED to EJECT_BUTTON, BAY_JOB_BOUND
to BAY_READ_WORK, HEALTH_WINDOW_EXPIRY, POOL_OFFER, WORK_ITEM_ENDED (02_card_bays.md, 3.2, 3.5, 4.4). -/

namespace Sys2Proof.Machine

/-! ## The slot -/

/-- CARD_SEATED (R31; log 21). -/
def execCardSeated (bay : Fin 8) (s : State) : Host.Outcome State Fault Refusal :=
  let t := s.setBay bay { s.bay bay with cardPresent := true }
  .next (if (s.bay bay).state = .empty then t.startProbe bay else t)

/-- PROBE_COMPLETION. A late one, of a probe that has ended, is dropped, also while a new probe runs (R31, R32, R35;
log 24). -/
def execProbeCompletion (probe : ProbeEnd) (answer : Option CardSig) (s : State) : Host.Outcome State Fault Refusal :=
  .next (if probe.late = false ∧ (s.bay probe.bay).state = .probing then
    match answer with
    | some g => if sigValid g then s.mountCard probe.bay g else s.probeFails probe.bay
    | none => s.probeFails probe.bay
    else s)

/-- PROBE_TIMER_EXPIRY. A late one is dropped, also while a new probe runs (R31, R33; log 24). -/
def execProbeTimerExpiry (probe : ProbeEnd) (s : State) : Host.Outcome State Fault Refusal :=
  .next (if probe.late = false ∧ (s.bay probe.bay).state = .probing ∧ (s.bay probe.bay).probeTimer.isSome = true then
    s.probeFails probe.bay else s)

/-- A MOUNTED bay loses its card: the extents that it has of reads which the job manager holds no more are given back (R36, R37, R80;
log 18). -/
def State.losesCard (s : State) (b : Fin 8) (seated : Bool) : State :=
  (s.cardLost b seated).giveBackAll (s.bayGiven b (fun _ => true))

/-- A card leaves the slot, in every state of the bay (R34, R36; log 21). -/
def State.departure (s : State) (b : Fin 8) : State :=
  let t := s.setBay b { s.bay b with cardPresent := false }
  match (s.bay b).state with
  | .probing => t.cardGone b .probing
  | .faulted => t.cardGone b .faulted
  | .mounted => s.losesCard b false
  | .off => t
  | .empty => t

/-- CARD_LEAVES (R34, R36; log 21). -/
def execCardLeaves (bay : Fin 8) (s : State) : Host.Outcome State Fault Refusal :=
  .next ((s.arrive (.cardLeaves bay)).departure bay)

/-- CARD_LOSS: the loss of a mounted card, by its leaving or by its link (R36, R37). In another state a card that is not
seated has left, and a link loss is of no card (log 21). -/
def execCardLoss (bay : Fin 8) (seated : Bool) (s : State) : Host.Outcome State Fault Refusal :=
  .next (if (s.bay bay).state = .mounted then s.losesCard bay seated else if seated then s else s.departure bay)

/-- EJECT_BUTTON: an ENGAGED lock holds the card; a DISENGAGED one lets it leave the slot (R39, 2.7). A second press before the
first CARD_LEAVES has been taken, of which the spec says nothing, sends another one, which a card seated in between takes as its
own departure (DESIGN CHOICE; log 48). -/
def execEjectButton (bay : Fin 8) (s : State) : Host.Outcome State Fault Refusal :=
  .next (if (s.bay bay).lock = .disengaged ∧ (s.bay bay).cardPresent = true then s.send (.cardLeaves bay) else s)

/-! ## The bound job -/

/-- BAY_JOB_BOUND (R38, R40). -/
def execBayJobBound (bay : Fin 8) (job : Nat) (sig : CardSig) (state : JobState) (s : State) :
    Host.Outcome State Fault Refusal :=
  let t := s.arrive (.bayJobBound bay job sig state)
  .next (((t.setBay bay { t.bay bay with job := some ⟨job, sig, state⟩, lock := .engaged }).bayNotice bay
    .lockChange).lampSet bay)

/-- BAY_JOB_STATE (R38). -/
def execBayJobState (bay : Fin 8) (state : JobState) (s : State) : Host.Outcome State Fault Refusal :=
  let t := s.arrive (.bayJobState bay state)
  .next ((t.setBay bay { t.bay bay with job := (t.bay bay).job.map (fun j => { j with state := state }) }).lampSet bay)

/-- BAY_CLEAR_CHANGE (R38). CLEAR is false while no job is bound (2.1). -/
def execBayClearChange (bay : Fin 8) (value : Bool) (s : State) : Host.Outcome State Fault Refusal :=
  let t := s.arrive (.bayClearChange bay value)
  .next ((t.setBay bay { t.bay bay with clear := value && (t.bay bay).job.isSome }).lampSet bay)

/-- BAY_JOB_REMOVED (R38, R41). -/
def execBayJobRemoved (bay : Fin 8) (s : State) : Host.Outcome State Fault Refusal :=
  let t := s.arrive (.bayJobRemoved bay)
  .next (((t.setBay bay { t.bay bay with job := none, clear := false }).unlock bay).lampSet bay)

/-- BAY_RELEASE_ACCEPTED (R41). -/
def execBayReleaseAccepted (bay : Fin 8) (s : State) : Host.Outcome State Fault Refusal :=
  .next ((s.arrive (.bayReleaseAccepted bay)).unlock bay)

/-! ## Read work -/

/-- A bay takes read work: a READING clip, with no uncorrectable block counted yet, or a repair after those it has (R51,
R61). -/
def takeWork (x : Bay) (w : ReadWork) : Bay :=
  match w.item with
  | .clip _ => { x with reading := some w, uncorrectable := 0 }
  | .repair _ _ => { x with repairs := x.repairs ++ [w] }

/-- BAY_READ_WORK (R51, R52). -/
def execBayReadWork (bay : Fin 8) (work : ReadWork) (s : State) : Host.Outcome State Fault Refusal :=
  let t := s.arrive (.bayReadWork bay work)
  .next ((t.setBay bay (takeWork (t.bay bay) work)).grants)

/-- The lane that serves a work item and does not only wait for an acknowledgment (R55; log 17). -/
def State.laneFor (s : State) (b : Fin 8) (item : WorkItem) : Option (Fin 4) :=
  (List.finRange 4).find? (fun n => decide ((s.lane n).holder = some (.work b item)) && (s.lane n).ack.isNone)

/-- WORK_ITEM_ENDED: the item leaves the bay's read work, and the lane that serves it abandons its read and returns (R55,
R149, R159). What they have of the pool for it is given back where no discard is due (R80; log 18). -/
def execWorkItemEnded (bay : Fin 8) (item : WorkItem) (s : State) : Host.Outcome State Fault Refusal :=
  let t := s.arrive (.workItemEnded bay item)
  let u := (t.endWait bay item).loseWork bay item
  let v := u.setBay bay { u.bay bay with offered := (u.bay bay).offered.filter (fun i => decide (i ≠ item)) }
  let w := match v.laneFor bay item with
    | some n => v.returnLane n
    | none => v.grants
  .next (w.giveBackAll (t.bayGiven bay (fun i => decide (i = item)) ++ bayPlaces t.pool bay item))

/-- An offer for a read that the bay no longer has: the extent set aside for it is given back (R80, R83; log 18). -/
def State.offerLapses (s : State) (b : Fin 8) (c : ClaimId) : State :=
  match setAsideFor s.pool (.lane 0 b) c with
  | some i => s.giveBack (some (.bay b)) (.lane 0 b) c (some i)
  | none => s

/-- POOL_OFFER (R51, R83). -/
def execPoolOffer (bay : Fin 8) (claim : ClaimId) (s : State) : Host.Outcome State Fault Refusal :=
  let t := s.arrive (.poolOffer bay claim)
  let u := if (bayWork (t.bay bay) (itemOf claim)).isSome then t else t.offerLapses bay claim
  .next ((u.setBay bay { u.bay bay with waiting := false, offered := some (itemOf claim) }).grants)

/-! ## The health window -/

/-- A window expiry in a running monitor (R64, R65). It is taken as the current window's, also when a retry has pushed the ending
window's count over UP and so begun a new one, of which the rules say nothing (log 24). -/
def State.windowExpires (s : State) (b : Fin 8) : State :=
  let h := (s.bay b).health
  let again := s.setBay b { s.bay b with health := h.change h.mode }
  match h.mode with
  | .normal => again
  | .careful => if h.count ≤ h.lo then s.changeMode b .normal else again

/-- HEALTH_WINDOW_EXPIRY: no expiry is told from that of the current window (R63, R64, R65; log 24). -/
def execHealthWindowExpiry (bay : Fin 8) (s : State) : Host.Outcome State Fault Refusal :=
  .next (if (s.bay bay).health.running then s.windowExpires bay else s)

end Sys2Proof.Machine
end

