-- ==== Sys2Proof/Machine/Drives.lean ====
section
/-! DEFINITION. The meanings of the events of a drive link: DRIVE_CONNECTED to GRACE_TIMER_EXPIRY, WRITE_COMPLETION,
WRITE_FAILURE, VERIFY_CHUNK_READ, TRAILER_READ, SIBLING_CHUNK_READ (06, 07, 08). -/

namespace Sys2Proof.Machine

/-! ## The drive's coming and going -/

/-- DRIVE_CONNECTED (R97). -/
def execDriveConnected (port : Fin 4) (s : State) : Host.Outcome State Fault Refusal :=
  .next ((s.setPort port { s.port port with drivePresent := true }).maybeIdentify port)

/-- A valid identity is taken (R97, R111, R112). -/
def State.takeIdentity (s : State) (p : Fin 4) (d : DriveId) : State :=
  match (s.port p).state with
  | .detached =>
    (s.setPort p { s.port p with state := .attached, identity := some d, ident := none }).portNotice p (.attach (some d))
  | .lost => if (s.port p).identity = some d then s.driveReturns p else s.identFails p
  | _ => s.identFails p

/-- DRIVE_IDENTIFIED. An answer that no identification awaits is dropped, and so is a late one, of an identification that has
ended, also while a new one runs (R97, R111; log 24). -/
def execDriveIdentified (ident : IdentEnd) (answer : Option DriveId) (s : State) : Host.Outcome State Fault Refusal :=
  .next (if ident.late = false ∧ (s.port ident.port).ident.isSome = true then
    match answer.filter identityValid with
    | some d => s.takeIdentity ident.port d
    | none => s.identFails ident.port
    else s)

/-- IDENT_TIMER_EXPIRY. A late one is dropped, also while a new identification runs (R97, R111; log 24). -/
def execIdentTimerExpiry (ident : IdentEnd) (s : State) : Host.Outcome State Fault Refusal :=
  .next (if ident.late = false ∧ (s.port ident.port).ident.isSome = true then s.identFails ident.port else s)

/-- DRIVE_LOSS: the drive leaves the link, or stops answering while still connected. The extent that the verify engine of a READY port
has is given back where no discard is due (R80, R98, R109; log 18). -/
def execDriveLoss (port : Fin 4) (connected : Bool) (s : State) : Host.Outcome State Fault Refusal :=
  let x := s.port port
  let t := (s.setPort port { x with drivePresent := connected, unidentified := connected && x.unidentified }).driveLost port
  .next (t.giveBackAll (if x.state = .ready then s.engineGiven port else []))

/-- GRACE_TIMER_EXPIRY (R113). -/
def execGraceTimerExpiry (port : Fin 4) (s : State) : Host.Outcome State Fault Refusal :=
  .next (if (s.port port).state = .lost ∧ (s.port port).graceTimer.isSome = true then s.graceExpires port else s)

/-! ## Writes -/

/-- The end of a write that succeeded: the entry leaves the queue, the extent is released, the completion reported (R125,
R126). -/
def State.writeDone (s : State) (p : Fin 4) (e : WriteEntry) : State :=
  let t := s.setPort p { s.port p with writeQ := (s.port p).writeQ.tail, write := none }
  match e with
  | .extent i c _ _ => (t.send (.extentRelease p [(i, c)])).send (.extentWriteCompletion p c.clip c.purpose c.seq)
  | .trailer clip _ => t.send (.trailerWriteCompletion p clip)

/-- WRITE_COMPLETION. A late answer, one to a write that the port has abandoned, is dropped, whatever the port writes now
(R125, R126, R130; log 24). -/
def execWriteCompletion (answer : WriteAnswer) (s : State) : Host.Outcome State Fault Refusal :=
  .next (if answer.late then s
    else
      match (s.port answer.port).write, (s.port answer.port).writeQ with
      | some _, e :: _ => (s.writeDone answer.port e).runLink answer.port
      | _, _ => s)

/-- WRITE_FAILURE. A late one is dropped and adds nothing to the tally. At a fault the extent that the verify engine has is given back
where no discard is due (R80, R127 to R130; log 18, log 24). -/
def execWriteFailure (answer : WriteAnswer) (s : State) : Host.Outcome State Fault Refusal :=
  let p := answer.port
  .next (if answer.late then s
    else
      match (s.port p).write, (s.port p).writeQ with
      | some w, e :: _ =>
        if w.tries ≤ 1 then s.setPort p { s.port p with write := some { w with tries := 2 } }
        else (s.copyLost p (entryClip e)).giveBackAll
          (if Config.faultTally ≤ (s.port p).tally + 1 then s.engineGiven p else [])
      | _, _ => s)

/-! ## Verify-side reads -/

/-- The data of a drive read that succeeded: every byte of its blocks; a short answer counts as an error (log 23). -/
def readData (s : State) (p : Fin 4) (r : DriveRead) (answer : Option (List Byte)) : Option (List Byte) :=
  match (s.port p).area with
  | none => none
  | some a => answer.filter (fun d => decide (d.length = r.count * a.blockSize))

/-- A read answered with an error is made once more at the same place (R138, R139, R145). -/
def State.retryRead (s : State) (p : Fin 4) (r : DriveRead) : State :=
  s.setPort p { s.port p with read := some { r with retried := true } }

/-- A data chunk is read: it fills a chunk buffer, from which the digest unit takes the clip's bytes; at the last byte the
digest is reported (R93, R138; log 25). -/
def State.chunkRead (s : State) (p : Fin 4) (e : VerifyEntry) (data : List Byte) : State :=
  let g := (s.port p).engine
  let d := digestFeed (g.unit.getD digestInitial) (data.take (extentLength e.length g.chunk))
  let t := s.setPort p { s.port p with read := none, engine := { g with unit := some d, chunk := g.chunk + 1 } }
  (if extentCount e.length ≤ g.chunk + 1 then t.send (.verifyDigestReport p e.clip (some (digestFinal d))) else t).runLink p

/-- The data cannot be read: reported in place of a digest, and the engine goes on to the trailer (R138). -/
def State.chunkUnreadable (s : State) (p : Fin 4) (e : VerifyEntry) : State :=
  ((s.setPort p { s.port p with read := none, engine := { (s.port p).engine with unreadable := true } }).send
    (.verifyDigestReport p e.clip none)).runLink p

/-- VERIFY_CHUNK_READ (R138). An answer to a read that is not in progress is dropped (log 24). -/
def execVerifyChunkRead (port : Fin 4) (answer : Option (List Byte)) (s : State) : Host.Outcome State Fault Refusal :=
  .next (match (s.port port).read, (s.port port).verifyQ with
    | some r, e :: _ =>
      if r.kind = .data then
        match readData s port r answer with
        | some d => s.chunkRead port e d
        | none => if r.retried then s.chunkUnreadable port e else s.retryRead port r
      else s
    | _, _ => s)

/-- The verify's end: the entry leaves the queue, the completion is reported, the engine is IDLE (R139). -/
def State.verifyDone (s : State) (p : Fin 4) (e : VerifyEntry) (passed : Bool) : State :=
  ((s.entryEnds p).send (.verifyCompletion p e.clip passed)).runLink p

/-- TRAILER_READ (R139). -/
def execTrailerRead (port : Fin 4) (answer : Option (List Byte)) (s : State) : Host.Outcome State Fault Refusal :=
  .next (match (s.port port).read, (s.port port).verifyQ with
    | some r, e :: _ =>
      if r.kind = .trailer then
        match readData s port r answer with
        | some d => s.verifyDone port e (trailerPasses e d)
        | none => if r.retried then s.verifyDone port e false else s.retryRead port r
      else s
    | _, _ => s)

/-- An extent's worth of a sibling run is read: placed in the extent and fed to the unit; an extent that is not the last is
reported complete, at the last one the read's completion is reported (R145). -/
def State.siblingRead (s : State) (p : Fin 4) (e : VerifyEntry) (rp : Fin 4) (i : Nat) (data : List Byte) : State :=
  let g := (s.port p).engine
  let c : ClaimId := ⟨e.clip, .repair, some rp, g.chunk⟩
  let bytes := data.take (extentLength e.length g.chunk)
  let d := digestFeed (g.unit.getD digestInitial) bytes
  let t := s.place i c 0 bytes
  if extentCount e.length ≤ g.chunk + 1 then
    ((t.setPort p { s.port p with read := none, engine := { g with unit := some d, ack := true } }).send
      (.siblingReadCompletion p e.clip rp (some (digestFinal d)))).runLink p
  else
    ((t.setPort p { s.port p with
      read := none, engine := { g with unit := some d, extent := none, chunk := g.chunk + 1 } }).send
      (.extentComplete i c bytes.length)).runLink p

/-- A sibling read ends by a drive error: the completion reports no value (R145). -/
def State.siblingUnreadable (s : State) (p : Fin 4) (e : VerifyEntry) (rp : Fin 4) : State :=
  ((s.setPort p { s.port p with
    read := none, engine := { (s.port p).engine with ack := true, noValue := true } }).send
    (.siblingReadCompletion p e.clip rp none)).runLink p

/-- SIBLING_CHUNK_READ (R145). -/
def execSiblingChunkRead (port : Fin 4) (answer : Option (List Byte)) (s : State) : Host.Outcome State Fault Refusal :=
  .next (match (s.port port).read, (s.port port).verifyQ with
    | some r, e :: _ =>
      match e.repairPort, (s.port port).engine.extent with
      | some rp, some i =>
        if r.kind = .sibling then
          match readData s port r answer with
          | some d => s.siblingRead port e rp i d
          | none => if r.retried then s.siblingUnreadable port e rp else s.retryRead port r
        else s
      | _, _ => s
    | _, _ => s)

end Sys2Proof.Machine
end

