-- ==== Sys2Proof/Machine/Jobs.lean ====
section
/-! DEFINITION. The meanings of the job and clip requests: JOB_OPEN, CLIP_ADD, JOB_SEAL, JOB_STOP, CLIP_CANCEL,
CARD_RELEASE, JOB_RETIRE (01, 09). -/

namespace Sys2Proof.Machine

/-- A number from 1 to n. -/
def inRange (n v : Nat) : Bool := decide (1 ≤ v) && decide (v ≤ n)

/-- The record of a job opened (R1). -/
def newJob (id : Nat) (b : Fin 8) (g : CardSig) (es : List CopyEntry) (v : VerifyMode) (d : DamagePolicy) : Job :=
  ⟨id, b, g, es, v, d, .opened, none, [], false, ⟨0, 0, 0, 0⟩⟩

/-- The job is created, the bay told, CLEAR evaluated (R1, R25). -/
def State.openJob (s : State) (j : Job) : State :=
  ((({ s with jm := { s.jm with jobs := s.jm.jobs ++ [j] } } : State).send
    (.bayJobBound j.bay j.id j.sig j.state))).evalClear j.bay

/-- JOB_OPEN (R1). -/
def execJobOpen (tag job bay verify damage count : Nat) (slots : List CopySlot) (s : State) :
    Host.Outcome State Fault Refusal :=
  let t := s.arrive (.jobOpen tag job bay verify damage count slots)
  .next (match indexOf 8 bay, copySetOf count slots, verifyOf verify, policyOf damage, inRange 8 job with
    | some b, some es, some v, some d, true =>
      if (t.job? job).isSome = true ∨ (t.jobOf b).isSome = true then t.refuse kindJobOpen tag .busy
      else
        match (t.view b).sig with
        | none => t.refuse kindJobOpen tag .wrongState
        | some g => (t.openJob (newJob job b g es v d)).answer kindJobOpen tag .done .codeAlone
    | _, _, _, _, _ => t.refuse kindJobOpen tag .badArg)

/-- The value after a clip id: 65535 is followed by 1 (R7). -/
def stepId (i : Nat) : Nat := if Config.maxClipId ≤ i then 1 else i + 1

/-- The first free id from a value on, looking at k ids at most before the last (R7). -/
def freeIdFrom (used : List Nat) : Nat → Nat → Nat
  | 0, i => i
  | k + 1, i => if used.contains i then freeIdFrom used k (stepId i) else i

/-- The id that CLIP_ADD assigns (R7). -/
def freeId (m : JobManager) : Nat := freeIdFrom (m.clips.map Clip.id) m.clips.length m.nextId

/-- A copy as it is created (R10). -/
def newCopy (e : CopyEntry) : Copy := ⟨e.port, e.required, .pending, none, 1, none, none, none⟩

/-- A clip as it is created (R7). -/
def newClip (id : Nat) (j : Job) (label : List Byte) (length : Nat) (runs : List Run) (expected : Option Digest) : Clip :=
  ⟨id, j.id, label, length, runs, expected, none, none, 0, 0, false, [], .queued, none, none, j.copySet.map newCopy⟩

/-- Step 3 of R5, with the presence byte of R178. -/
def clipArgsBad (j : Job) (label : List Byte) (length : Nat) (runs : List Run) (flag : Nat) : Bool :=
  decide (label = []) || decide (48 < label.length) || decide (Config.maxClipBytes < length) ||
    decide (16 < runs.length) || !runsValid length j.sig.capacity runs || (flagOf flag).isNone

/-- The clip is created at the tail of its job's list, and the counter moves on (R7). -/
def State.addClip (s : State) (c : Clip) : State :=
  (({ s with jm := { s.jm with clips := s.jm.clips ++ [c], nextId := stepId c.id } } : State).modJob c.job
    (fun j => { j with clips := j.clips ++ [c.id] }))

/-- CLIP_ADD (R5, R6, R7, R13). -/
def execClipAdd (tag job : Nat) (label : List Byte) (length : Nat) (runs : List Run) (expectFlag : Nat) (expect : Digest)
    (s : State) : Host.Outcome State Fault Refusal :=
  let t := s.arrive (.clipAdd tag job label length runs expectFlag expect)
  .next (match t.job? job with
    | none => t.refuse kindClipAdd tag .noSuch
    | some j =>
      if j.state ≠ .opened then t.refuse kindClipAdd tag .wrongState
      else if clipArgsBad j label length runs expectFlag then t.refuse kindClipAdd tag .badArg
      else if Config.nClips ≤ t.jm.clips.length then t.refuse kindClipAdd tag .noRoom
      else
        ((t.addClip (newClip (freeId t.jm) j label length runs (if expectFlag = 1 then some expect else none))
          ).admissionPoint j.bay).answer kindClipAdd tag .done (.clipAdd (freeId t.jm)))

/-- The state of a job after a request. -/
def State.stateOf (s : State) (j : Job) : JobState :=
  match s.job? j.id with
  | some k => k.state
  | none => j.state

/-- An OPEN job is sealed: DONE when every clip is terminal (R2, R3, R153). -/
def State.sealJob (s : State) (j : Job) : State :=
  if s.allTerminal j then s.setJobState j.id .done j.stop else s.setJobState j.id .sealed j.stop

/-- JOB_SEAL (R153). -/
def execJobSeal (tag job : Nat) (s : State) : Host.Outcome State Fault Refusal :=
  let t := s.arrive (.jobSeal tag job)
  .next (match t.job? job with
    | none => t.refuse kindJobSeal tag .noSuch
    | some j =>
      match j.state with
      | .stopping | .stopped => t.refuse kindJobSeal tag .wrongState
      | .sealed | .done => t.answer kindJobSeal tag .done (.jobState j.state)
      | .opened => (t.sealJob j).answer kindJobSeal tag .done (.jobState ((t.sealJob j).stateOf j)))

/-- A DRAIN (R155). -/
def State.drainJob (s : State) (j : Job) : State :=
  match j.state with
  | .opened | .sealed =>
    let t := s.cancelAll j
    if t.allTerminal j then t.setJobState j.id .stopped (some .drain) else t.setJobState j.id .stopping (some .drain)
  | _ => s

/-- A stop taken by its mode (R155, R161). -/
def State.stopJob (s : State) (j : Job) (m : StopMode) : State :=
  match m with
  | .drain => s.drainJob j
  | .cut => s.cutJob j

/-- The counts of a job after a request. -/
def State.countsOf (s : State) (j : Job) : Counts :=
  match s.job? j.id with
  | some k => k.counts
  | none => j.counts

/-- JOB_STOP (R154, R155, R161). -/
def execJobStop (tag job mode : Nat) (s : State) : Host.Outcome State Fault Refusal :=
  let t := s.arrive (.jobStop tag job mode)
  .next (match stopOf mode with
    | none => t.refuse kindJobStop tag .badArg
    | some m =>
      match t.job? job with
      | none => t.refuse kindJobStop tag .noSuch
      | some j =>
        if jobEnded j then t.refuse kindJobStop tag .wrongState
        else
          (t.stopJob j m).answer kindJobStop tag .done
            (.jobStop ((t.stopJob j m).stateOf j) ((t.stopJob j m).countsOf j)))

/-- One clip cancelled or cut, the job tested, and the admission points that follow (R157 to R159, R162). -/
def State.cancelClip (s : State) (c : Clip) : State :=
  if clipWaits c then (s.cancelWaiting c).testJob c.job
  else
    let t := (s.cutClip c).testJob c.job
    (if c.state = .reading then t.jobPoint c.job else t).afterRepairs s

/-- CLIP_CANCEL (R162). -/
def execClipCancel (tag clip : Nat) (s : State) : Host.Outcome State Fault Refusal :=
  let t := s.arrive (.clipCancel tag clip)
  .next (if inRange Config.maxClipId clip then
    match t.clip? clip with
    | none => t.refuse kindClipCancel tag .noSuch
    | some c =>
      if clipTerminal c then t.refuse kindClipCancel tag .wrongState
      else (t.cancelClip c).answer kindClipCancel tag .done (.clipCancel .cancelled)
    else t.refuse kindClipCancel tag .badArg)

/-- A forced release: the cut of a job that still runs, the flag, the word to the bay (R164). -/
def State.forceRelease (s : State) (j : Job) : State :=
  let t := if jobEnded j then s else s.cutJob j
  (t.modJob j.id (fun k => { k with forced := true })).send (.bayReleaseAccepted j.bay)

/-- CARD_RELEASE (R163, R164). -/
def execCardRelease (tag bay force : Nat) (s : State) : Host.Outcome State Fault Refusal :=
  let t := s.arrive (.cardRelease tag bay force)
  .next (match indexOf 8 bay, flagOf force with
    | some b, some f =>
      match t.jobOf b with
      | none => t.refuse kindCardRelease tag .wrongState
      | some j =>
        if f then (t.forceRelease j).answer kindCardRelease tag .done (.release ((t.forceRelease j).stateOf j) true)
        else if t.clearOf b then
          (t.send (.bayReleaseAccepted b)).answer kindCardRelease tag .done (.release j.state j.forced)
        else t.refuse kindCardRelease tag .notSafe
    | _, _ => t.refuse kindCardRelease tag .badArg)

/-- The records of a job and of its clips are removed, the bay is told, CLEAR becomes false (R26). -/
def State.retireJob (s : State) (j : Job) : State :=
  (({ s with jm := { s.jm with
      jobs := s.jm.jobs.filter (fun k => k.id != j.id)
      clips := s.jm.clips.filter (fun c => !j.clips.contains c.id) } } : State).send (.bayJobRemoved j.bay)).evalClear j.bay

/-- JOB_RETIRE (R26, R165). -/
def execJobRetire (tag job : Nat) (s : State) : Host.Outcome State Fault Refusal :=
  let t := s.arrive (.jobRetire tag job)
  .next (match t.job? job with
    | none => t.refuse kindJobRetire tag .noSuch
    | some j =>
      if jobEnded j then
        (t.retireJob j).answer kindJobRetire tag .done (.retire j.id j.bay j.state j.stop j.forced j.counts)
      else t.refuse kindJobRetire tag .wrongState)

end Sys2Proof.Machine
end

