-- ==== Sys2Proof/Machine/Lanes.lean ====
section
/-! DEFINITION. The meanings of the commands a lane takes, and of the two that a lane or a verify engine takes:
BLOCK_READ_ATTEMPT, READ_COMPLETION_ACK, CLAIM_ANSWER, WAIT_REMOVED (3.2 to 3.4, 4.4, 8.1). -/

namespace Sys2Proof.Machine

/-- The data of a successful attempt: a whole block; a short answer counts as an error (log 23). -/
def blockData (answer : Option (List Byte)) : Option (List Byte) :=
  answer.filter (fun d => decide (d.length = Config.blockBytes))

/-- A clip read ends by media failure. The extent in hand is given back where the job manager holds the read no more (R23, R61, R80;
log 18). -/
def State.mediaEnds (s : State) (n : Fin 4) (b : Fin 8) (clip : Nat) : State :=
  (((s.loseWork b (.clip clip)).send (.mediaFailure clip)).returnLane n).giveBackAll (laneGiven n (s.lane n))

/-- A block of a clip read is uncorrectable (R61). -/
def State.clipUncorrectable (s : State) (n : Fin 4) (b : Fin 8) (w : ReadWork) (clip count : Nat) : State :=
  match w.policy with
  | .abort => s.mediaEnds n b clip
  | .salvage =>
    let t := s.setBay b { s.bay b with uncorrectable := (s.bay b).uncorrectable + 1 }
    if Config.maxDamage < (s.bay b).uncorrectable + 1 then t.mediaEnds n b clip
    else (t.send (.blockSubstitution clip (nextBlock w count))).takeBlock n zeroBlock

/-- A block of a bay's work is uncorrectable (R61, R62, R80; log 18). -/
def State.workUncorrectable (s : State) (n : Fin 4) (b : Fin 8) (w : ReadWork) (count : Nat) : State :=
  match w.item with
  | .clip c => s.clipUncorrectable n b w c count
  | .repair c p =>
    (((s.loseWork b (.repair c p)).send (.repairSourceFailure c p)).returnLane n).giveBackAll (laneGiven n (s.lane n))

/-- A failed attempt of a bay's work (R60 to R62). -/
def State.workFailed (s : State) (n : Fin 4) (b : Fin 8) (w : ReadWork) (count : Nat) : State :=
  match s.judgeFailure b with
  | (t, .again) => t
  | (t, .uncorrectable) => t.workUncorrectable n b w count

/-- An attempt for a bay's work (R54, R60). -/
def State.workAttempt (s : State) (n : Fin 4) (b : Fin 8) (w : ReadWork) (count : Nat) (answer : Option (List Byte)) :
    State :=
  match blockData answer with
  | some d => s.takeBlock n d
  | none => s.workFailed n b w count

/-- An attempt for a host card read (R58, R60). -/
def State.hostAttempt (s : State) (n : Fin 4) (r : HostRead) (answer : Option (List Byte)) : State :=
  match blockData answer with
  | some d => s.hostBlock n r d
  | none => s.hostFailed n r

/-- BLOCK_READ_ATTEMPT: the end of the attempt that the lane has in flight. An answer to a lane with none in flight, FREE
or between extents, belongs to a read abandoned and is dropped (R54, R60 to R62; log 24). -/
def execBlockReadAttempt (lane : Fin 4) (answer : Option (List Byte)) (s : State) : Host.Outcome State Fault Refusal :=
  .next (match (s.lane lane).holder with
    | none => s
    | some (.host r) => s.hostAttempt lane r answer
    | some (.work b item) =>
      match (s.lane lane).extent, (s.lane lane).unit, bayWork (s.bay b) item with
      | some _, some d, some w => (s.workAttempt lane b w d.count answer).skipZeros lane
      | _, _, _ => s)

/-- READ_COMPLETION_ACK (R56). -/
def execReadCompletionAck (lane : Fin 4) (item : WorkItem) (s : State) : Host.Outcome State Fault Refusal :=
  let t := s.arrive (.readCompletionAck lane item)
  .next (match (t.lane lane).holder, (t.lane lane).ack with
    | some (.work _ i), some a =>
      if i = item then (t.send (.extentComplete a.index a.claim a.bytes)).returnLane lane else t
    | _, _ => t)

/-- A lane's claim is granted: it fills the extent (R54). -/
def State.claimGranted (s : State) (n : Fin 4) (b : Fin 8) (i : Nat) : State :=
  ((s.setBay b { s.bay b with fails := 0 }).setLane n { s.lane n with claim := none, extent := some i }).skipZeros n

/-- A lane's claim is answered "wait": the state handed on, the lane returned, the bay waiting, unless its offer has been
taken already (R55, R57; log 35). A WAIT_REMOVED that the bay has taken already, of which R85 says nothing, leaves this as it is:
the bay waits, with no request left at the pool manager (DESIGN CHOICE; log 54). -/
def State.claimWaits (s : State) (n : Fin 4) (b : Fin 8) (item : WorkItem) (d : DigestState) : State :=
  let t := (s.send (.burstEndReport item d)).setLane n Lane.reset
  (t.setBay b { t.bay b with waiting := decide ((t.bay b).offered ≠ some item) }).grants

/-- A lane takes the answer to its claim. An answer is the abandoned claim's while one of that identity still has its answer to
come, since the answers come in the order of the claims; what an answer that the lane does not await has given is given back (R57,
R80; log 18, log 44). -/
def State.laneAnswer (s : State) (n : Fin 4) (b : Fin 8) (c : ClaimId) (index : Option Nat) : State :=
  if ⟨.lane n b, c⟩ ∈ s.arb.unawaited then (s.setUnawaited (s.arb.unawaited.erase ⟨.lane n b, c⟩)).giveBack none (.lane n b) c index
  else
    match (s.lane n).holder, (s.lane n).unit with
    | some (.work b' item), some d =>
      if b' = b ∧ (s.lane n).claim = some c then
        match index with
        | some i => s.claimGranted n b i
        | none => s.claimWaits n b item d
      else s.giveBack none (.lane n b) c index
    | _, _ => s.giveBack none (.lane n b) c index

/-- The answer to a claim that a verify engine has abandoned has come. -/
def State.engineAnswerCame (s : State) (p : Fin 4) (c : ClaimId) : State :=
  s.setPort p { s.port p with unawaited := (s.port p).unawaited.erase c }

/-- A verify engine takes the answer to its claim: it reads into the extent, which counts as its chunk, or is WAITING. An answer is
the abandoned claim's while one of that identity still has its answer to come; what an answer that the engine does not await has
given is given back (R80, R136, R137, R145; log 18, log 26, log 44). -/
def State.engineAnswer (s : State) (p : Fin 4) (c : ClaimId) (index : Option Nat) : State :=
  if c ∈ (s.port p).unawaited then (s.engineAnswerCame p c).giveBack none (.engine p) c index
  else if (s.port p).engine.claim = some c then
    match index with
    | some i =>
      let t := s.setPort p { s.port p with
        share := shareAlone (s.port p).share .verify, engine := { (s.port p).engine with claim := none, extent := some i } }
      match (s.port p).verifyQ with
      | e :: _ => t.nextChunk p e
      | [] => t
    | none =>
      (s.setPort p { s.port p with engine := { (s.port p).engine with claim := none, state := .waiting } }).runLink p
  else s.giveBack none (.engine p) c index

/-- CLAIM_ANSWER (R57, R71, R145). -/
def execClaimAnswer (requester : Requester) (claim : ClaimId) (index : Option Nat) (s : State) :
    Host.Outcome State Fault Refusal :=
  let t := s.arrive (.claimAnswer requester claim index)
  .next (match requester with
    | .lane n b => t.laneAnswer n b claim index
    | .engine p => t.engineAnswer p claim index)

/-- A verify entry is the sibling entry that a claim is for. -/
def entryClaims (c : ClaimId) (e : VerifyEntry) : Bool := e.clip == c.clip && decide (e.repairPort = c.repairPort)

/-- A WAITING engine is told that its read is abandoned: the entry is gone and the engine IDLE (R85, R136). -/
def State.engineWaitGone (s : State) (p : Fin 4) (c : ClaimId) : State :=
  if (s.port p).engine.state = .waiting ∧ (s.port p).verifyQ.head?.any (entryClaims c) = true then
    (s.entryEnds p).runLink p
  else s

/-- WAIT_REMOVED (R85). A bay that takes it before its lane takes the answer "wait" is set waiting by that answer (DESIGN CHOICE; log
54). -/
def execWaitRemoved (requester : Requester) (claim : ClaimId) (s : State) : Host.Outcome State Fault Refusal :=
  let t := s.arrive (.waitRemoved requester claim)
  .next (match requester with
    | .lane _ b => (t.setBay b { t.bay b with waiting := false }).grants
    | .engine p => t.engineWaitGone p claim)

end Sys2Proof.Machine
end

