-- ==== Sys2Proof/Machine/Link.lean ====
section
/-! DEFINITION. The meanings of the power, link and reset commands: POWER_ON, LINK_RESET, LINK_UP, RECEIVE_FRAME,
SEND_FRAME, NOTICE_QUEUED, IDENT, RESET (10_the_control_link.md, 9.1, and each chapter's reset rule). -/

namespace Sys2Proof.Machine

/-! ## Power-on -/

/-- A bay at power-on: R45 with the presence sense it reads. -/
def powerBay (x : Bay) : Bay :=
  if x.cardPresent then { Bay.reset with state := .probing, cardPresent := true, probeTimer := some Config.probeSeconds }
  else Bay.reset

/-- A port at power-on: R117 with the presence sense it reads, identifying the drive it finds. -/
def powerPort (x : Port) : Port :=
  if x.drivePresent then { Port.reset with drivePresent := true, ident := some Config.identSeconds } else Port.reset

/-- The insert notices of the probes started at power-on (R45). -/
def powerNotices (s : State) : List Instr :=
  ((List.finRange 8).filter (fun b => (s.bay b).cardPresent)).map (fun b =>
    .noticeQueued (.bay b .insert .probing .disengaged))

/-- POWER_ON: every block takes its power-on state (R4, R27, R45, R68, R69, R87, R95, R117, R134, R151, R177; log 4). -/
def execPowerOn (s : State) : Host.Outcome State Fault Refusal :=
  .next { State.reset with
    bays := s.bays.map powerBay
    ports := s.ports.map powerPort
    lki := { LinkIf.reset with sent := s.lki.sent }
    wire := powerNotices s
    fresh := s.fresh
    pending := s.pending }

/-! ## The link -/

/-- The link interface at a link reset (R176). -/
def linkDown (l : LinkIf) : LinkIf :=
  { l with
    up := false, receive := [], inHand := l.inHand.map (fun h => { h with orphan := true }), reads := [], ready := [],
    notices := [], droppedMark := l.droppedMark || !l.notices.isEmpty, inWaiting := 0 }

/-- The arbiter at a link reset: the host card reads' lanes returned, the request list emptied (R68). -/
def arbLinkReset (a : Arbiter) : Arbiter := { a with requests := [], lanes := a.lanes.map abortHost }

/-- LINK_RESET (R47, R68, R119, R176). -/
def execLinkReset (s : State) : Host.Outcome State Fault Refusal :=
  .next (({ s with lki := linkDown s.lki, arb := arbLinkReset s.arb } : State).grants)

/-- LINK_UP (R176). -/
def execLinkUp (s : State) : Host.Outcome State Fault Refusal :=
  .next (({ s with lki := { s.lki with up := true } } : State).linkSettle)

/-- RECEIVE_FRAME: a transfer from the host. While the link is DOWN none arrives (R166, R167, R176; log 10). -/
def execReceiveFrame (transfer : List Byte) (s : State) : Host.Outcome State Fault Refusal :=
  .next (if s.lki.up then
    ({ s with lki := { s.lki with receive := s.lki.receive ++ [transfer] } } : State).linkSettle else s)

/-- SEND_FRAME: the host asks for a transfer, which waits while there is nothing to send (R175; log 10). -/
def execSendFrame (s : State) : Host.Outcome State Fault Refusal :=
  .next (if s.lki.up then ({ s with lki := { s.lki with inWaiting := s.lki.inWaiting + 1 } } : State).linkSettle else s)

/-- The link interface takes a notice (R174). -/
def takeNotice (l : LinkIf) (n : Notice) : LinkIf :=
  if l.up = true ∧ l.notices.length < Config.noticeCapacity then
    { l with notices := l.notices ++ [⟨n, l.droppedMark⟩], droppedMark := false }
  else { l with droppedMark := true }

/-- NOTICE_QUEUED (R174). -/
def execNoticeQueued (notice : Notice) (s : State) : Host.Outcome State Fault Refusal :=
  let t := s.arrive (.noticeQueued notice)
  .next (({ t with lki := takeNotice t.lki notice } : State).linkSettle)

/-- What IDENT reports (R169). -/
def identInfo (freshStart : Bool) : IdentInfo :=
  ⟨"Torzel", "Ezorant OC-84", 1, 8, 4, 1024, 1024, freshStart⟩

/-- IDENT (R169). -/
def execIdent (tag : Nat) (s : State) : Host.Outcome State Fault Refusal :=
  let t := s.arrive (.ident tag)
  .next (({ t with lki := { t.lki with freshStart := false } } : State).answer kindIdent tag .done
    (.ident (identInfo t.lki.freshStart)))

/-! ## The soft reset -/

/-- A bay at a soft reset (R46, R69). -/
def softBay (x : Bay) : Bay :=
  { x with
    job := none, clear := false, lock := .disengaged, lamp := .unlit,
    health := if x.state = .mounted then x.health.start else x.health,
    reading := none, repairs := [], waiting := false, offered := none, fails := 0, uncorrectable := 0 }

/-- The arbiter at a soft reset (R68). -/
def softArb (a : Arbiter) : Arbiter := { a with requests := [], pointer := 7, lanes := Vector.replicate 4 Lane.reset, unawaited := [] }

/-- The pool at a soft reset (R87; log 6). -/
def softPool (p : Pool) : Pool := { p with extents := [], waits := [] }

/-- A port at a soft reset (R118, R151). -/
def softPort (x : Port) : Port :=
  { emptyQueues x with holds := [], openPl := [], share := ⟨.write, 0⟩, unawaited := [] }

/-- The job manager at a soft reset (R4, R27). -/
def softJobs (m : JobManager) : JobManager :=
  { jobs := [], clips := [], nextId := 1, views := m.views.map (fun v => { BayView.reset with sig := v.sig }), late := [] }

/-- The link interface at a soft reset (R172). -/
def softLink (l : LinkIf) : LinkIf :=
  { l with
    reads := [], ready := l.ready.filter (fun r => r.read.isNone), notices := [], droppedMark := false,
    freshStart := true }

/-- The messages in transit that a soft reset leaves: requests, events outside, and the reports of bays and ports that name
no clip; the others name what is gone and would be dropped, or are notices (R152, R172; log 20). -/
def survivesReset : Instr → Bool
  | .noticeQueued _ | .bayJobBound .. | .bayJobState .. | .bayClearChange .. | .bayJobRemoved _
  | .bayReleaseAccepted _ | .bayReadWork .. | .readCompletionAck .. | .extentClaim .. | .extentComplete ..
  | .pendingSetQuestion .. | .pendingSetAnswer .. | .extentRelease .. | .clipDiscard _ | .repairDiscard ..
  | .poolOffer .. | .siblingOffer .. | .waitRemoved .. | .burstEndReport .. | .blockSubstitution ..
  | .readCompletion .. | .mediaFailure _ | .repairReadCompletion .. | .repairSourceFailure .. | .holdAnswer ..
  | .confirmationAnswer .. | .extentWriteCompletion .. | .trailerWriteCompletion .. | .writeFailureReport ..
  | .verifyStart .. | .verifyDigestReport .. | .verifyCompletion .. | .siblingReadCompletion ..
  | .siblingCompletionAck .. | .roomFreedReport .. | .holdEnquiry .. | .holdConfirmation .. | .holdWithdrawal ..
  | .placementClose .. | .runAbandonment .. | .extentAppend .. | .trailerAppend .. | .extentRemoval ..
  | .trailerRemoval .. | .verifyAppend .. | .siblingAppend .. | .verifyRemoval .. | .siblingCancel ..
  | .claimAnswer .. | .workItemEnded .. => false
  | _ => true

/-- Every block takes the soft reset (R152). -/
def State.softReset (s : State) : State :=
  { s with
    bays := s.bays.map softBay
    arb := softArb s.arb
    pool := softPool s.pool
    ports := s.ports.map softPort
    jm := softJobs s.jm
    lki := softLink s.lki
    wire := s.wire.filter survivesReset }

/-- RESET (R152, R172). -/
def execReset (tag : Nat) (s : State) : Host.Outcome State Fault Refusal :=
  .next (((s.arrive (.reset tag)).softReset).answer kindReset tag .done .codeAlone)

end Sys2Proof.Machine
end

