-- ==== Sys2Proof/Machine/Pool.lean ====
section
/-! DEFINITION. The meanings of the messages the pool manager takes: EXTENT_CLAIM, EXTENT_COMPLETE, PENDING_SET_ANSWER,
EXTENT_RELEASE, CLIP_DISCARD, REPAIR_DISCARD (04_the_staging_pool.md). -/

namespace Sys2Proof.Machine

/-- A set-aside extent is taken up by the claim it was set aside for (R71). -/
def clearAside (p : Pool) (i : Nat) : Pool :=
  match extentAt p i with
  | some e => { p with extents := putExtent p.extents i { e with aside := none } }
  | none => p

/-- The answer to a claim (R71, R81). -/
def State.answerClaim (s : State) (r : Requester) (c : ClaimId) : State :=
  match setAsideFor s.pool r c with
  | some i => ({ s with pool := clearAside s.pool i } : State).send (.claimAnswer r c (some i))
  | none =>
    match (if belowWindow s.pool c.clip then lowestFree s.pool else none) with
    | some i => ({ s with pool := poolClaim s.pool i c none } : State).send (.claimAnswer r c (some i))
    | none =>
      ({ s with pool := { s.pool with waits := s.pool.waits ++ [⟨r, c⟩] } } : State).send (.claimAnswer r c none)

/-- EXTENT_CLAIM (R71, R72, R81). -/
def execExtentClaim (requester : Requester) (claim : ClaimId) (s : State) : Host.Outcome State Fault Refusal :=
  .next ((s.arrive (.extentClaim requester claim)).answerClaim requester claim)

/-- EXTENT_COMPLETE (R73, R74). -/
def execExtentComplete (index : Nat) (claim : ClaimId) (bytes : Nat) (s : State) : Host.Outcome State Fault Refusal :=
  let t := s.arrive (.extentComplete index claim bytes)
  .next (if fillingWith t.pool index claim then
    ({ t with pool := { t.pool with
        extents := putExtent t.pool.extents index ⟨.full, claim, bytes, none, none⟩ } } : State).send
      (.pendingSetQuestion index claim)
    else t)

/-- The appends of a new pending set, in port order (R75). -/
def appendMessages (i : Nat) (e : Extent) (ports : List (Fin 4)) : List Instr :=
  ports.map (fun p => .extentAppend p i e.claim e.bytes)

/-- A pending set, each port at most once, in port order (R70, R75). -/
def pendingSet (ports : List (Fin 4)) : List (Fin 4) := (List.finRange 4).filter (fun p => ports.contains p)

/-- The pending set of a FULL extent set, or the extent freed when it is empty (R74, R75, R77). -/
def State.setPending (s : State) (i : Nat) (e : Extent) (ports : List (Fin 4)) : State :=
  if ports = [] then
    ({ s with pool := { s.pool with extents := dropExtent s.pool.extents i } } : State).offerRound
  else
    ({ s with pool := { s.pool with extents := putExtent s.pool.extents i { e with pending := some ports } } } : State
      ).sendAll (appendMessages i e ports)

/-- PENDING_SET_ANSWER (R74). -/
def execPendingSetAnswer (index : Nat) (claim : ClaimId) (ports : List (Fin 4)) (s : State) :
    Host.Outcome State Fault Refusal :=
  let t := s.arrive (.pendingSetAnswer index claim ports)
  .next (match extentAt t.pool index with
    | some e =>
      if e.state = .full ∧ e.claim = claim ∧ e.pending = none then t.setPending index e (pendingSet ports) else t
    | none => t)

/-- EXTENT_RELEASE (R76, R77). -/
def execExtentRelease (port : Fin 4) (extents : List (Nat × ClaimId)) (s : State) : Host.Outcome State Fault Refusal :=
  let t := s.arrive (.extentRelease port extents)
  .next (({ t with pool := extents.foldl (releaseOne port) t.pool } : State).offerRound)

/-- CLIP_DISCARD (R78). -/
def execClipDiscard (clip : Nat) (s : State) : Host.Outcome State Fault Refusal :=
  .next ((s.arrive (.clipDiscard clip)).discard (ofClip clip))

/-- REPAIR_DISCARD (R79). -/
def execRepairDiscard (clip : Nat) (port : Fin 4) (s : State) : Host.Outcome State Fault Refusal :=
  .next ((s.arrive (.repairDiscard clip port)).discard (ofRepair clip port))

end Sys2Proof.Machine
end

