-- ==== Sys2Proof/Machine/Ports.lean ====
section
/-! DEFINITION. The meanings of the messages a port takes from the job manager and the pool manager: HOLD_ENQUIRY to
RUN_ABANDONMENT, the appends and removals, SIBLING_OFFER, SIBLING_COMPLETION_ACK (06, 07, 08). -/

namespace Sys2Proof.Machine

/-! ## Holds and placements -/

/-- An entry that is not void is marked as having refused room (R104). -/
def markHold (h : Hold) : Hold := if h.void.isNone then { h with marked := true } else h

/-- A port's answer to a hold enquiry with its hold list after it (R104). -/
def holdAnswer (x : Port) (clip length : Nat) : HoldAnswer × List Hold :=
  match x.state, x.area with
  | .ready, some a =>
    if copyFits a x.holds length then
      (.fits (footprint a length) (dataUnits a length), x.holds ++ [⟨clip, footprint a length, false, none⟩])
    else (.noRoom, x.holds.map markHold)
  | _, _ => (.notReady, x.holds)

/-- HOLD_ENQUIRY (R104). -/
def execHoldEnquiry (port : Fin 4) (clip length : Nat) (s : State) : Host.Outcome State Fault Refusal :=
  let t := s.arrive (.holdEnquiry port clip length)
  let r := holdAnswer (t.port port) clip length
  .next ((t.setPort port { t.port port with holds := r.2 }).send (.holdAnswer port clip r.1))

/-- The hold of a clip. -/
def holdOf (x : Port) (clip : Nat) : Option Hold := x.holds.find? (fun h => h.clip == clip)

/-- The hold list without a clip's hold. -/
def dropHold (x : Port) (clip : Nat) : List Hold := x.holds.filter (fun h => h.clip != clip)

/-- The placement of a held footprint at F (R105). -/
def placementAt (a : Area) (fp : Nat) : Placement := ⟨a.start + a.fill * a.unit, fp, fp - 1⟩

/-- A port with a placement made (R105). -/
def makePlacement (x : Port) (a : Area) (h : Hold) : Port :=
  { x with
    area := some { a with fill := a.fill + h.footprint, placements := a.placements + 1 }
    holds := dropHold x h.clip
    openPl := x.openPl ++ [⟨h.clip, (placementAt a h.footprint).start, h.footprint, false⟩] }

/-- A port's answer to a confirmation, with the port after it (R105). -/
def confirmHold (x : Port) (clip : Nat) : ConfirmAnswer × Port :=
  match holdOf x clip with
  | none => (.notReady none, x)
  | some h =>
    match h.void, x.area with
    | some cause, _ => (.notReady (some cause), { x with holds := dropHold x clip })
    | none, some a => (.placed (placementAt a h.footprint), makePlacement x a h)
    | none, none => (.notReady none, x)

/-- HOLD_CONFIRMATION (R105). -/
def execHoldConfirmation (port : Fin 4) (clip : Nat) (s : State) : Host.Outcome State Fault Refusal :=
  let t := s.arrive (.holdConfirmation port clip)
  let r := confirmHold (t.port port) clip
  .next ((t.setPort port r.2).send (.confirmationAnswer port clip r.1))

/-- HOLD_WITHDRAWAL (R106). -/
def execHoldWithdrawal (port : Fin 4) (clip : Nat) (s : State) : Host.Outcome State Fault Refusal :=
  let t := s.arrive (.holdWithdrawal port clip)
  let u := t.setPort port { t.port port with holds := dropHold (t.port port) clip }
  .next (if (holdOf (t.port port) clip).any Hold.marked then u.send (.roomFreedReport port clip) else u)

/-- The open placements without a clip's entry (R107). -/
def dropOpen (x : Port) (clip : Nat) : List OpenPlacement := x.openPl.filter (fun o => o.clip != clip)

/-- PLACEMENT_CLOSE (R107). -/
def execPlacementClose (port : Fin 4) (clip : Nat) (s : State) : Host.Outcome State Fault Refusal :=
  let t := s.arrive (.placementClose port clip)
  .next (t.setPort port { t.port port with openPl := dropOpen (t.port port) clip })

/-- A port that has abandoned a clip's run (R108). -/
def abandonRun (x : Port) (clip : Nat) : Port :=
  match openOf x clip with
  | none => x
  | some o =>
    { x with
      area := x.area.map (fun a => { a with abandoned := a.abandoned + o.footprint })
      openPl := dropOpen x clip }

/-- RUN_ABANDONMENT (R107, R108). -/
def execRunAbandonment (port : Fin 4) (clip : Nat) (s : State) : Host.Outcome State Fault Refusal :=
  let t := s.arrive (.runAbandonment port clip)
  .next (t.setPort port (abandonRun (t.port port) clip))

/-! ## The write queue -/

/-- An entry joins a write queue at the tail, and the link is looked at (R120, R122). -/
def State.pushWrite (s : State) (p : Fin 4) (e : WriteEntry) : State :=
  (s.setPort p { s.port p with writeQ := (s.port p).writeQ ++ [e] }).runLink p

/-- The first block of a clip's run, from its open placement (R123). -/
def runStartOf (x : Port) (clip : Nat) : Nat := ((openOf x clip).map OpenPlacement.start).getD 0

/-- EXTENT_APPEND (R75, R121). -/
def execExtentAppend (port : Fin 4) (index : Nat) (claim : ClaimId) (bytes : Nat) (s : State) :
    Host.Outcome State Fault Refusal :=
  let t := s.arrive (.extentAppend port index claim bytes)
  .next (if takesCopy (t.port port) claim.clip then
    t.pushWrite port (.extent index claim bytes (runStartOf (t.port port) claim.clip))
    else t.send (.extentRelease port [(index, claim)]))

/-- TRAILER_APPEND (R121). -/
def execTrailerAppend (port : Fin 4) (clip : Nat) (fields : TrailerFields) (s : State) :
    Host.Outcome State Fault Refusal :=
  let t := s.arrive (.trailerAppend port clip fields)
  .next (if takesCopy (t.port port) clip then t.pushWrite port (.trailer clip fields) else t)

/-- The write queue entry of an extent. -/
def isExtent (i : Nat) (c : ClaimId) : WriteEntry → Bool
  | .extent j d _ _ => j == i && decide (d = c)
  | .trailer _ _ => false

/-- The trailer entry of a clip. -/
def isTrailer (clip : Nat) : WriteEntry → Bool
  | .extent _ _ _ _ => false
  | .trailer c _ => c == clip

/-- EXTENT_REMOVAL (R121, R130). -/
def execExtentRemoval (port : Fin 4) (index : Nat) (claim : ClaimId) (s : State) : Host.Outcome State Fault Refusal :=
  .next ((s.arrive (.extentRemoval port index claim)).removeWrites port (isExtent index claim))

/-- TRAILER_REMOVAL (R121, R130). -/
def execTrailerRemoval (port : Fin 4) (clip : Nat) (s : State) : Host.Outcome State Fault Refusal :=
  .next ((s.arrive (.trailerRemoval port clip)).removeWrites port (isTrailer clip))

/-! ## The verify queue -/

/-- An entry joins a verify queue at the tail, and the link is looked at (R135, R136). -/
def State.pushVerify (s : State) (p : Fin 4) (e : VerifyEntry) : State :=
  (s.setPort p { s.port p with verifyQ := (s.port p).verifyQ ++ [e] }).runLink p

/-- VERIFY_APPEND (R135). -/
def execVerifyAppend (port : Fin 4) (entry : VerifyEntry) (s : State) : Host.Outcome State Fault Refusal :=
  let t := s.arrive (.verifyAppend port entry)
  .next (if takesCopy (t.port port) entry.clip then t.pushVerify port entry else t)

/-- SIBLING_APPEND (R135). -/
def execSiblingAppend (port : Fin 4) (entry : VerifyEntry) (s : State) : Host.Outcome State Fault Refusal :=
  let t := s.arrive (.siblingAppend port entry)
  .next (if (t.port port).state = .ready ∧ takesCopy (t.port port) entry.clip = true then t.pushVerify port entry
    else t)

/-- The verify entry of a clip. -/
def isVerify (clip : Nat) (e : VerifyEntry) : Bool := e.clip == clip && e.repairPort.isNone

/-- The sibling entry of a clip for a repair port. -/
def isSibling (clip : Nat) (rp : Fin 4) (e : VerifyEntry) : Bool := e.clip == clip && decide (e.repairPort = some rp)

/-- VERIFY_REMOVAL (R135, R141). -/
def execVerifyRemoval (port : Fin 4) (clip : Nat) (s : State) : Host.Outcome State Fault Refusal :=
  .next ((s.arrive (.verifyRemoval port clip)).removeVerify port (isVerify clip))

/-- SIBLING_CANCEL. What the engine has of the pool for the entry in progress is given back where no discard is due (R80, R135;
log 18). -/
def execSiblingCancel (port : Fin 4) (clip : Nat) (repairPort : Fin 4) (s : State) : Host.Outcome State Fault Refusal :=
  let t := s.arrive (.siblingCancel port clip repairPort)
  .next ((t.removeVerify port (isSibling clip repairPort)).giveBackAll
    (if entryRuns (t.port port) (isSibling clip repairPort) then t.engineGiven port ++ enginePlaces port (t.port port) else []))

/-- SIBLING_OFFER: an engine that waits, or whose answer "wait" is still on its way, takes the extent and reads on, awaiting that
answer no more; an extent offered for a read that has ended is given back (R80, R84, R136; log 18, log 35, log 44). -/
def execSiblingOffer (port : Fin 4) (index : Nat) (claim : ClaimId) (s : State) : Host.Outcome State Fault Refusal :=
  let t := s.arrive (.siblingOffer port index claim)
  let g := (t.port port).engine
  .next (if headClaims (t.port port) claim = true ∧ (g.state = .waiting ∨ g.claim = some claim) then
    (t.setPort port { t.port port with
      engine := { g with state := .reading, claim := none, extent := some index }
      unawaited := (t.port port).unawaited ++ g.claim.toList }).runLink port
    else t.giveBack (some (.engine port)) (.engine port) claim (some index))

/-- The last extent of a sibling read that is acknowledged is reported complete, unless the read gave no value (R145). -/
def lastExtentMessages (x : Port) (e : VerifyEntry) : List Instr :=
  match x.engine.extent, e.repairPort, x.engine.noValue with
  | some i, some rp, false => [.extentComplete i (siblingClaim e rp x.engine.chunk) (extentLength e.length x.engine.chunk)]
  | _, _, _ => []

/-- SIBLING_COMPLETION_ACK. The extent of a read that gave no value is given back where no discard is due (R80, R145; log 18). -/
def execSiblingCompletionAck (port : Fin 4) (clip : Nat) (repairPort : Fin 4) (s : State) :
    Host.Outcome State Fault Refusal :=
  let t := s.arrive (.siblingCompletionAck port clip repairPort)
  .next (match (t.port port).verifyQ with
    | e :: _ =>
      if (t.port port).engine.ack = true ∧ isSibling clip repairPort e = true then
        (((t.sendAll (lastExtentMessages (t.port port) e)).entryEnds port).runLink port).giveBackAll
          (if (t.port port).engine.noValue then t.engineGiven port else [])
      else t
    | [] => t)

end Sys2Proof.Machine
end

