-- ==== Sys2Proof/Machine/Queries.lean ====
section
/-! DEFINITION. The meanings of CARD_READ and of the five queries: BAY_QUERY, PORT_QUERY, JOB_QUERY, CLIP_QUERY, POOL_QUERY
(R44, R58, R86, R116, R170, R171). -/

namespace Sys2Proof.Machine

/-- A host card read enters the table and joins the arbiter's list; the request is decided, its reply not yet (R58, R167).
A request in hand whose reply a link reset has taken leaves its read without one. -/
def State.enterRead (s : State) (tag : Nat) (b : Fin 8) (start count : Nat) : State :=
  let l := s.lki
  let r : CardRead := ⟨l.nextRead, tag, b, start, min count Config.maxReadBlocks, handOrphan l kindCardRead tag⟩
  let t := s.dropHand kindCardRead tag
  (({ t with
      lki := { t.lki with reads := l.reads ++ [r], nextRead := l.nextRead + 1 }
      arb := { t.arb with requests := t.arb.requests ++ [r.id] } } : State).grants).linkSettle

/-- CARD_READ (R58, R167). -/
def execCardRead (tag bay start count : Nat) (s : State) : Host.Outcome State Fault Refusal :=
  let t := s.arrive (.cardRead tag bay start count)
  .next (match indexOf 8 bay with
    | none => t.refuse kindCardRead tag .badArg
    | some b =>
      if count = 0 then t.refuse kindCardRead tag .badArg
      else if Config.maxCardReads ≤ t.lki.reads.length then t.refuse kindCardRead tag .busy
      else t.enterRead tag b start count)

/-- What a query says of a presence sense, which is read while power is ON; while it is OFF, a free value (log 22). -/
def sensed (fresh : Nat) (power : Power) (v : Bool) : Bool :=
  match power with
  | .on => v
  | .off => Config.freeSense fresh

/-- What BAY_QUERY reports (R44). -/
def bayInfo (fresh : Nat) (x : Bay) : BayInfo :=
  ⟨x.power, x.state, sensed fresh x.power x.cardPresent, x.sig, x.job.map BoundJob.id, bayAway x, x.clear, x.lock, x.lamp,
    x.health.mode, x.health.count, x.health.w, x.health.up, x.health.lo⟩

/-- BAY_QUERY (R44). -/
def execBayQuery (tag bay : Nat) (s : State) : Host.Outcome State Fault Refusal :=
  let t := s.arrive (.bayQuery tag bay)
  .next (match indexOf 8 bay with
    | none => t.refuse kindBayQuery tag .badArg
    | some b => (t.spend).answer kindBayQuery tag .done (.bay (bayInfo t.fresh (t.bay b))))

/-- The room of a port: C − R − F less the holds (R116). -/
def roomOf (x : Port) : Nat :=
  match x.area with
  | some a => areaCapacity a - a.reserve - a.fill - heldUnits x.holds
  | none => 0

/-- What PORT_QUERY reports (R116). -/
def portInfo (fresh : Nat) (x : Port) : PortInfo :=
  ⟨x.power, x.state, sensed fresh x.power x.drivePresent, x.ident.isSome, x.identity, x.otherDrive, x.grace,
    x.graceTimer.map (timeLeft fresh), x.area, codeOpt areaCapacity x.area, codeOpt areaUnitBytes x.area, roomOf x,
    x.holds.length, x.openPl.length, x.writeQ.length, x.verifyQ.length, x.tally⟩

/-- PORT_QUERY (R116). -/
def execPortQuery (tag port : Nat) (s : State) : Host.Outcome State Fault Refusal :=
  let t := s.arrive (.portQuery tag port)
  .next (match indexOf 4 port with
    | none => t.refuse kindPortQuery tag .badArg
    | some p => (t.spend).answer kindPortQuery tag .done (.port (portInfo t.fresh (t.port p))))

/-- JOB_QUERY (R170). -/
def execJobQuery (tag job : Nat) (s : State) : Host.Outcome State Fault Refusal :=
  let t := s.arrive (.jobQuery tag job)
  .next (if inRange 8 job then
    match t.job? job with
    | none => t.refuse kindJobQuery tag .noSuch
    | some j => t.answer kindJobQuery tag .done (.job j (!t.present j) (t.clearOf j.bay))
    else t.refuse kindJobQuery tag .badArg)

/-- CLIP_QUERY (R171). -/
def execClipQuery (tag clip : Nat) (s : State) : Host.Outcome State Fault Refusal :=
  let t := s.arrive (.clipQuery tag clip)
  .next (if inRange Config.maxClipId clip then
    match t.clip? clip with
    | none => t.refuse kindClipQuery tag .noSuch
    | some c => t.answer kindClipQuery tag .done (.clip c)
    else t.refuse kindClipQuery tag .badArg)

/-- The extents that a test hits. -/
def countExtents (p : Pool) (hit : Extent → Bool) : Nat := (p.extents.filter (fun e => hit e.2)).length

/-- What POOL_QUERY says of one clip (R86). -/
def holdingOf (p : Pool) (clip : Nat) : ClipHolding :=
  ⟨clip, countExtents p (fun e => e.claim.clip == clip && decide (e.claim.purpose = .first)),
    countExtents p (fun e => e.claim.clip == clip && decide (e.claim.purpose = .repair))⟩

/-- The FULL extents whose pending set holds a port (R86). -/
def pendingOn (p : Pool) (port : Fin 4) : Nat :=
  countExtents p (fun e => decide (e.state = .full) && e.pending.any (fun ps => ps.contains port))

/-- What POOL_QUERY reports (R86). The clips stand in the order of the lowest index that each holds (log 39). -/
def poolInfo (p : Pool) : PoolInfo :=
  ⟨p.window, Config.nExtents - p.extents.length, countExtents p (fun e => decide (e.state = .filling)),
    countExtents p (fun e => decide (e.state = .full)),
    ((p.extents.map (fun e => e.2.claim.clip)).eraseDups).map (holdingOf p), (List.finRange 4).map (pendingOn p),
    (orderedWaits p.waits).map (fun w => ⟨w, !belowWindow p w.claim.clip⟩)⟩

/-- POOL_QUERY (R86). -/
def execPoolQuery (tag : Nat) (s : State) : Host.Outcome State Fault Refusal :=
  let t := s.arrive (.poolQuery tag)
  .next (t.answer kindPoolQuery tag .done (.pool (poolInfo t.pool)))

end Sys2Proof.Machine
end

