-- ==== Sys2Proof/Machine/Reports.lean ====
section
/-! DEFINITION. The meanings of the reports and answers the job manager takes: PENDING_SET_QUESTION, MOUNT_REPORT to
REPAIR_SOURCE_FAILURE, HOLD_ANSWER, CONFIRMATION_ANSWER, the ports' reports (01, 08). A report that names a clip not
present, a terminal clip, or a copy that does not await it is dropped (R9). -/

namespace Sys2Proof.Machine

/-! ## The pool manager's question -/

/-- The ports that must write an extent (R74). -/
def State.pendingFor (s : State) (claim : ClaimId) : List (Fin 4) :=
  match s.liveClip claim.clip with
  | none => []
  | some c =>
    match claim.purpose, claim.repairPort with
    | .first, _ => (c.copies.filter (fun k => decide (k.state = .writing))).map Copy.port
    | .repair, some p => if (copyOn c p).any (fun k => decide (k.state = .repairing)) then [p] else []
    | .repair, none => []

/-- PENDING_SET_QUESTION (R74). -/
def execPendingSetQuestion (index : Nat) (claim : ClaimId) (s : State) : Host.Outcome State Fault Refusal :=
  let t := s.arrive (.pendingSetQuestion index claim)
  .next (t.send (.pendingSetAnswer index claim (t.pendingFor claim)))

/-! ## Bays -/

/-- MOUNT_REPORT (R4, R13, R25). -/
def execMountReport (bay : Fin 8) (sig : CardSig) (s : State) : Host.Outcome State Fault Refusal :=
  let t := s.arrive (.mountReport bay sig)
  let u := (t.setView bay { t.view bay with sig := some sig }).evalClear bay
  .next (match u.jobOf bay with
    | some j => if u.present j then u.admissionPoint bay else u
    | none => u)

/-- The READING clip of a bay's job (R8: at most one). -/
def State.readingOf (s : State) (b : Fin 8) : Option Clip :=
  (s.jobOf b).bind (fun j => (j.clips.filterMap s.readingClip).head?)

/-- The READING clip of a bay that has lost its card goes back, its read ended in the bay too (R22; log 19). -/
def State.loseReading (s : State) (b : Fin 8) : State :=
  match s.readingOf b with
  | none => s
  | some c => (s.send (.workItemEnded b (.clip c.id))).reRead c false

/-- One card-sourced repair of a bay that has lost its card chooses its source anew (R148). -/
def State.loseRepair (b : Fin 8) (s : State) (r : CardRepair) : State :=
  match s.liveCopy r.clip r.port with
  | some (c, k) => if k.state = .repairing then s.reSource c k else s.dropGiven b r.clip r.port
  | none => s.dropGiven b r.clip r.port

/-- CARD_LOST_REPORT (R4, R22, R25, R148). -/
def execCardLostReport (bay : Fin 8) (s : State) : Host.Outcome State Fault Refusal :=
  let t := s.arrive (.cardLostReport bay)
  let u := (t.setView bay { t.view bay with sig := none }).loseReading bay
  let v := ((u.view bay).repairs.foldl (State.loseRepair bay) u).evalClear bay
  let w := if (t.readingOf bay).isSome then v.admissionPoint bay else v
  .next (w.afterRepairs t)

/-! ## Reads -/

/-- The state a burst hands on is stored in a READING clip (R19). -/
def State.storeClip (s : State) (id : Nat) (d : DigestState) : State :=
  match s.readingClip id with
  | some _ => s.modClip id (fun c => { c with running := some d, bytesRead := d.count })
  | none => s

/-- The state a burst hands on is stored with a card-sourced repair (R91). -/
def State.storeRepair (s : State) (id : Nat) (p : Fin 4) (d : DigestState) : State :=
  match s.liveCopy id p with
  | some (_, k) =>
    if readsCard k then
      s.modCopy id p (fun k => { k with repair := k.repair.map (fun r => { r with running := some d }) })
    else s
  | none => s

/-- BURST_END_REPORT (R19, R55, R91). -/
def execBurstEndReport (item : WorkItem) (state : DigestState) (s : State) : Host.Outcome State Fault Refusal :=
  let t := s.arrive (.burstEndReport item state)
  .next (t.unlessLate (.burstEndReport item state) (fun t =>
    match item with
    | .clip c => t.storeClip c state
    | .repair c p => t.storeRepair c p state))

/-- A number placed in an ascending list without duplicates (R61). -/
def insertBlock : List Nat → Nat → List Nat
  | [], v => [v]
  | x :: t, v => if v < x then v :: x :: t else if v = x then x :: t else x :: insertBlock t v

/-- BLOCK_SUBSTITUTION (R19, R55, R61). -/
def execBlockSubstitution (clip block : Nat) (s : State) : Host.Outcome State Fault Refusal :=
  let t := s.arrive (.blockSubstitution clip block)
  .next (t.unlessLate (.blockSubstitution clip block) (fun t =>
    match t.readingClip clip with
    | some _ => t.modClip clip (fun c => { c with damage := insertBlock c.damage block })
    | none => t))

/-- READ_COMPLETION, acknowledged whether it is applied or dropped (R20, R21, R56). -/
def execReadCompletion (lane : Fin 4) (clip : Nat) (state : DigestState) (s : State) : Host.Outcome State Fault Refusal :=
  let t := (s.arrive (.readCompletion lane clip state)).send (.readCompletionAck lane (.clip clip))
  .next (t.unlessLate (.readCompletion lane clip state) (fun t =>
    match t.readingClip clip with
    | some c => (t.completeRead c state).jobPoint c.job
    | none => t))

/-- MEDIA_FAILURE (R23, R55). -/
def execMediaFailure (clip : Nat) (s : State) : Host.Outcome State Fault Refusal :=
  let t := s.arrive (.mediaFailure clip)
  .next (t.unlessLate (.mediaFailure clip) (fun t =>
    match t.readingClip clip with
    | some c => (t.failClip c .media true).jobPoint c.job
    | none => t))

/-! ## Repairs -/

/-- The card has failed as a source: excluded, the repair's extents discarded, the source chosen anew (R62, R144). -/
def State.cardFails (s : State) (c : Clip) (k : Copy) : State :=
  ((s.send (.repairDiscard c.id k.port)).modCopy c.id k.port (fun x =>
    { x with repair := some ⟨.none, true, none, false⟩ })).chooseSource c.id k.port

/-- The bay's read work has lost a repair (R144). -/
def State.repairGone (s : State) (c : Clip) (p : Fin 4) : State :=
  match s.bayOfClip c with
  | some b => s.dropGiven b c.id p
  | none => s

/-- The source's read has completed with the clip digest: the data is written (R144, R146). -/
def readDone (k : Copy) : Copy := { k with repair := k.repair.map (fun r => { r with running := none, reading := false }) }

/-- REPAIR_READ_COMPLETION, acknowledged whether it is applied or dropped (R56, R91, R144). -/
def execRepairReadCompletion (lane : Fin 4) (clip : Nat) (port : Fin 4) (digest : Digest) (s : State) :
    Host.Outcome State Fault Refusal :=
  let t := (s.arrive (.repairReadCompletion lane clip port digest)).send (.readCompletionAck lane (.repair clip port))
  .next (t.unlessLate (.repairReadCompletion lane clip port digest) (fun t =>
    match t.liveCopy clip port with
    | some (c, k) =>
      if readsCard k then
        let u := t.repairGone c port
        (if c.digest = some digest then u.modCopy clip port readDone else u.cardFails c k).afterRepairs t
      else t
    | none => t))

/-- REPAIR_SOURCE_FAILURE (R55, R62, R144). -/
def execRepairSourceFailure (clip : Nat) (port : Fin 4) (s : State) : Host.Outcome State Fault Refusal :=
  let t := s.arrive (.repairSourceFailure clip port)
  .next (t.unlessLate (.repairSourceFailure clip port) (fun t =>
    match t.liveCopy clip port with
    | some (c, k) => if readsCard k then ((t.repairGone c port).cardFails c k).afterRepairs t else t
    | none => t))

/-- The sibling copy at fault is reopened, if it is still VERIFIED (R146, step 2). -/
def State.reopen (s : State) (id : Nat) (q : Fin 4) : State :=
  match s.liveCopy id q with
  | some (_, k) => if k.state = .verified then s.mismatchCopy id k else s
  | none => s

/-- A sibling read has failed: extents discarded, the sibling reopened, other reads from it ended, the source chosen anew
(R146, R148). -/
def State.siblingFails (s : State) (c : Clip) (k : Copy) (q : Fin 4) : State :=
  let t := (s.send (.repairDiscard c.id k.port)).modCopy c.id k.port (fun x =>
    { x with repair := x.repair.map (fun r => { r with source := .none, running := none, reading := false }) })
  (((t.reopen c.id q).reSourceClip q c.id).chooseSource c.id k.port).decideClip c.id

/-- SIBLING_READ_COMPLETION, acknowledged whether it is applied or dropped (R145, R146). -/
def execSiblingReadCompletion (port : Fin 4) (clip : Nat) (repairPort : Fin 4) (digest : Option Digest) (s : State) :
    Host.Outcome State Fault Refusal :=
  let t := (s.arrive (.siblingReadCompletion port clip repairPort digest)).send
    (.siblingCompletionAck port clip repairPort)
  .next (match t.liveCopy clip repairPort with
    | some (c, k) =>
      if readsFrom port k then
        if digest.isSome = true ∧ c.digest = digest then t.modCopy clip repairPort readDone else t.siblingFails c k port
      else t
    | none => t)

/-! ## Admission -/

/-- The bay whose admission awaits an answer of this port for this clip. -/
def State.awaits (s : State) (phase : AdmPhase) (p : Fin 4) (clip : Nat) (b : Fin 8) : Bool :=
  (s.view b).adm.any (fun a => decide (a.phase = phase) && a.clip == clip && a.awaiting.contains p)

/-- An enquiry's answer is taken (R16, R157). -/
def State.takeAnswer (s : State) (b : Fin 8) (a : Admission) (p : Fin 4) (answer : HoldAnswer) : State :=
  let a' := { a with awaiting := a.awaiting.filter (fun q => decide (q ≠ p)), answers := a.answers ++ [⟨p, answer⟩] }
  let t := s.setAdm b (some a')
  let u := match a.cancelled, answer with
    | true, .fits _ _ => t.send (.holdWithdrawal p a.clip)
    | _, _ => t
  if a'.awaiting = [] then (u.answersIn b a').admRun b else u

/-- HOLD_ANSWER (R16, R17, R18, R157). -/
def execHoldAnswer (port : Fin 4) (clip : Nat) (answer : HoldAnswer) (s : State) : Host.Outcome State Fault Refusal :=
  let t := s.arrive (.holdAnswer port clip answer)
  .next (match (List.finRange 8).find? (t.awaits .enquiring port clip) with
    | some b =>
      match (t.view b).adm with
      | some a => t.takeAnswer b a port answer
      | none => t
    | none => t)

/-- The copy of a confirmation's answer: WRITING with its placement, or FAILED with the void hold's cause (R18). -/
def placeCopy (answer : ConfirmAnswer) (k : Copy) : Copy :=
  match answer with
  | .placed p => { k with state := .writing, placement := some p }
  | .notReady cause => { k with state := .failed, cause := cause }

/-- A confirmation's answer is taken; at the last one the read starts (R18; log 12, 13). A card lost since the confirmations
were sent does not stop it: the clip becomes READING in the away job, and its bay reads it when the card is back (log 38). -/
def State.takeConfirm (s : State) (b : Fin 8) (a : Admission) (p : Fin 4) (answer : ConfirmAnswer) : State :=
  let a' := { a with awaiting := a.awaiting.filter (fun q => decide (q ≠ p)) }
  let t := s.setAdm b (some a')
  let u := if a.cancelled then t else t.modCopy a.clip p (placeCopy answer)
  if a'.awaiting = [] then
    (if a.cancelled then (u.holdOver b).endAdm b else u.startRead b a.clip).admRun b
  else u

/-- CONFIRMATION_ANSWER. An answer for which no hold was on the list is dropped (R18, R105). -/
def execConfirmationAnswer (port : Fin 4) (clip : Nat) (answer : ConfirmAnswer) (s : State) :
    Host.Outcome State Fault Refusal :=
  let t := s.arrive (.confirmationAnswer port clip answer)
  .next (if answer = .notReady none then t
    else
      match (List.finRange 8).find? (t.awaits .confirming port clip) with
      | some b =>
        match (t.view b).adm with
        | some a => t.takeConfirm b a port answer
        | none => t
      | none => t)

/-! ## Ports' reports -/

/-- The copy awaits the write completion of an extent of this purpose (R125). -/
def awaitsExtent (purpose : Purpose) (k : Copy) : Bool :=
  match purpose with
  | .first => decide (k.state = .writing)
  | .repair => decide (k.state = .repairing)

/-- EXTENT_WRITE_COMPLETION (R124, R125). -/
def execExtentWriteCompletion (port : Fin 4) (clip : Nat) (purpose : Purpose) (seq : Nat) (s : State) :
    Host.Outcome State Fault Refusal :=
  let t := s.arrive (.extentWriteCompletion port clip purpose seq)
  .next (match t.liveCopy clip port with
    | some (c, k) =>
      if awaitsExtent purpose k = true ∧ seq + 1 = extentCount c.length then t.appendTrailer clip port else t
    | none => t)

/-- A copy's trailer is written: WRITTEN, its repair record removed, and then its verify or its settling. A source chosen
again after the trailer's append is still being read: that read is ended (R126, R147; log 15). -/
def State.trailerWritten (s : State) (c : Clip) (k : Copy) : State :=
  let u := if k.repair.any Repair.reading then s.endRepairRead c k else s
  let t := u.modCopy c.id k.port (fun x => { x with state := .written, repair := none })
  match s.verifyOfClip c, k.placement with
  | .full, some p => t.send (.verifyAppend k.port (verifyEntry c p))
  | .full, none => t
  | .off, _ => t.decideClip c.id

/-- TRAILER_WRITE_COMPLETION (R126, R147). -/
def execTrailerWriteCompletion (port : Fin 4) (clip : Nat) (s : State) : Host.Outcome State Fault Refusal :=
  let t := s.arrive (.trailerWriteCompletion port clip)
  .next (match t.liveCopy clip port with
    | some (c, k) =>
      if k.state = .writing ∨ k.state = .repairing then (t.trailerWritten c k).afterRepairs t else t
    | none => t)

/-- WRITE_FAILURE_REPORT (R128, R149). -/
def execWriteFailureReport (port : Fin 4) (clip : Nat) (s : State) : Host.Outcome State Fault Refusal :=
  let t := s.arrive (.writeFailureReport port clip)
  .next (match t.liveCopy clip port with
    | some (c, k) =>
      if k.state = .writing ∨ k.state = .repairing then
        (((t.endRepairRead c k).failCopy clip port .writeError).decideClip clip).afterRepairs t
      else t
    | none => t)

/-- VERIFY_START (R136). -/
def execVerifyStart (port : Fin 4) (clip : Nat) (s : State) : Host.Outcome State Fault Refusal :=
  let t := s.arrive (.verifyStart port clip)
  .next (match t.liveCopy clip port with
    | some (_, k) =>
      if k.state = .written then t.modCopy clip port (fun x => { x with state := .verifying }) else t
    | none => t)

/-- VERIFY_DIGEST_REPORT (R93, R138). -/
def execVerifyDigestReport (port : Fin 4) (clip : Nat) (digest : Option Digest) (s : State) :
    Host.Outcome State Fault Refusal :=
  let t := s.arrive (.verifyDigestReport port clip digest)
  .next (match t.liveCopy clip port with
    | some (_, k) =>
      if k.state = .verifying then t.modCopy clip port (fun x => { x with digest := digest }) else t
    | none => t)

/-- The copy compares: its verify digest equals the clip digest and its trailer passed (R140). -/
def compares (c : Clip) (k : Copy) (trailerPassed : Bool) : Bool :=
  trailerPassed && k.digest.isSome && decide (k.digest = c.digest)

/-- VERIFY_COMPLETION (R140). -/
def execVerifyCompletion (port : Fin 4) (clip : Nat) (trailerPassed : Bool) (s : State) :
    Host.Outcome State Fault Refusal :=
  let t := s.arrive (.verifyCompletion port clip trailerPassed)
  .next (match t.liveCopy clip port with
    | some (c, k) =>
      if k.state = .verifying then
        if compares c k trailerPassed then
          (t.modCopy clip port (fun x => { x with state := .verified })).decideClip clip
        else t.mismatchCopy clip k
      else t
    | none => t)

/-- AREA_INSTALLED_REPORT (R13, R100). -/
def execAreaInstalledReport (port : Fin 4) (s : State) : Host.Outcome State Fault Refusal :=
  .next ((s.arrive (.areaInstalledReport port)).portPoints port none)

/-- DRIVE_LOSS_REPORT (R109, R148). -/
def execDriveLossReport (port : Fin 4) (s : State) : Host.Outcome State Fault Refusal :=
  .next ((s.arrive (.driveLossReport port)).reSourceAll port)

/-- DRIVE_RETURN_REPORT (R13, R112). -/
def execDriveReturnReport (port : Fin 4) (s : State) : Host.Outcome State Fault Refusal :=
  .next ((s.arrive (.driveReturnReport port)).portPoints port none)

/-- GRACE_EXPIRY_REPORT (R113, R149). -/
def execGraceExpiryReport (port : Fin 4) (s : State) : Host.Outcome State Fault Refusal :=
  let t := s.arrive (.graceExpiryReport port)
  .next ((t.portFailsAll port .portLost).afterRepairs t)

/-- PORT_FAULT_REPORT (R129, R148, R149). -/
def execPortFaultReport (port : Fin 4) (s : State) : Host.Outcome State Fault Refusal :=
  let t := s.arrive (.portFaultReport port)
  .next (((t.portFailsAll port .portFault).reSourceAll port).afterRepairs t)

/-- ROOM_FREED_REPORT. One that names a clip not present, or a terminal clip, is dropped (R9, R13, R106). -/
def execRoomFreedReport (port : Fin 4) (clip : Nat) (s : State) : Host.Outcome State Fault Refusal :=
  let t := s.arrive (.roomFreedReport port clip)
  .next (match t.liveClip clip with
    | some c => t.portPoints port (t.bayOfClip c)
    | none => t)

end Sys2Proof.Machine
end

