-- ==== Sys2Proof/Machine/Settings.lean ====
section
/-! DEFINITION. The meanings of the settings and area requests and of the messages a PLAN sends: PLAN, POOL_FREE_QUESTION,
PLAN_ANSWER, HEALTH, GRACE, BAYPWR, PORTPWR, AREA_SET, AREA_DROP. -/

namespace Sys2Proof.Machine

/-- Some lane is held (R49). -/
def State.laneHeld (s : State) : Bool := (List.finRange 4).any (fun n => (s.lane n).holder.isSome)

/-- PLAN (R49). -/
def execPlan (tag number : Nat) (s : State) : Host.Outcome State Fault Refusal :=
  let t := s.arrive (.plan tag number)
  .next (match indexOf 4 number with
    | none => t.refuse kindPlan tag .badArg
    | some p =>
      if t.laneHeld then t.refuse kindPlan tag .busy
      else ({ t with arb := { t.arb with asking := some ⟨tag, p⟩ } } : State).send (.poolFreeQuestion p))

/-- POOL_FREE_QUESTION (R49, R72). -/
def execPoolFreeQuestion (plan : Fin 4) (s : State) : Host.Outcome State Fault Refusal :=
  let t := s.arrive (.poolFreeQuestion plan)
  .next (if t.pool.extents = [] then
    ({ t with pool := { t.pool with window := (Config.planRow plan).window } } : State).send (.planAnswer true)
    else t.send (.planAnswer false))

/-- PLAN_ANSWER (R49). An answer that no PLAN awaits is dropped. -/
def execPlanAnswer (yes : Bool) (s : State) : Host.Outcome State Fault Refusal :=
  let t := s.arrive (.planAnswer yes)
  .next (match t.arb.asking with
    | none => t
    | some a =>
      if yes then
        ((({ t with arb := { t.arb with plan := a.plan, asking := none } } : State).grants).answer kindPlan a.tag .done
          .codeAlone)
      else
        ((({ t with arb := { t.arb with asking := none } } : State).grants).answer kindPlan a.tag .busy .codeAlone))

/-- The three health settings after the steps of R67. -/
structure HealthSettings where
  w : Nat
  up : Nat
  lo : Nat
  deriving DecidableEq, Repr

/-- Steps 1 and 2 of R67. -/
def healthSettings (w up lo : Nat) : HealthSettings :=
  let u := clamp 1 255 up
  let l := clamp 0 254 lo
  ⟨clamp 4 60 w, u, if u ≤ l then u - 1 else l⟩

/-- A bay stores the settings (R67). -/
def State.storeHealth (s : State) (v : HealthSettings) (b : Fin 8) : State :=
  s.setBay b { s.bay b with health := { (s.bay b).health with w := v.w, up := v.up, lo := v.lo } }

/-- HEALTH (R67). -/
def execHealth (tag selector w up lo : Nat) (s : State) : Host.Outcome State Fault Refusal :=
  let t := s.arrive (.health tag selector w up lo)
  .next (match selectorOf 8 selector with
    | none => t.refuse kindHealth tag .badArg
    | some bays =>
      let v := healthSettings w up lo
      (bays.foldl (fun u b => u.storeHealth v b) t).answer kindHealth tag .done (.health v.w v.up v.lo))

/-- A port stores the grace setting (R114). -/
def State.storeGrace (s : State) (g : Nat) (p : Fin 4) : State := s.setPort p { s.port p with grace := g }

/-- GRACE (R114). -/
def execGrace (tag selector seconds : Nat) (s : State) : Host.Outcome State Fault Refusal :=
  let t := s.arrive (.grace tag selector seconds)
  .next (match selectorOf 4 selector with
    | none => t.refuse kindGrace tag .badArg
    | some ports =>
      (ports.foldl (fun u p => u.storeGrace (clamp 5 120 seconds) p) t).answer kindGrace tag .done
        (.grace (clamp 5 120 seconds)))

/-- A bay takes an accepted BAYPWR (R29, R30). -/
def State.setBayPower (s : State) (b : Fin 8) (v : Power) : State :=
  if (s.bay b).power = v then s
  else
    match v with
    | .off => s.bayOff b
    | .on => s.bayOn b

/-- What a bay has of the pool when an accepted BAYPWR takes its mounted card away. -/
def State.powerGiven (s : State) (b : Fin 8) (v : Power) : List Given :=
  if (s.bay b).power = .on ∧ v = .off ∧ (s.bay b).state = .mounted then s.bayGiven b (fun _ => true) else []

/-- BAYPWR (R29, R30, R80; log 18). -/
def execBaypwr (tag bay power : Nat) (s : State) : Host.Outcome State Fault Refusal :=
  let t := s.arrive (.baypwr tag bay power)
  .next (match indexOf 8 bay, powerOf power with
    | some b, some v =>
      if v = .off ∧ (t.bay b).job.isSome = true then t.refuse kindBaypwr tag .wrongState
      else ((t.setBayPower b v).answer kindBaypwr tag .done .codeAlone).giveBackAll (t.powerGiven b v)
    | _, _ => t.refuse kindBaypwr tag .badArg)

/-- A port takes an accepted PORTPWR (R99). -/
def State.setPortPower (s : State) (p : Fin 4) (v : Power) : State :=
  if (s.port p).power = v then s
  else
    match v with
    | .off => s.portOff p
    | .on => s.portOn p

/-- PORTPWR. The extent that the verify engine has is given back where no discard is due (R80, R99; log 18). -/
def execPortpwr (tag port power : Nat) (s : State) : Host.Outcome State Fault Refusal :=
  let t := s.arrive (.portpwr tag port power)
  .next (match indexOf 4 port, powerOf power with
    | some p, some v =>
      if v = .off ∧ ((t.port p).holds ≠ [] ∨ (t.port p).openPl ≠ []) then t.refuse kindPortpwr tag .wrongState
      else ((t.setPortPower p v).answer kindPortpwr tag .done .codeAlone).giveBackAll
        (if (t.port p).power = .on ∧ v = .off then t.engineGiven p else [])
    | _, _ => t.refuse kindPortpwr tag .badArg)

/-- The area that AREA_SET installs on a drive: the reserve clamped to C, F the initial fill (R100). -/
def newArea (d : DriveId) (start length unit reserve fill : Nat) (label : List Byte) : Area :=
  ⟨start, length, unit, d.blockSize, min reserve (length / unit), fill, fill, 0, 0, label⟩

/-- The third check of AREA_SET (R100). -/
def areaArgsBad (d : DriveId) (start length unit reserve fill : Nat) (label : List Byte) : Bool :=
  decide (d.capacity < start + length) || !unitValid unit || decide (length < unit) ||
    decide (length / unit - min reserve (length / unit) < fill) || decide (16 < label.length)

/-- What an area change notice says of an area (R115). -/
def areaBrief (a : Area) : AreaBrief := ⟨a.start, areaCapacity a, a.reserve, a.fill⟩

/-- The port installs an area (R100). -/
def State.installArea (s : State) (p : Fin 4) (a : Area) : State :=
  ((s.setPort p { s.port p with state := .ready, area := some a, holds := [], openPl := [], tally := 0 }).portNotice p
    (.areaChange (some (areaBrief a)))).send (.areaInstalledReport p)

/-- AREA_SET (R100). -/
def execAreaSet (tag port start length unit reserve fill : Nat) (label : List Byte) (s : State) :
    Host.Outcome State Fault Refusal :=
  let t := s.arrive (.areaSet tag port start length unit reserve fill label)
  .next (match indexOf 4 port with
    | none => t.refuse kindAreaSet tag .badArg
    | some p =>
      match (t.port p).state, (t.port p).holds, (t.port p).identity with
      | .attached, [], some d =>
        if areaArgsBad d start length unit reserve fill label then t.refuse kindAreaSet tag .badArg
        else
          let a := newArea d start length unit reserve fill label
          (t.installArea p a).answer kindAreaSet tag .done (.areaSet (areaCapacity a) a.reserve (areaUnitBytes a))
      | _, _, _ => t.refuse kindAreaSet tag .wrongState)

/-- The port drops its area (R102). The queues hold nothing, or what an abandoned run, or a clip that has ended, has left
there until its removal comes: they are emptied, and a write in progress is abandoned (R122; log 41). -/
def State.dropArea (s : State) (p : Fin 4) : State :=
  (s.setPort p { emptyQueues (s.port p) with state := .attached, area := none }).portNotice p (.areaChange none)

/-- AREA_DROP. The extent that the verify engine has is given back where no discard is due (R80, R102; log 18). -/
def execAreaDrop (tag port : Nat) (s : State) : Host.Outcome State Fault Refusal :=
  let t := s.arrive (.areaDrop tag port)
  .next (match indexOf 4 port with
    | none => t.refuse kindAreaDrop tag .badArg
    | some p =>
      if (t.port p).state = .ready ∧ (t.port p).holds = [] ∧ (t.port p).openPl = [] then
        ((t.dropArea p).answer kindAreaDrop tag .done (.areaDrop (areaCounts (t.port p).area))).giveBackAll
          (t.engineGiven p)
      else t.refuse kindAreaDrop tag .wrongState)

end Sys2Proof.Machine
end

