-- ==== Sys2Proof/Machine/Dispatch.lean ====
section
/-! DEFINITION. One arm per command: the table of meanings. -/

namespace Sys2Proof.Machine

/-- A command's effect on everything but the queue. -/
def exec (i : Instr) (s : State) : Host.Outcome State Fault Refusal :=
  match i with
  | .powerOn => Sys2Proof.Machine.execPowerOn s
  | .linkReset => Sys2Proof.Machine.execLinkReset s
  | .linkUp => Sys2Proof.Machine.execLinkUp s
  | .receiveFrame transfer => Sys2Proof.Machine.execReceiveFrame transfer s
  | .sendFrame => Sys2Proof.Machine.execSendFrame s
  | .noticeQueued notice => Sys2Proof.Machine.execNoticeQueued notice s
  | .ident tag => Sys2Proof.Machine.execIdent tag s
  | .plan tag number => Sys2Proof.Machine.execPlan tag number s
  | .poolFreeQuestion plan => Sys2Proof.Machine.execPoolFreeQuestion plan s
  | .planAnswer yes => Sys2Proof.Machine.execPlanAnswer yes s
  | .health tag selector w up lo => Sys2Proof.Machine.execHealth tag selector w up lo s
  | .grace tag selector seconds => Sys2Proof.Machine.execGrace tag selector seconds s
  | .baypwr tag bay power => Sys2Proof.Machine.execBaypwr tag bay power s
  | .portpwr tag port power => Sys2Proof.Machine.execPortpwr tag port power s
  | .areaSet tag port start length unit reserve fill label => Sys2Proof.Machine.execAreaSet tag port start length unit reserve fill label s
  | .areaDrop tag port => Sys2Proof.Machine.execAreaDrop tag port s
  | .jobOpen tag job bay verify damage count slots => Sys2Proof.Machine.execJobOpen tag job bay verify damage count slots s
  | .clipAdd tag job label length runs expectFlag expect => Sys2Proof.Machine.execClipAdd tag job label length runs expectFlag expect s
  | .jobSeal tag job => Sys2Proof.Machine.execJobSeal tag job s
  | .jobStop tag job mode => Sys2Proof.Machine.execJobStop tag job mode s
  | .clipCancel tag clip => Sys2Proof.Machine.execClipCancel tag clip s
  | .cardRelease tag bay force => Sys2Proof.Machine.execCardRelease tag bay force s
  | .jobRetire tag job => Sys2Proof.Machine.execJobRetire tag job s
  | .cardRead tag bay start count => Sys2Proof.Machine.execCardRead tag bay start count s
  | .bayQuery tag bay => Sys2Proof.Machine.execBayQuery tag bay s
  | .portQuery tag port => Sys2Proof.Machine.execPortQuery tag port s
  | .jobQuery tag job => Sys2Proof.Machine.execJobQuery tag job s
  | .clipQuery tag clip => Sys2Proof.Machine.execClipQuery tag clip s
  | .poolQuery tag => Sys2Proof.Machine.execPoolQuery tag s
  | .reset tag => Sys2Proof.Machine.execReset tag s
  | .cardSeated bay => Sys2Proof.Machine.execCardSeated bay s
  | .probeCompletion probe answer => Sys2Proof.Machine.execProbeCompletion probe answer s
  | .probeTimerExpiry probe => Sys2Proof.Machine.execProbeTimerExpiry probe s
  | .cardLeaves bay => Sys2Proof.Machine.execCardLeaves bay s
  | .cardLoss bay seated => Sys2Proof.Machine.execCardLoss bay seated s
  | .ejectButton bay => Sys2Proof.Machine.execEjectButton bay s
  | .bayJobBound bay job sig state => Sys2Proof.Machine.execBayJobBound bay job sig state s
  | .bayJobState bay state => Sys2Proof.Machine.execBayJobState bay state s
  | .bayClearChange bay value => Sys2Proof.Machine.execBayClearChange bay value s
  | .bayJobRemoved bay => Sys2Proof.Machine.execBayJobRemoved bay s
  | .bayReleaseAccepted bay => Sys2Proof.Machine.execBayReleaseAccepted bay s
  | .bayReadWork bay work => Sys2Proof.Machine.execBayReadWork bay work s
  | .healthWindowExpiry bay => Sys2Proof.Machine.execHealthWindowExpiry bay s
  | .blockReadAttempt lane answer => Sys2Proof.Machine.execBlockReadAttempt lane answer s
  | .readCompletionAck lane item => Sys2Proof.Machine.execReadCompletionAck lane item s
  | .extentClaim requester claim => Sys2Proof.Machine.execExtentClaim requester claim s
  | .extentComplete index claim bytes => Sys2Proof.Machine.execExtentComplete index claim bytes s
  | .pendingSetQuestion index claim => Sys2Proof.Machine.execPendingSetQuestion index claim s
  | .pendingSetAnswer index claim ports => Sys2Proof.Machine.execPendingSetAnswer index claim ports s
  | .extentRelease port extents => Sys2Proof.Machine.execExtentRelease port extents s
  | .clipDiscard clip => Sys2Proof.Machine.execClipDiscard clip s
  | .repairDiscard clip port => Sys2Proof.Machine.execRepairDiscard clip port s
  | .poolOffer bay claim => Sys2Proof.Machine.execPoolOffer bay claim s
  | .siblingOffer port index claim => Sys2Proof.Machine.execSiblingOffer port index claim s
  | .waitRemoved requester claim => Sys2Proof.Machine.execWaitRemoved requester claim s
  | .mountReport bay sig => Sys2Proof.Machine.execMountReport bay sig s
  | .cardLostReport bay => Sys2Proof.Machine.execCardLostReport bay s
  | .burstEndReport item state => Sys2Proof.Machine.execBurstEndReport item state s
  | .blockSubstitution clip block => Sys2Proof.Machine.execBlockSubstitution clip block s
  | .readCompletion lane clip state => Sys2Proof.Machine.execReadCompletion lane clip state s
  | .mediaFailure clip => Sys2Proof.Machine.execMediaFailure clip s
  | .repairReadCompletion lane clip port digest => Sys2Proof.Machine.execRepairReadCompletion lane clip port digest s
  | .repairSourceFailure clip port => Sys2Proof.Machine.execRepairSourceFailure clip port s
  | .holdAnswer port clip answer => Sys2Proof.Machine.execHoldAnswer port clip answer s
  | .confirmationAnswer port clip answer => Sys2Proof.Machine.execConfirmationAnswer port clip answer s
  | .extentWriteCompletion port clip purpose seq => Sys2Proof.Machine.execExtentWriteCompletion port clip purpose seq s
  | .trailerWriteCompletion port clip => Sys2Proof.Machine.execTrailerWriteCompletion port clip s
  | .writeFailureReport port clip => Sys2Proof.Machine.execWriteFailureReport port clip s
  | .verifyStart port clip => Sys2Proof.Machine.execVerifyStart port clip s
  | .verifyDigestReport port clip digest => Sys2Proof.Machine.execVerifyDigestReport port clip digest s
  | .verifyCompletion port clip trailerPassed => Sys2Proof.Machine.execVerifyCompletion port clip trailerPassed s
  | .siblingReadCompletion port clip repairPort digest => Sys2Proof.Machine.execSiblingReadCompletion port clip repairPort digest s
  | .siblingCompletionAck port clip repairPort => Sys2Proof.Machine.execSiblingCompletionAck port clip repairPort s
  | .areaInstalledReport port => Sys2Proof.Machine.execAreaInstalledReport port s
  | .driveLossReport port => Sys2Proof.Machine.execDriveLossReport port s
  | .driveReturnReport port => Sys2Proof.Machine.execDriveReturnReport port s
  | .graceExpiryReport port => Sys2Proof.Machine.execGraceExpiryReport port s
  | .portFaultReport port => Sys2Proof.Machine.execPortFaultReport port s
  | .roomFreedReport port clip => Sys2Proof.Machine.execRoomFreedReport port clip s
  | .holdEnquiry port clip length => Sys2Proof.Machine.execHoldEnquiry port clip length s
  | .holdConfirmation port clip => Sys2Proof.Machine.execHoldConfirmation port clip s
  | .holdWithdrawal port clip => Sys2Proof.Machine.execHoldWithdrawal port clip s
  | .placementClose port clip => Sys2Proof.Machine.execPlacementClose port clip s
  | .runAbandonment port clip => Sys2Proof.Machine.execRunAbandonment port clip s
  | .extentAppend port index claim bytes => Sys2Proof.Machine.execExtentAppend port index claim bytes s
  | .trailerAppend port clip fields => Sys2Proof.Machine.execTrailerAppend port clip fields s
  | .extentRemoval port index claim => Sys2Proof.Machine.execExtentRemoval port index claim s
  | .trailerRemoval port clip => Sys2Proof.Machine.execTrailerRemoval port clip s
  | .verifyAppend port entry => Sys2Proof.Machine.execVerifyAppend port entry s
  | .siblingAppend port entry => Sys2Proof.Machine.execSiblingAppend port entry s
  | .verifyRemoval port clip => Sys2Proof.Machine.execVerifyRemoval port clip s
  | .siblingCancel port clip repairPort => Sys2Proof.Machine.execSiblingCancel port clip repairPort s
  | .driveConnected port => Sys2Proof.Machine.execDriveConnected port s
  | .driveIdentified ident answer => Sys2Proof.Machine.execDriveIdentified ident answer s
  | .identTimerExpiry ident => Sys2Proof.Machine.execIdentTimerExpiry ident s
  | .driveLoss port connected => Sys2Proof.Machine.execDriveLoss port connected s
  | .graceTimerExpiry port => Sys2Proof.Machine.execGraceTimerExpiry port s
  | .writeCompletion answer => Sys2Proof.Machine.execWriteCompletion answer s
  | .writeFailure answer => Sys2Proof.Machine.execWriteFailure answer s
  | .verifyChunkRead port answer => Sys2Proof.Machine.execVerifyChunkRead port answer s
  | .trailerRead port answer => Sys2Proof.Machine.execTrailerRead port answer s
  | .siblingChunkRead port answer => Sys2Proof.Machine.execSiblingChunkRead port answer s
  | .claimAnswer requester claim index => Sys2Proof.Machine.execClaimAnswer requester claim index s
  | .workItemEnded bay item => Sys2Proof.Machine.execWorkItemEnded bay item s

end Sys2Proof.Machine
end

