-- ==== Sys2Proof/Machine/Step.lean ====
section
/-! DEFINITION. The step: the command at the front of the queue, else the oldest message in transit, else idling; and the
state with a table word's command put at the front of its queue. -/

namespace Sys2Proof.Machine

/-- A step. DESIGN CHOICE: on an empty queue the oldest message that a block has sent is taken by the block it is for, and
the part idles when there is none (log 1). -/
def step (s : State) : Host.Outcome State Fault Refusal :=
  match s.pending with
  | c :: rest => exec c { s with pending := rest }
  | [] =>
    match s.wire with
    | m :: _ => exec m s
    | [] => .next s

/-- The state with the command that a table word spells at the front of its queue. -/
def State.withFetchWord (s : State) (nbits w : Nat) : State :=
  match decodeTableWord nbits w with
  | some c => { s with pending := c :: s.pending }
  | none => s

end Sys2Proof.Machine
end

