-- ==== Sys2Proof/WellFormed.lean ====
section
/-! DEFINITION. Well-formed commands: every operand fits the field that carries it in a frame (R178 to R183), or the range
that the records give it (R5, R7, R32, R54, R70). A meaning does not rest on it: the owning block checks the values. -/

namespace Sys2Proof

/-- A field of n bytes holds the value (R178). -/
def fitsBytes (n v : Nat) : Bool := decide (v < 256 ^ n)

/-- A clip id (R7). -/
def isClipId (v : Nat) : Bool := decide (1 ≤ v) && decide (v ≤ Config.maxClipId)

/-- A pool index (R70). -/
def isIndex (v : Nat) : Bool := decide (v < Config.nExtents)

/-- A byte count of an extent (R70). -/
def isExtentCount (v : Nat) : Bool := decide (v ≤ Config.extentBytes)

/-- A claim identity: a clip id, a repair port for purpose REPAIR and for no other (R70). -/
def ClaimId.wf (c : ClaimId) : Bool :=
  isClipId c.clip && (match c.purpose, c.repairPort with
    | .first, none => true
    | .repair, some _ => true
    | _, _ => false)

/-- A card signature: 16 bytes of serial, a capacity in 1 to 4,294,967,295 (R32). -/
def CardSig.wf (g : CardSig) : Bool :=
  decide (g.serial.length = 16) && decide (1 ≤ g.capacity) && decide (g.capacity ≤ Config.maxCardBlocks)

/-- A source run as its 8 bytes can spell it (R182). -/
def Run.wf (r : Run) : Bool := fitsBytes 4 r.start && fitsBytes 4 r.count

/-- A copy-set slot as its 2 bytes can spell it (R181). -/
def CopySlot.wf (e : CopySlot) : Bool := fitsBytes 1 e.port && fitsBytes 1 e.flag

/-- A work item names a clip id. -/
def WorkItem.wf : WorkItem → Bool
  | .clip c => isClipId c
  | .repair c _ => isClipId c

/-- Every operand fits. -/
def Instr.wf : Instr → Bool
  | .ident tag | .poolQuery tag | .reset tag => fitsBytes 2 tag
  | .plan tag v | .areaDrop tag v | .jobSeal tag v | .jobRetire tag v | .bayQuery tag v | .portQuery tag v
  | .jobQuery tag v => fitsBytes 2 tag && fitsBytes 1 v
  | .baypwr tag v w | .portpwr tag v w | .jobStop tag v w | .cardRelease tag v w =>
    fitsBytes 2 tag && fitsBytes 1 v && fitsBytes 1 w
  | .clipCancel tag v | .clipQuery tag v => fitsBytes 2 tag && fitsBytes 2 v
  | .grace tag v w => fitsBytes 2 tag && fitsBytes 1 v && fitsBytes 2 w
  | .health tag v w up lo => fitsBytes 2 tag && fitsBytes 1 v && fitsBytes 1 w && fitsBytes 1 up && fitsBytes 1 lo
  | .areaSet tag port start length unit reserve fill label =>
    fitsBytes 2 tag && fitsBytes 1 port && fitsBytes 8 start && fitsBytes 8 length && fitsBytes 4 unit &&
      fitsBytes 8 reserve && fitsBytes 8 fill && fitsBytes 1 label.length
  | .jobOpen tag job bay verify damage count slots =>
    fitsBytes 2 tag && fitsBytes 1 job && fitsBytes 1 bay && fitsBytes 1 verify && fitsBytes 1 damage &&
      fitsBytes 1 count && decide (slots.length = 4) && slots.all CopySlot.wf
  | .clipAdd tag job label length runs expectFlag _ =>
    fitsBytes 2 tag && fitsBytes 1 job && fitsBytes 1 label.length && fitsBytes 8 length && fitsBytes 1 runs.length &&
      runs.all Run.wf && fitsBytes 1 expectFlag
  | .cardRead tag bay start count => fitsBytes 2 tag && fitsBytes 1 bay && fitsBytes 4 start && fitsBytes 2 count
  | .bayJobBound _ job sig _ => decide (1 ≤ job) && decide (job ≤ 8) && sig.wf
  | .bayReadWork _ work => work.item.wf && decide (work.length ≤ Config.maxClipBytes)
  | .readCompletionAck _ item | .burstEndReport item _ | .workItemEnded _ item => item.wf
  | .extentClaim _ claim | .poolOffer _ claim | .waitRemoved _ claim => claim.wf
  | .claimAnswer _ claim index => claim.wf && index.all isIndex
  | .extentComplete index claim bytes | .extentAppend _ index claim bytes =>
    isIndex index && claim.wf && isExtentCount bytes
  | .pendingSetQuestion index claim | .pendingSetAnswer index claim _ | .siblingOffer _ index claim
  | .extentRemoval _ index claim => isIndex index && claim.wf
  | .extentRelease _ extents => extents.all (fun e => isIndex e.1 && e.2.wf)
  | .clipDiscard clip | .repairDiscard clip _ | .blockSubstitution clip _ | .readCompletion _ clip _
  | .mediaFailure clip | .repairReadCompletion _ clip _ _ | .repairSourceFailure clip _ | .holdAnswer _ clip _
  | .confirmationAnswer _ clip _ | .extentWriteCompletion _ clip _ _ | .trailerWriteCompletion _ clip
  | .writeFailureReport _ clip | .verifyStart _ clip | .verifyDigestReport _ clip _ | .verifyCompletion _ clip _
  | .siblingReadCompletion _ clip _ _ | .siblingCompletionAck _ clip _ | .roomFreedReport _ clip
  | .holdConfirmation _ clip | .holdWithdrawal _ clip | .placementClose _ clip | .runAbandonment _ clip
  | .trailerAppend _ clip _ | .trailerRemoval _ clip | .verifyRemoval _ clip | .siblingCancel _ clip _ => isClipId clip
  | .holdEnquiry _ clip length => isClipId clip && decide (length ≤ Config.maxClipBytes)
  | .verifyAppend _ entry => isClipId entry.clip && entry.repairPort.isNone
  | .siblingAppend _ entry => isClipId entry.clip && entry.repairPort.isSome
  | .mountReport _ sig => sig.wf
  | _ => true

/-- The tag of a request (R166). -/
def Instr.tag? : Instr → Option Nat
  | .ident tag | .poolQuery tag | .reset tag | .plan tag _ | .areaDrop tag _ | .jobSeal tag _ | .jobRetire tag _
  | .bayQuery tag _ | .portQuery tag _ | .jobQuery tag _ | .baypwr tag _ _ | .portpwr tag _ _ | .jobStop tag _ _
  | .cardRelease tag _ _ | .clipCancel tag _ | .clipQuery tag _ | .grace tag _ _ | .health tag _ _ _ _
  | .areaSet tag _ _ _ _ _ _ _ | .jobOpen tag _ _ _ _ _ _ | .clipAdd tag _ _ _ _ _ _ | .cardRead tag _ _ _ => some tag
  | _ => none

end Sys2Proof
end

