-- ==== Sys2Proof/Machine/Requests.lean ====
section
/-! DEFINITION. The frames by which the host spells requests, written from the layouts of R178 to R183. The part never writes
one; the statements speak of them. -/

namespace Sys2Proof.Machine

/-- The kind of a request (R180); none for a command that is no request. -/
def requestKind : Instr → Option Nat
  | .ident _ => some kindIdent
  | .plan _ _ => some kindPlan
  | .health _ _ _ _ _ => some kindHealth
  | .grace _ _ _ => some kindGrace
  | .baypwr _ _ _ => some kindBaypwr
  | .portpwr _ _ _ => some kindPortpwr
  | .areaSet _ _ _ _ _ _ _ _ => some kindAreaSet
  | .areaDrop _ _ => some kindAreaDrop
  | .jobOpen _ _ _ _ _ _ _ => some kindJobOpen
  | .clipAdd _ _ _ _ _ _ _ => some kindClipAdd
  | .jobSeal _ _ => some kindJobSeal
  | .jobStop _ _ _ => some kindJobStop
  | .clipCancel _ _ => some kindClipCancel
  | .cardRelease _ _ _ => some kindCardRelease
  | .jobRetire _ _ => some kindJobRetire
  | .cardRead _ _ _ _ => some kindCardRead
  | .bayQuery _ _ => some kindBayQuery
  | .portQuery _ _ => some kindPortQuery
  | .jobQuery _ _ => some kindJobQuery
  | .clipQuery _ _ => some kindClipQuery
  | .poolQuery _ => some kindPoolQuery
  | .reset _ => some kindReset
  | _ => none

/-- An entry slot of JOB_OPEN: port (1) and required flag (1) (R181). -/
def slotBytes (e : CopySlot) : List Byte := leBytes 1 e.port ++ leBytes 1 e.flag

/-- The body of a request (R180 to R183). -/
def requestBody : Instr → List Byte
  | .plan _ v | .areaDrop _ v | .jobSeal _ v | .jobRetire _ v | .bayQuery _ v | .portQuery _ v | .jobQuery _ v =>
    leBytes 1 v
  | .health _ selector w up lo => leBytes 1 selector ++ leBytes 1 w ++ leBytes 1 up ++ leBytes 1 lo
  | .grace _ selector seconds => leBytes 1 selector ++ leBytes 2 seconds
  | .baypwr _ v w | .portpwr _ v w | .jobStop _ v w | .cardRelease _ v w => leBytes 1 v ++ leBytes 1 w
  | .areaSet _ port start length unit reserve fill label =>
    leBytes 1 port ++ leBytes 1 label.length ++ leBytes 8 start ++ leBytes 8 length ++ leBytes 4 unit ++
      leBytes 8 reserve ++ leBytes 8 fill ++ label
  | .jobOpen _ job bay verify damage count slots =>
    leBytes 1 job ++ leBytes 1 bay ++ leBytes 1 verify ++ leBytes 1 damage ++ leBytes 1 count ++ slots.flatMap slotBytes
  | .clipAdd _ job label length runs expectFlag expect =>
    leBytes 1 job ++ leBytes 1 label.length ++ leBytes 1 runs.length ++ leBytes 1 expectFlag ++ leBytes 8 length ++
      leBytes 8 expect.toNat ++ label ++ runs.flatMap runBytes
  | .clipCancel _ v | .clipQuery _ v => leBytes 2 v
  | .cardRead _ bay start count => leBytes 1 bay ++ leBytes 4 start ++ leBytes 2 count
  | _ => []

/-- The frame of a request: no flag, the tag the host chose (R166, R179). -/
def requestFrame (c : Instr) : Option (List Byte) :=
  match requestKind c, c.tag? with
  | some kind, some tag => some (frameOf kind 0 tag (requestBody c))
  | _, _ => none

end Sys2Proof.Machine
end

