-- ==== Sys2Proof/Safety.lean ====
section
/-! DEFINITION. What every state of the part should satisfy: the invariants that the rules state or imply, each by itself;
and the words in which the statements speak of replies, grants, attempts and links. -/

namespace Sys2Proof.Machine

/-- A bay's record agrees with itself: the lamp shows the first row of the table whose condition holds (R42); OFF is the
state without power (R29, R30); a card is known exactly while MOUNTED, the monitor runs exactly then (R32, R36, R63), and the
probe timer exactly while PROBING (R31 to R34); without a bound job the lock is DISENGAGED and CLEAR false (2.1, R40, R41);
the health settings are in their ranges, LO less than UP (R67). -/
def BayOk (x : Bay) : Prop :=
  x.lamp = lampOf x ∧ (x.state = .off ↔ x.power = .off) ∧ (x.state = .mounted ↔ x.sig.isSome = true) ∧
    (x.state = .mounted ↔ x.health.running = true) ∧ (x.state = .probing ↔ x.probeTimer.isSome = true) ∧
    (x.job = none → x.lock = .disengaged ∧ x.clear = false) ∧
    4 ≤ x.health.w ∧ x.health.w ≤ 60 ∧ 1 ≤ x.health.up ∧ x.health.up ≤ 255 ∧ x.health.lo < x.health.up

/-- The arbiter and its lanes: no lane is held while a PLAN's question is with the pool manager (R49, R52); only lanes of the
plan in force are held (R48, R50); a bay holds at most one lane (R51). -/
def ArbiterOk (s : State) : Prop :=
  (s.arb.asking.isSome = true → ∀ n, (s.lane n).holder = none) ∧
    (∀ n, (s.lane n).holder.isSome = true → n.val < (Config.planRow s.arb.plan).lanes) ∧
    ∀ n m b, holderBay (s.lane n) = some b → holderBay (s.lane m) = some b → n = m

/-- Every bay, and the lanes that serve the bays. -/
def BaysOk (s : State) : Prop := (∀ b : Fin 8, BayOk (s.bay b)) ∧ ArbiterOk s

/-- The extents stand in the order of their indexes, all below 1024. -/
def IndexesRise (p : Pool) : Prop :=
  (p.extents.map Prod.fst).Pairwise (· < ·) ∧ ∀ e ∈ p.extents, e.1 < 1024

/-- The pool manager: indexes rising, no clip above the window (R72), the buffer memory in its canonical form. -/
def PoolOk (s : State) : Prop :=
  IndexesRise s.pool ∧ (∀ clip, heldCount s.pool clip ≤ s.pool.window) ∧ s.pool.mem.wf

/-- What an installed area has room for: F and the holds that are not void are within C − R (R101, R104, R105). -/
def RoomOk (x : Port) : Prop :=
  ∀ a, x.area = some a → a.fill + heldUnits x.holds ≤ a.length / a.unit - a.reserve

/-- A port's record agrees with itself: OFF is the state without power (R99); an area is installed exactly in READY and LOST
(R100, R102, R103, R109); an identity is known exactly with a drive attached or lost (R97, R98); the grace setting is in
range (R114); the tally stays below 3 while an area is installed (R128, R129); the drive link carries one chunk, or awaits
one claim, and only in READY (R122, R136, R137). -/
def PortOk (x : Port) : Prop :=
  (x.state = .off ↔ x.power = .off) ∧
    (x.area.isSome = true ↔ x.state = .ready ∨ x.state = .lost) ∧
    (x.identity.isSome = true ↔ x.state = .attached ∨ x.state = .ready ∨ x.state = .lost ∨ x.state = .faulted) ∧
    5 ≤ x.grace ∧ x.grace ≤ 120 ∧ x.tally ≤ 3 ∧ (x.area.isSome = true → x.tally < 3) ∧ RoomOk x ∧
    (x.write.isSome = true ∨ x.read.isSome = true ∨ x.engine.claim.isSome = true ∨ x.engine.state ≠ .idle →
      x.state = .ready) ∧
    (x.write.isSome = true → x.read = none ∧ x.engine.claim = none) ∧ (x.read.isSome = true → x.engine.claim = none)

/-- Every port. -/
def PortsOk (s : State) : Prop := ∀ p : Fin 4, PortOk (s.port p)

/-- The link interface: at most 128 notices (R174) and four host card reads (R58), each under its own number; while the link
is DOWN nothing of the host waits and no notice is queued (R174, R176). -/
def LinkOk (s : State) : Prop :=
  s.lki.notices.length ≤ 128 ∧ s.lki.reads.length ≤ 4 ∧ (s.lki.reads.map CardRead.id).Pairwise (· < ·) ∧
    (∀ r ∈ s.lki.reads, r.id < s.lki.nextRead) ∧
    (s.lki.up = false → s.lki.receive = [] ∧ s.lki.inWaiting = 0 ∧ s.lki.notices = [])

/-- The job and clip tables: at most one job of a number in 1 to 8 and of a bay (R1); at most 1024 clips, their ids
distinct and, with the id counter, in 1 to 65535 (R7); a clip stands once in the list of its job and in no other (R7,
R26), and a port at most once in a copy set (R1, R10). -/
def TablesOk (s : State) : Prop :=
  (s.jm.jobs.map Job.id).Nodup ∧ (∀ j ∈ s.jm.jobs, 1 ≤ j.id ∧ j.id ≤ 8) ∧ (s.jm.jobs.map Job.bay).Nodup ∧
    s.jm.clips.length ≤ 1024 ∧ (s.jm.clips.map Clip.id).Nodup ∧
    (∀ c ∈ s.jm.clips, 1 ≤ c.id ∧ c.id ≤ 65535) ∧ 1 ≤ s.jm.nextId ∧ s.jm.nextId ≤ 65535 ∧
    (∀ j ∈ s.jm.jobs, j.clips.Nodup ∧ (j.copySet.map CopyEntry.port).Nodup ∧
      ∀ i ∈ j.clips, ∃ c ∈ s.jm.clips, c.id = i ∧ c.job = j.id) ∧
    ∀ c ∈ s.jm.clips, (c.copies.map Copy.port).Nodup ∧ ∃ j ∈ s.jm.jobs, j.id = c.job ∧ c.id ∈ j.clips

/-- The replies that have been sent, in the order sent, and then the ready replies, oldest first. A reply is in it from the
moment it becomes ready (R167, R175). -/
def State.replyLog (s : State) : List Reply :=
  s.lki.sent.filterMap (fun f => match f.message with | .reply r => some r | .notice _ => none) ++
    s.lki.ready.map ReadyReply.reply

/-- The notices that have been sent, in the order sent, and then the queued notices. A notice is in it from the moment the
link interface has taken it into its queue (R174, R175). -/
def State.noticeLog (s : State) : List QueuedNotice :=
  s.lki.sent.filterMap (fun f => match f.message with | .reply _ => none | .notice n => some n) ++ s.lki.notices

/-- The reply of a request joins the replies, after those that the request's own effects make ready before it (the reads that
it ends), unless a link reset has come between the request and its decision (R167, R176). -/
def Replies (s t : State) (r : Reply) : Prop :=
  handOrphan s.lki r.kind r.tag = false → ∃ mid, s.replyLog ++ mid ++ [r] <+: t.replyLog

/-! ## Conditions on records and operands -/

/-- The lamp shows the first row of the table whose condition holds. -/
def LampRight (x : Bay) : Prop := x.lamp = lampOf x

/-- U is a power of two in 8 to 65,536, spelled by its exponent. -/
def UnitPower (u : Nat) : Prop := ∃ k, 3 ≤ k ∧ k ≤ 16 ∧ u = 2 ^ k

/-- The copy set that JOB_OPEN may carry: 1 to 4 entries, ports 0 to 3 and none twice, flags 0 or 1, one required. -/
def SlotsValid (count : Nat) (slots : List CopySlot) : Prop :=
  1 ≤ count ∧ count ≤ 4 ∧ count ≤ slots.length ∧ (∀ e ∈ slots.take count, e.port < 4 ∧ e.flag < 2) ∧
    ((slots.take count).map CopySlot.port).Nodup ∧ ∃ e ∈ slots.take count, e.flag = 1

/-! ## The end of a clip, as R24 words it -/

/-- A copy has succeeded (R12). -/
def Succeeded (verify : VerifyMode) (k : Copy) : Prop := k.state = .verified ∨ (k.state = .written ∧ verify = .off)

/-- The terminal decision over settled copies: SAFE when every required copy has succeeded, else PARTIAL when some copy
has, else FAILED; the cause is that of the first required copy that has not succeeded (R24). -/
def Decided (verify : VerifyMode) (ks : List Copy) (st : ClipState) (cause : Option Cause) : Prop :=
  ((∀ k ∈ ks, k.required = true → Succeeded verify k) → st = .safe ∧ cause = none) ∧
    ((∃ k ∈ ks, k.required = true ∧ ¬ Succeeded verify k) →
      ((∃ k ∈ ks, Succeeded verify k) → st = .partialSafe) ∧ ((∀ k ∈ ks, ¬ Succeeded verify k) → st = .failed)) ∧
    ∀ before k after, ks = before ++ k :: after → k.required = true → ¬ Succeeded verify k →
      (∀ x ∈ before, x.required = true → Succeeded verify x) → cause = k.cause

/-- The counts of a job after one more clip has ended in a state (R8). -/
def countsAfter (k : Counts) (st : ClipState) : Counts :=
  ⟨k.safe + (if st = .safe then 1 else 0), k.partialSafe + (if st = .partialSafe then 1 else 0),
    k.failed + (if st = .failed then 1 else 0), k.cancelled + (if st = .cancelled then 1 else 0)⟩

/-- Every other clip of a job is terminal. -/
def OthersEnded (s : State) (j : Job) (id : Nat) : Prop :=
  ∀ i ∈ j.clips, i ≠ id → ∀ c, s.clip? i = some c → clipTerminal c = true

/-- The test of a job whose clip `id` has ended: the last one to end makes a SEALED job DONE and a STOPPING one STOPPED,
with the word to the bay and the notice, and an OPEN job stays OPEN (R2, R3, R38, R162). -/
def JobTested (s t : State) (j j' : Job) (id : Nat) : Prop :=
  OthersEnded s j id →
    (j.state = .sealed → j'.state = .done ∧ Instr.bayJobState j.bay .done ∈ t.wire ∧
      Instr.noticeQueued (.job j.id .done j.stop j'.counts) ∈ t.wire) ∧
    (j.state = .stopping → j'.state = .stopped ∧ Instr.bayJobState j.bay .stopped ∈ t.wire ∧
      Instr.noticeQueued (.job j.id .stopped j.stop j'.counts) ∈ t.wire) ∧
    (j.state = .opened → j'.state = .opened)

/-- A LANDING clip has been decided over these copies: its record, the count, the notice, the closes of its placements,
and the test of its job (R8, R24, R107). -/
def ClipDecided (s t : State) (j : Job) (c : Clip) (ks : List Copy) : Prop :=
  ∃ st cause j', Decided j.verify ks st cause ∧
    t.clip? c.id = some { c with state := st, wait := none, cause := cause, running := none, copies := ks } ∧
    t.job? c.job = some j' ∧ j'.counts = countsAfter j.counts st ∧
    Instr.noticeQueued (.clip c.id c.job st none cause) ∈ t.wire ∧
    (∀ k ∈ ks, k.placement.isSome = true → Instr.placementClose k.port c.id ∈ t.wire) ∧ JobTested s t j j' c.id

/-- A copy that is not settled is DROPPED with cause CANCELLED (R11). -/
def droppedCopy (verify : VerifyMode) (k : Copy) : Copy :=
  if copySettled verify k then k else { k with state := .dropped, cause := some .cancelled, repair := none }

/-- The word to the port of each copy with a placement when its clip ends: a close for a copy that is kept, the
abandonment of the run of one that is dropped (R107, R108). -/
def runEnds (verify : VerifyMode) (c : Clip) : List Instr :=
  (c.copies.filter (fun k => k.placement.isSome)).map (fun k =>
    if copySettled verify k then .placementClose k.port c.id else .runAbandonment k.port c.id)

/-- A clip that was not LANDING has FAILED: its record, and in this order (log 28) its notice, the discard of its extents
if it was READING, and the words to its ports, after what was sent before it; the count, and the test of its job. The
counts are those of this clip alone where no admission follows (R8, R15, R21, R23). -/
def ClipFailed (s t : State) (j : Job) (c : Clip) (cause : Cause) (wire discard : List Instr) (alone : Prop) : Prop :=
  t.clip? c.id = some { c with
    state := .failed, wait := none, cause := some cause, running := none, copies := c.copies.map (droppedCopy j.verify) } ∧
    wire ++ [.noticeQueued (.clip c.id c.job .failed none (some cause))] ++ discard ++ runEnds j.verify c <+: t.wire ∧
    ∃ j', t.job? c.job = some j' ∧ j.counts.failed + 1 ≤ j'.counts.failed ∧
      (alone → j'.counts = countsAfter j.counts .failed) ∧ JobTested s t j j' c.id

/-- No clip of a job can be tried when one of its clips has ended: the others are terminal, an admission is in progress,
which the admission point is held over, or the conditions of R14 fail (R13, R14). -/
def NoneFollows (s : State) (j : Job) (id : Nat) : Prop :=
  OthersEnded s j id ∨ (s.view j.bay).adm.isSome = true ∨ (s.view j.bay).sig ≠ some j.sig ∨ (s.view j.bay).repairs ≠ [] ∨
    (j.state ≠ .opened ∧ j.state ≠ .sealed)

/-- The read of a clip of length 0 has completed at its admission with the digest 0, `c` being the clip as its answers
leave it: the bay is given no work for it (log 45); a LANDING clip has its trailers appended and is decided at once when
every copy is settled; a mismatch fails it, or sends it back with the mismatch marked (R18, R20, R21, R24). -/
def ReadAtOnce (s t : State) (b : Fin 8) (c : Clip) (wire : List Instr) : Prop :=
  (∀ w : ReadWork, w.item = .clip c.id → Instr.bayReadWork b w ∈ t.wire → Instr.bayReadWork b w ∈ s.wire) ∧
    (c.expected = none ∨ c.expected = some 0#64 →
      ((∃ k ∈ c.copies, copySettled (s.verifyOfClip c) k = false) →
        t.clip? c.id = some { c with
          state := .landing, wait := none, attempts := c.attempts + 1, bytesRead := 0, running := none
          digest := some 0#64 }) ∧
      (∀ j k pl, s.job? c.job = some j → copyOn c k.port = some k → k.state = .writing → k.placement = some pl →
        Instr.trailerAppend k.port c.id ⟨c.job, k.attempts, 0, 0#64, j.sig, c.damage, pl.start, c.label⟩ ∈ t.wire) ∧
      ∀ j, (∀ k ∈ c.copies, copySettled (s.verifyOfClip c) k = true) → TablesOk s → s.job? c.job = some j →
        OthersEnded s j c.id →
        ClipDecided s t j { c with attempts := c.attempts + 1, bytesRead := 0, digest := some 0#64 } c.copies) ∧
    ∀ v, c.expected = some v → v ≠ 0#64 → Instr.clipDiscard c.id ∈ t.wire ∧
      (c.mismatch = true ∨ 3 ≤ c.attempts + 1 →
        (∃ y, t.clip? c.id = some y ∧ y.state = .failed ∧ y.cause = some .sourceDigest) ∧
          ∀ j, TablesOk s → s.job? c.job = some j → ClipFailed s t j
            { c with attempts := c.attempts + 1, bytesRead := 0, digest := some 0#64 } .sourceDigest wire [.clipDiscard c.id]
            (OthersEnded s j c.id)) ∧
      (c.mismatch = false → c.attempts + 1 < 3 →
        (∀ k ∈ c.copies, k.state = .writing → Instr.runAbandonment k.port c.id ∈ t.wire) ∧
          ∃ y, t.clip? c.id = some y ∧ y.mismatch = true)

/-- The state in which a clip has ended, `c` being its record then, in a job that has other clips left: the record, the job's
count, and `wire` in transit (R8). -/
def clipEnded (s : State) (j : Job) (c : Clip) (wire : List Instr) : State :=
  (({ s with wire := wire } : State).modClip c.id (fun _ => c)).modJob j.id
    (fun k => { k with counts := countsAfter k.counts c.state })

/-- The state `u` in which the decision of a LANDING clip has been tested, `c` being its record as its copies stand then and
`wire` in transit before: the clip stays while a copy is not settled, else it is decided. It is spelled out where the job has
other clips left (R24, R107; the order of the messages log 28). -/
def DecisionLeaves (s : State) (j : Job) (c : Clip) (wire : List Instr) (u : State) : Prop :=
  ((∃ k ∈ c.copies, copySettled j.verify k = false) → u = ({ s with wire := wire } : State).modClip c.id (fun _ => c)) ∧
    ((∀ k ∈ c.copies, copySettled j.verify k = true) → ∃ st cause, Decided j.verify c.copies st cause ∧
      (¬ OthersEnded s j c.id →
        u = clipEnded s j { c with state := st, wait := none, cause := cause, running := none }
          (wire ++ [.noticeQueued (.clip c.id c.job st none cause)] ++ runEnds j.verify c)))

/-- The trailer appends of a clip of length 0 that becomes LANDING with a digest (R20, R124). -/
def zeroTrailers (j : Job) (c : Clip) (v : Digest) : List Instr :=
  if c.length = 0 then
    (c.copies.filter (fun k => decide (k.state = .writing))).filterMap (fun k => k.placement.map (fun pl =>
      .trailerAppend k.port c.id ⟨c.job, k.attempts, 0, v, j.sig, c.damage, pl.start, c.label⟩))
  else []

/-- The abandonments of the runs of a clip that is sent back for a re-read, one for each WRITING copy (R22, R108). -/
def rerunAbandonments (c : Clip) : List Instr :=
  (c.copies.filter (fun k => decide (k.state = .writing))).map (fun k => .runAbandonment k.port c.id)

/-- The state `u` in which the read of a READING clip has completed with a digest, right before the admission point that this
is, `wire` being in transit before: LANDING, its decision tested; FAILED by a mismatch, spelled out where the job has other
clips left; or sent back for a re-read in a job that is not STOPPING (R20 to R22). -/
def ReadLeaves (s : State) (j : Job) (c : Clip) (v : Digest) (count : Nat) (wire : List Instr) (u : State) : Prop :=
  (c.expected = none ∨ c.expected = some v →
    DecisionLeaves s j { c with state := .landing, digest := some v, bytesRead := count, running := none }
      (wire ++ zeroTrailers j c v) u) ∧
    ∀ x, c.expected = some x → x ≠ v →
      (c.mismatch = true ∨ 3 ≤ c.attempts → ¬ OthersEnded s j c.id →
        u = clipEnded s j { c with
            state := .failed, wait := none, cause := some .sourceDigest, running := none, digest := some v
            bytesRead := count, copies := c.copies.map (droppedCopy j.verify) }
          (wire ++ [.noticeQueued (.clip c.id c.job .failed none (some .sourceDigest)), .clipDiscard c.id] ++
            runEnds j.verify c)) ∧
      (c.mismatch = false → c.attempts < 3 → j.state ≠ .stopping →
        u = ({ s with wire := wire ++ .clipDiscard c.id :: rerunAbandonments c } : State).modClip c.id (fun _ => { c with
          state := .queued, running := none, digest := none, bytesRead := 0, damage := [], mismatch := true
          copies := c.copies.map (fun k =>
            if k.state = .writing then { k with state := .pending, placement := none } else k) }))

/-- A lane's report that is late is dropped and the records stand; `sent` is what its taking is answered with all the same (R55,
R56; log 51). -/
def LateDropped (s t : State) (m : Instr) (sent : List Instr) : Prop :=
  m ∈ s.jm.late → t = { s with wire := s.wire.erase m ++ sent, jm := { s.jm with late := s.jm.late.erase m } }

/-! ## The choice of a repair source, as R143 words it -/

/-- A port that may be the source of a repair of the clip's copy on p: another one, READY, that holds a VERIFIED copy of
the clip and the copy's run (R143; log 14). -/
def MayServe (s : State) (c : Clip) (p q : Fin 4) : Prop :=
  q ≠ p ∧ (s.port q).state = .ready ∧ takesCopy (s.port q) c.id = true ∧ ∃ k, copyOn c q = some k ∧ k.state = .verified

/-- The source chosen: the card when the job is not away and the card not excluded, else the lowest port that may serve, else
none (R143). -/
def Chosen (s : State) (here : Prop) (c : Clip) (p : Fin 4) (excluded : Bool) : RepairSource → Prop
  | .card => excluded = false ∧ here
  | .port q => (excluded = true ∨ ¬ here) ∧ MayServe s c p q ∧ ∀ r, r < q → ¬ MayServe s c p r
  | .none => (excluded = true ∨ ¬ here) ∧ ∀ r, ¬ MayServe s c p r

/-- What the choice leaves: the copy's record, and the word to the source; the read from the card starts from the initial running
state; without a source the copy is FAILED (R91, R142 to R145). `c` is the clip as it was, `k` the copy but for what the choice sets. -/
def SourceGiven (t : State) (j : Job) (c : Clip) (k : Copy) (excluded : Bool) : RepairSource → Prop
  | .card =>
    (∃ c', t.clip? c.id = some c' ∧ copyOn c' k.port = some { k with
      state := .repairing, repair := some ⟨.card, excluded, some ⟨BitVec.allOnes 64, 0⟩, true⟩ }) ∧
      Instr.bayReadWork j.bay ⟨.repair c.id k.port, c.length, c.runs, j.damage, c.damage⟩ ∈ t.wire ∧
      ⟨c.id, k.port⟩ ∈ (t.view j.bay).repairs ∧ t.loadState (.repair c.id k.port) = ⟨BitVec.allOnes 64, 0⟩
  | .port q =>
    (∃ c', t.clip? c.id = some c' ∧ copyOn c' k.port = some { k with
      state := .repairing, repair := some ⟨.port q, excluded, none, true⟩ }) ∧
      ∀ x pl, copyOn c q = some x → x.placement = some pl →
        Instr.siblingAppend q ⟨c.id, c.length, c.digest.getD 0#64, pl.start, 0, some k.port⟩ ∈ t.wire
  | .none =>
    ∃ c', t.clip? c.id = some c' ∧
      copyOn c' k.port = some { k with state := .failed, cause := some .noRepairSource, repair := none }

/-- A REPAIRING copy that finds no source is FAILED, and its LANDING clip is decided when it was the last copy not
settled; `k` is the copy but for what the choice sets (R24, R143). -/
def NoSourceDecides (s t : State) (j : Job) (c : Clip) (k : Copy) : Prop :=
  TablesOk s → c.state = .landing → OthersEnded s j c.id →
    (∀ x ∈ c.copies, x.port ≠ k.port → copySettled j.verify x = true) →
    ClipDecided s t j c (c.copies.map (fun x =>
      if x.port = k.port then { k with state := .failed, cause := some .noRepairSource, repair := none } else x))

/-! ## The messages of a cut, as R159 lists them -/

/-- The messages that end a copy's repair read (R149). -/
def repairEnd (bay : Fin 8) (id : Nat) (k : Copy) : List Instr :=
  match k.repair with
  | none => []
  | some r =>
    .repairDiscard id k.port ::
      match r.source with
      | .none => []
      | .card => [.workItemEnded bay (.repair id k.port)]
      | .port q => [.siblingCancel q id k.port]

/-- The messages to the port of a dropped copy (R159, step 4). -/
def droppedMessages (id : Nat) (k : Copy) : List Instr :=
  .trailerRemoval k.port id :: .verifyRemoval k.port id ::
    (if k.placement.isSome then [.runAbandonment k.port id] else [])

/-- The five steps of R159 for a READING or LANDING clip of a bay's job. -/
def cutSequence (verify : VerifyMode) (bay : Fin 8) (c : Clip) : List Instr :=
  (if c.state = .reading then [.workItemEnded bay (.clip c.id)] else []) ++
    (c.copies.filter (fun k => decide (k.state = .repairing))).flatMap (repairEnd bay c.id) ++ [.clipDiscard c.id] ++
    (c.copies.filter (fun k => !copySettled verify k)).flatMap (droppedMessages c.id) ++
    (c.copies.filter (fun k => copySettled verify k && k.placement.isSome)).map (fun k => .placementClose k.port c.id)

/-! ## Cancelling clips, as R155 to R161 word it -/

/-- The record of a clip that is cancelled: no wait reason, no running digest, and every copy that is not settled DROPPED
(R157, R158). -/
def cancelledRecord (verify : VerifyMode) (c : Clip) : Clip :=
  { c with state := .cancelled, wait := none, cause := none, running := none, copies := c.copies.map (droppedCopy verify) }

/-- What the cancelling of a QUEUED or WAITING clip of a bay's job sends: its notice, the closes of kept copies, and while
it is being admitted a withdrawal to each port that has answered fits, or an abandonment to each that was sent a
confirmation (R157; log 13, log 28). -/
def cancelSent (s : State) (verify : VerifyMode) (b : Fin 8) (c : Clip) : List Instr :=
  .noticeQueued (.clip c.id c.job .cancelled none none) ::
    (c.copies.filter (fun k => copySettled verify k && k.placement.isSome)).map (fun k => .placementClose k.port c.id) ++
    match (s.view b).adm with
    | none => []
    | some a =>
      if a.clip = c.id then
        match a.phase with
        | .trying => []
        | .enquiring => (fitPorts a.answers).map (fun p => .holdWithdrawal p c.id)
        | .confirming => a.confirmed.map (fun p => .runAbandonment p c.id)
      else []

/-- What the cut of a READING or LANDING clip of a bay's job sends (R158, R159; log 28). -/
def cutSent (verify : VerifyMode) (b : Fin 8) (c : Clip) : List Instr :=
  .noticeQueued (.clip c.id c.job .cancelled none none) :: cutSequence verify b c

/-- The clips of a job that a test hits, in clip-list order. -/
def listed (s : State) (j : Job) (hit : Clip → Bool) : List Clip := (j.clips.filterMap s.clip?).filter hit

/-- A job has been stopped: the clips that a test hits are CANCELLED and every other clip stands; the counts; the job's
record; after the notices and messages of its clips the word to the bay and, when it is STOPPED, its notice, CLEAR being
false then (R155, R161). -/
def JobStopped (s t : State) (j : Job) (hit : Clip → Bool) (st : JobState) (mode : StopMode) (forced : Bool)
    (wire : List Instr) : Prop :=
  (∀ i ∈ j.clips, ∀ c, s.clip? i = some c → t.clip? i = some (if hit c then cancelledRecord j.verify c else c)) ∧
    (∀ i, i ∉ j.clips → t.clip? i = s.clip? i) ∧
    ∃ counts rest, counts = { j.counts with cancelled := j.counts.cancelled + (listed s j hit).length } ∧
      t.job? j.id = some { j with state := st, stop := some mode, forced := forced, counts := counts } ∧
      t.wire = wire ++ rest ∧ Instr.bayJobState j.bay st ∈ rest ∧
      (st = .stopped → Instr.noticeQueued (.job j.id .stopped (some mode) counts) ∈ rest ∧ (t.view j.bay).clear = false)

/-- A job has been stopped by a CUT: the QUEUED and WAITING clips first, then the READING and LANDING ones (R161). -/
def JobCut (s t : State) (j : Job) (forced : Bool) (wire : List Instr) : Prop :=
  JobStopped s t j (fun c => !clipTerminal c) .stopped .cut forced
    (wire ++ (listed s j (fun c => decide (c.state = .queued ∨ c.state = .waiting))).flatMap (cancelSent s j.verify j.bay) ++
      (listed s j (fun c => decide (c.state = .reading ∨ c.state = .landing))).flatMap (cutSent j.verify j.bay))

/-! ## Admission points -/

/-- The clips that a job's admission tries, in their order (R14). -/
def tryList (s : State) (j : Job) : List Nat :=
  j.clips.filter (fun i => (s.clip? i).any (fun c => decide (c.state = .waiting))) ++
    j.clips.filter (fun i => (s.clip? i).any (fun c => decide (c.state = .queued) && decide (1 ≤ c.attempts))) ++
    j.clips.filter (fun i => (s.clip? i).any (fun c => decide (c.state = .queued) && decide (c.attempts = 0)))

/-- The conditions of R14: the job is OPEN or SEALED and not away, no clip of it is READING, and its bay has no
card-sourced repair outstanding. -/
def MayAdmit (s : State) (b : Fin 8) (j : Job) : Prop :=
  (j.state = .opened ∨ j.state = .sealed) ∧ (s.view b).sig = some j.sig ∧
    (∀ i ∈ j.clips, ∀ c, s.clip? i = some c → c.state ≠ .reading) ∧ (s.view b).repairs = []

/-- Nothing has followed: the records stand, no admission is in progress, nothing more has been sent. -/
def Unmoved (u t : State) (b : Fin 8) : Prop :=
  t.jm.clips = u.jm.clips ∧ t.jm.jobs = u.jm.jobs ∧ (t.view b).adm = none ∧ t.wire = u.wire

/-- An admission point of a bay with no admission in progress, `u` being the state before it: nothing where the conditions of R14
fail, else an admission over the clips in their order, of which `goes` says what it leaves (R13, R14). -/
def PointWith (goes : State → Admission → Prop) (u t : State) (b : Fin 8) : Prop :=
  ∀ j, u.jobOf b = some j → (¬ MayAdmit u b j → Unmoved u t b) ∧
    (MayAdmit u b j → goes u ⟨.trying, 0, tryList u j, [], [], [], false, false⟩)

/-- The clip `c` has been tried in the admission `a` of a job's bay, `u` being the state before it. It is enquired for at
the ports of its PENDING copies; READING at once when it has none (log 52), its read starting from the initial running
state, and its read complete with it at length 0, which is an admission point held over to the end of this admission; or
FAILED with SOURCE_LOST at its fourth start, the next clip being tried then. `goes` says what is left of what follows (R13
to R16, R18, R20). -/
def Tried (goes : State → Admission → Prop) (u t : State) (b : Fin 8) (j : Job) (a : Admission) (c : Clip) : Prop :=
  (c.attempts < 3 → pendingPorts c ≠ [] → t.jm.clips = u.jm.clips ∧ t.jm.jobs = u.jm.jobs ∧
    (t.view b).adm = some { a with phase := .enquiring, clip := c.id, awaiting := pendingPorts c, answers := [] } ∧
    t.wire = u.wire ++ (pendingPorts c).map (fun q => Instr.holdEnquiry q c.id c.length)) ∧
  (c.attempts < 3 → pendingPorts c = [] → c.length ≠ 0 → (t.view b).adm = none ∧
    t.clip? c.id = some { c with
      state := .reading, wait := none, attempts := c.attempts + 1, bytesRead := 0
      running := some ⟨BitVec.allOnes 64, 0⟩ } ∧
    t.wire = u.wire ++ [Instr.bayReadWork b ⟨.clip c.id, c.length, c.runs, j.damage, []⟩] ∧
    t.loadState (.clip c.id) = ⟨BitVec.allOnes 64, 0⟩) ∧
  (c.attempts < 3 → pendingPorts c = [] → c.length = 0 → ReadAtOnce u t b c u.wire ∧
    (TablesOk u → ∃ v, ReadLeaves u j { c with
        state := .reading, wait := none, attempts := c.attempts + 1, bytesRead := 0
        running := some ⟨BitVec.allOnes 64, 0⟩ } 0#64 0 u.wire v ∧ PointWith goes v t b)) ∧
  (3 ≤ c.attempts → (a.rest = [] → a.heldOver = false → (t.view b).adm = none) ∧
    (∀ k, TablesOk u → u.job? c.job = some k → ClipFailed u t k c .sourceLost u.wire [] (OthersEnded u k c.id)) ∧
    Instr.noticeQueued (.clip c.id c.job .failed none (some .sourceLost)) ∈ t.wire ∧
    t.clip? c.id = some { c with
      state := .failed, wait := none, cause := some .sourceLost, running := none
      copies := c.copies.map (droppedCopy (u.verifyOfClip c)) } ∧
    (TablesOk u → ¬ OthersEnded u j c.id → goes (clipEnded u j { c with
        state := .failed, wait := none, cause := some .sourceLost, running := none
        copies := c.copies.map (droppedCopy j.verify) }
      (u.wire ++ [.noticeQueued (.clip c.id c.job .failed none (some .sourceLost))] ++ runEnds j.verify c)) a))

/-- What is left of a bay where its admission `a` goes on to the clips that it still has to try, `u` being the state before it
but for the admission's own record: the first of them that still waits is tried (`Tried`); when none does, the admission ends,
and a point held over runs admission once more (R13, R14). The list of clips is not longer than the clip table. The number
bounds how many moves, from one clip to the next, are spelled out. -/
def GoesOn : Nat → State → State → Fin 8 → Admission → Prop
  | 0, _, _, _, _ => True
  | n + 1, u, t, b, a => ∀ j, u.jobOf b = some j →
    (a.rest.length ≤ u.jm.clips.length → (∀ i ∈ a.rest, ∀ c, u.clip? i = some c → clipWaits c = false) →
      (a.heldOver = false → Unmoved u t b) ∧ (a.heldOver = true → PointWith (fun v x => GoesOn n v t b x) u t b)) ∧
    ∀ passed i rest c, a.rest = passed ++ i :: rest → passed.length ≤ u.jm.clips.length → i ∈ j.clips →
      (∀ x ∈ passed, ∀ y, u.clip? x = some y → clipWaits y = false) → u.clip? i = some c → clipWaits c = true →
      Tried (fun v x => GoesOn n v t b x) u t b j { a with rest := rest } c

/-- What an admission point leaves of a bay with no admission in progress, `wire` being in transit before it: nothing
where the conditions fail or no clip waits; else the first clip in order is tried, and the next one where it fails (R13 to
R16, R18, R20). -/
def PointTaken (s t : State) (b : Fin 8) (wire : List Instr) : Prop :=
  PointWith (fun v x => GoesOn 2 v t b x) { s with wire := wire } t b

/-- An admission point of a bay has followed the state `u`: it is held over where an admission is in progress, nothing else
changing, and taken where none is (R13). -/
def PointFollows (u t : State) (b : Fin 8) : Prop :=
  (∀ a, (u.view b).adm = some a → t.jm.clips = u.jm.clips ∧ t.jm.jobs = u.jm.jobs ∧ t.wire = u.wire ∧
    (t.view b).adm = some { a with heldOver := true }) ∧
    ((u.view b).adm = none → PointTaken u t b u.wire)

/-! ## The ends of card-sourced repairs -/

/-- The card-sourced repairs given to the bay of a job, without the one of a clip's copy on a port (R144). -/
def otherRepairs (s : State) (j : Job) (id : Nat) (p : Fin 4) : List CardRepair :=
  (s.view j.bay).repairs.filter (fun r => !(r.clip == id && decide (r.port = p)))

/-- The state with no card-sourced repair given to the bay of a job. -/
def noRepairs (s : State) (j : Job) : State := s.setView j.bay { s.view j.bay with repairs := [] }

/-- The source chosen anew after the card has failed as the source of the repair of a clip's copy `k`, `wire` being in transit
before the choice: a sibling port is sent the append, or the copy is FAILED and its clip's decision tested (R143, R144). -/
def CardFailLeaves (s : State) (j : Job) (c : Clip) (k : Copy) (wire : List Instr) (u : State) : Prop :=
  ∃ src, Chosen s ((s.view j.bay).sig = some j.sig) c k.port true src ∧
    (∀ q x pl, src = .port q → copyOn c q = some x → x.placement = some pl →
      u = ({ s with wire := wire ++
          [.siblingAppend q ⟨c.id, c.length, c.digest.getD 0#64, pl.start, 0, some k.port⟩] } : State).modClip c.id
        (fun _ => setCopyOn k.port (fun _ => { k with repair := some ⟨.port q, true, none, true⟩ }) c)) ∧
    (src = .none → DecisionLeaves s j (setCopyOn k.port (fun _ =>
      { k with state := .failed, cause := some .noRepairSource, repair := none }) c) wire u)

/-- The last card-sourced repair given to the bay of a job has ended with the failure of its copy `k`, which is an admission
point of the bay: the messages that end the repair, the copy FAILED, the clip's decision, and what the point leaves (R13,
R144, R149). -/
def LastRepairFails (s t : State) (j : Job) (c : Clip) (k : Copy) (cause : Cause) (wire : List Instr) : Prop :=
  ∃ u, DecisionLeaves (noRepairs s j) j
      (setCopyOn k.port (fun _ => { k with state := .failed, cause := some cause, repair := none }) c)
      (wire ++ repairEnd j.bay c.id k) u ∧
    (u.view j.bay).adm = (s.view j.bay).adm ∧ PointFollows u t j.bay

/-! ## Writes -/

/-- The write of a queue entry as R122 to R124 and R126 place it: an extent in its run at its own place, a trailer in the
first block after the run's data units. `a` is the area, `p` the port. That the run's start is the one that the entry keeps is
the model's reading (log 37). -/
def WriteOf (mem : Memory) (p : Fin 4) (a : Area) (w : DriveWrite) : WriteEntry → Prop
  | .extent i c n start =>
    w = ⟨1, start + c.seq * (4194304 / a.blockSize), padTo a.blockSize (Memory.readBytes mem (i * 4194304) n)⟩
  | .trailer id f =>
    w = ⟨1, f.runStart + ceilDiv f.length (a.unit * a.blockSize) * a.unit, padTo a.blockSize (trailerRecord p id f)⟩

/-- The entries of a clip in a port's write queue (R128). -/
def clipEntries (x : Port) (clip : Nat) : List WriteEntry :=
  x.writeQ.filter (fun e => match e with | .extent _ c _ _ => c.clip == clip | .trailer id _ => id == clip)

/-- The release of the extents that entries name, in their order; none where they name none (R76, R128). -/
def releaseOf (p : Fin 4) (es : List WriteEntry) : List Instr :=
  match es.filterMap (fun e => match e with | .extent i c _ _ => some (i, c) | .trailer _ _ => none) with
  | [] => []
  | x :: xs => [.extentRelease p (x :: xs)]

/-- A port whose copy of a clip is lost to write failure: the copy given up, the clip's entries gone, the write at its end, and
the tally one more (R128). -/
def withoutCopy (x : Port) (clip : Nat) : Port :=
  { x with
    openPl := x.openPl.map (fun o => if o.clip = clip then { o with givenUp := true } else o)
    writeQ := x.writeQ.filter (fun e => match e with | .extent _ c _ _ => c.clip != clip | .trailer id _ => id != clip)
    write := none
    tally := x.tally + 1 }

/-! ## The next chunk of a drive link, as R136 to R139 and R145 give it -/

/-- The write side is ready (R122). -/
def WriteSide (x : Port) : Prop := x.writeQ ≠ []

/-- The verify side is ready: an entry in the queue, an engine that is not WAITING and does not wait for an
acknowledgment (the model's reading, log 26), and a free chunk buffer (R137, R138, R145). -/
def VerifySide (x : Port) : Prop :=
  x.verifyQ ≠ [] ∧ x.engine.state ≠ .waiting ∧ x.engine.ack = false ∧
    (x.engine.buffer0 = none ∨ x.engine.buffer1 = none)

/-- The sharing record after the next chunk is given: while both sides are ready each has its share of the plan's ratio in
turn, and one side alone takes the chunk (R137). -/
def ShareGiven (plan : Fin 4) (x : Port) (sh : Share) : Prop :=
  (WriteSide x ∧ VerifySide x ∧
      sh = (if x.share.taken < (if x.share.side = .write then [1, 3, 1, 1][plan.val]! else [1, 1, 2, 1][plan.val]!)
        then ⟨x.share.side, x.share.taken + 1⟩ else ⟨if x.share.side = .write then .verify else .write, 1⟩)) ∨
    (WriteSide x ∧ ¬ VerifySide x ∧ sh = ⟨.write, if x.share.side = .write then x.share.taken + 1 else 1⟩) ∨
    (¬ WriteSide x ∧ VerifySide x ∧ sh = ⟨.verify, if x.share.side = .verify then x.share.taken + 1 else 1⟩)

/-- The verify engine at its chunk: an IDLE one starts the entry at the head with its digest unit afresh (R93, R136). -/
def engineAt (x : Port) : Engine :=
  if x.engine.state = .idle then { Engine.reset with state := .reading, unit := some ⟨BitVec.allOnes 64, 0⟩ } else x.engine

/-- The verify engine's chunk of the entry `e` at the head, the port being `x` before it and `y` after. The start of a
verify entry is reported. Its next chunk of data is read at its place in the run, and the trailer after the last one or
when the data cannot be read; a sibling entry's is read into the extent that the engine has, which it claims first, and
that claim does not count as a chunk (R93, R136, R138, R139, R145; log 26). -/
def EngineMoves (p : Fin 4) (a : Area) (e : VerifyEntry) (sh : Share) (x y : Port) (sent : List Instr) : Prop :=
  ∀ g first blocks, g = engineAt x → first = e.runStart + g.chunk * (4194304 / a.blockSize) →
    blocks = ceilDiv (min 4194304 (e.length - g.chunk * 4194304)) a.blockSize →
      (e.repairPort = none →
        sent = (if x.engine.state = .idle then
          .verifyStart p e.clip :: (if e.length = 0 then [.verifyDigestReport p e.clip (some 0#64)] else []) else []) ∧
        ∃ r, y = { x with share := sh, engine := g, read := some r } ∧
          (g.unreadable = true ∨ e.length ≤ g.chunk * 4194304 →
            r = ⟨.trailer, e.runStart + e.dataUnits * a.unit, 1, false⟩) ∧
          (g.unreadable = false → g.chunk * 4194304 < e.length → r = ⟨.data, first, blocks, false⟩)) ∧
      ∀ rp, e.repairPort = some rp →
        (∀ i, g.extent = some i → sent = [] ∧
          y = { x with share := sh, engine := g, read := some ⟨.sibling, first, blocks, false⟩ }) ∧
        (g.extent = none → sent = [.extentClaim (.engine p) ⟨e.clip, .repair, some rp, g.chunk⟩] ∧
          y = { x with engine := { g with claim := some ⟨e.clip, .repair, some rp, g.chunk⟩ } })

/-- The port, `x` before it, gives its drive link to the next chunk: the write of the entry at the head of the write queue
or the verify engine's chunk, by the sharing record; and to none while the link is in use, the port not READY, or no side
ready. `sent` is what it sends (R122, R136, R137). That a claim which is out holds the link, and counts as no chunk, is the
model's reading (log 26), and so is it that a write entry is started where its run is no longer open (log 37). -/
def LinkGiven (t : State) (p : Fin 4) (x : Port) (sent : List Instr) : Prop :=
  (x.state ≠ .ready ∨ x.write.isSome = true ∨ x.read.isSome = true ∨ x.engine.claim.isSome = true ∨
      (¬ WriteSide x ∧ ¬ VerifySide x) → t.port p = x ∧ sent = []) ∧
    ∀ a sh, x.state = .ready → x.write = none → x.read = none → x.engine.claim = none → x.area = some a →
      ShareGiven t.arb.plan x sh →
      (sh.side = .write → sent = [] ∧ ∃ e rest w, x.writeQ = e :: rest ∧ WriteOf t.pool.mem p a w e ∧
        t.port p = { x with write := some w, share := sh }) ∧
      (sh.side = .verify → ∃ e rest, x.verifyQ = e :: rest ∧ EngineMoves p a e sh x (t.port p) sent)

/-! ## Removals from a port's queues -/

/-- A removal from a port's write queue while a write is in progress: the write of an entry that the removal does not hit
goes on; that of an entry which it hits is abandoned, with no release and no report, and only the entry after it can then
be written (R121, R130). -/
def WriteRemoved (s t : State) (p : Fin 4) (m : Instr) (hit : WriteEntry → Bool) : Prop :=
  ∀ e rest, (s.port p).write.isSome = true → (s.port p).writeQ = e :: rest →
    (hit e = false → t.wire = s.wire.erase m ∧
      t.port p = { s.port p with writeQ := e :: rest.filter (fun x => !hit x) }) ∧
    (hit e = true →
      (∀ w, (t.port p).write = some w → ∃ f more a, rest.filter (fun x => !hit x) = f :: more ∧
        (s.port p).area = some a ∧ WriteOf s.pool.mem p a w f) ∧
      (∀ xs, .extentRelease p xs ∈ t.wire → .extentRelease p xs ∈ s.wire) ∧
      (∀ i, .trailerWriteCompletion p i ∈ t.wire → .trailerWriteCompletion p i ∈ s.wire) ∧
      ((s.port p).verifyQ = [] → t.wire = s.wire.erase m))

/-- A removal from a port's verify queue: the work of an entry that the removal does not hit goes on where it holds the
link; that of an entry which it hits is abandoned and nothing of it reported, and the engine is IDLE or begins the entry
after it (R135, R141). -/
def VerifyRemoved (s t : State) (p : Fin 4) (m : Instr) (hit : VerifyEntry → Bool) : Prop :=
  ∀ e rest, (s.port p).verifyQ = e :: rest →
    (hit e = false →
      (s.port p).write.isSome = true ∨ (s.port p).read.isSome = true ∨ (s.port p).engine.claim.isSome = true →
      t.wire = s.wire.erase m ∧ t.port p = { s.port p with verifyQ := e :: rest.filter (fun x => !hit x) }) ∧
    (hit e = true → (s.port p).engine.state ≠ .idle →
      (t.port p).engine.chunk = 0 ∧ (t.port p).engine.extent = none ∧ (t.port p).engine.ack = false ∧
      (t.port p).engine.unreadable = false ∧ (t.port p).engine.noValue = false ∧
      (∀ i v, .verifyCompletion p i v ∈ t.wire → .verifyCompletion p i v ∈ s.wire) ∧
      (∀ i q d, .siblingReadCompletion p i q d ∈ t.wire → .siblingReadCompletion p i q d ∈ s.wire) ∧
      ((s.port p).write.isSome = true ∨ ((s.port p).writeQ = [] ∧ rest.filter (fun x => !hit x) = []) →
        (t.port p).engine = Engine.reset ∧ (t.port p).read = none ∧
          (s.pool.waits = [] → t.wire = s.wire.erase m)))

/-! ## Records whose fields fit the places that the layouts give them -/

/-- A clip record as the manifest entry can carry it (R185). -/
def ClipFits (c : Clip) : Prop :=
  c.id < 65536 ∧ c.job < 256 ∧ c.attempts < 256 ∧ c.label.length < 256 ∧ c.runs.length < 256 ∧ c.damage.length < 256 ∧
    c.copies.length < 256 ∧ c.length < 2 ^ 64 ∧ c.bytesRead < 2 ^ 64 ∧
    (∀ r ∈ c.runs, r.start < 2 ^ 32 ∧ r.count < 2 ^ 32) ∧ (∀ v ∈ c.damage, v < 2 ^ 32) ∧
    ∀ k ∈ c.copies, k.attempts < 256 ∧
      ∀ p, k.placement = some p → p.start < 2 ^ 64 ∧ p.footprint < 2 ^ 32 ∧ p.dataUnits < 2 ^ 32

/-- The trailer fields, and the clip, as the trailer record can carry them (R126, R186). -/
def TrailerFits (clip : Nat) (f : TrailerFields) : Prop :=
  clip < 65536 ∧ f.job < 256 ∧ f.attempt < 256 ∧ f.length < 2 ^ 64 ∧ f.sig.serial.length = 16 ∧
    f.sig.capacity < 2 ^ 32 ∧ f.damage.length ≤ 16 ∧ (∀ v ∈ f.damage, v < 2 ^ 32) ∧ f.runStart < 2 ^ 64 ∧
    f.label.length ≤ 48

/-! ## Rounds of offers -/

/-- The place of a request in a round: the lanes from LANE0, then the ports from PRT0 (R82). -/
def roundPlace : Requester → Nat
  | .lane n _ => n.val
  | .engine p => 4 + p.val

/-- The first of the waiting requests, by their places and then as recorded, whose clip is below the window (R82). -/
def FirstServed (p : Pool) (w : Wait) : Prop :=
  ∃ before after, (List.range 8).flatMap (fun k => p.waits.filter (fun v => roundPlace v.requester == k)) =
      before ++ w :: after ∧
    (p.extents.filter (fun e => e.2.claim.clip == w.claim.clip)).length < p.window ∧
    ∀ v ∈ before, p.window ≤ (p.extents.filter (fun e => e.2.claim.clip == v.claim.clip)).length

/-- What is left when an extent has been offered to a request: the extent FILLING with its claim and set aside for the bay
or the engine, the request gone, the offer sent (R83, R84). -/
def offeredTo (s : State) (i : Nat) (w : Wait) : State :=
  { s with
    pool := { s.pool with
      extents := putExtent s.pool.extents i ⟨.filling, w.claim, 0, none, some (asideFor w.requester)⟩
      waits := s.pool.waits.erase w }
    wire := s.wire ++ [match w.requester with
      | .lane _ b => .poolOffer b w.claim
      | .engine p => .siblingOffer p i w.claim] }

/-- One round of offers: the FREE extent of lowest index goes to the first request that can be served, again and again,
until no extent is FREE or every request that remains is at the window (R82). -/
inductive OfferRound : State → State → Prop where
  | ends (s : State) (h : lowestFree s.pool = none ∨ ∀ w, ¬ FirstServed s.pool w) : OfferRound s s
  | offer (s t : State) (i : Nat) (w : Wait) (hi : lowestFree s.pool = some i) (hw : FirstServed s.pool w)
      (h : OfferRound (offeredTo s i w) t) : OfferRound s t

/-- An extent after a port has released the extents named: the port leaves its pending set when it is one of them, and one
whose set is then empty is FREE (R76, R77). -/
def released (p : Fin 4) (xs : List (Nat × ClaimId)) (e : Nat × Extent) : Option (Nat × Extent) :=
  match e.2.pending with
  | none => some e
  | some ps =>
    if e.2.state = .full ∧ (e.1, e.2.claim) ∈ xs ∧ p ∈ ps then
      if ps.erase p = [] then none else some (e.1, { e.2 with pending := some (ps.erase p) })
    else some e

/-- What a discard leaves before its round of offers: the extents and the waiting requests of the claim identities that it
hits gone, the removals sent by rising index and each in the order of its pending set, and then the word to the requesters
(R78, R79, R85; log 40). -/
def discarded (s : State) (m : Instr) (hit : ClaimId → Bool) : State :=
  { s with
    pool := { s.pool with
      extents := s.pool.extents.filter (fun e => !hit e.2.claim), waits := s.pool.waits.filter (fun w => !hit w.claim) }
    wire := s.wire.erase m ++
      (s.pool.extents.filter (fun e => hit e.2.claim)).flatMap
        (fun e => (e.2.pending.getD []).map (fun p => .extentRemoval p e.1 e.2.claim)) ++
      (s.pool.waits.filter (fun w => hit w.claim)).map (fun w => .waitRemoved w.requester w.claim) }

/-! ## Grants and returns of lanes, as R51 to R56 word them -/

/-- The lane that the arbiter grants next: the FREE active one of lowest number, while no PLAN is being asked (R48, R49, R52). -/
def LaneNext (s : State) (n : Fin 4) : Prop :=
  s.arb.asking = none ∧ n.val < (Config.planRow s.arb.plan).lanes ∧ (s.lane n).holder = none ∧
    ∀ m, m < n → (s.lane m).holder ≠ none

/-- The host card read that is granted a lane next: the oldest on the request list whose bay holds no lane. One whose bay holds
a lane is passed over (R51, R52). -/
def HostNext (s : State) (r : CardRead) : Prop :=
  ∃ before id after, s.arb.requests = before ++ id :: after ∧ s.read? id = some r ∧
    (∀ n, holderBay (s.lane n) ≠ some r.bay) ∧
    ∀ i ∈ before, ∀ x, s.read? i = some x → ∃ n, holderBay (s.lane n) = some x.bay

/-- The bay that is granted a lane next, when no host card read is: the first eligible one, round-robin from the bay after the
pointer (R52). -/
def BayNext (s : State) (b : Fin 8) : Prop :=
  ∃ k, k < 8 ∧ b = Fin.ofNat 8 (s.arb.pointer.val + 1 + k) ∧ s.bayEligible b = true ∧
    ∀ i, i < k → s.bayEligible (Fin.ofNat 8 (s.arb.pointer.val + 1 + i)) = false

/-- The state `u` in which a lane has been granted to a host card read, which leaves the request list: the read looks at the
bay as it stands, and ends at once or holds the lane for the blocks that the card has (R58). -/
def HostGiven (s u : State) (n : Fin 4) (r : CardRead) : Prop :=
  ∀ v : State, v = { s with arb := { s.arb with requests := s.arb.requests.filter (fun i => i != r.id) } } →
    ((s.bay r.bay).state ≠ .mounted ∨ (s.bay r.bay).sig = none →
      u = v.endRead r.id .wrongState (.cardRead 0 0 [])) ∧
    ∀ g, (s.bay r.bay).state = .mounted → (s.bay r.bay).sig = some g →
      (g.capacity ≤ r.start → u = v.endRead r.id .badArg .codeAlone) ∧
      (r.start < g.capacity → u = (v.setBay r.bay { s.bay r.bay with fails := 0 }).setLane n { Lane.reset with
        holder := some (.host ⟨r.id, r.bay, r.start, min r.count (g.capacity - r.start), 0, []⟩) })

/-- A lane has been granted to a bay for a work item: the pointer at the bay, the offer used up, the lane prepared for the turn,
its first claim sent (R52 to R54, R83). -/
def turnGiven (s : State) (n : Fin 4) (b : Fin 8) (item : WorkItem) : State :=
  ({ s with
    arb := { s.arb with
      pointer := b
      lanes := s.arb.lanes.set n { Lane.reset with
        holder := some (.work b item)
        burst := if (s.bay b).health.mode = .normal then (Config.planRow s.arb.plan).burst else 1
        unit := some (s.loadState item), claim := some (claimOf item (s.loadState item).count) } }
    wire := s.wire ++ [.extentClaim (.lane n b) (claimOf item (s.loadState item).count)] } : State).setBay b
    { s.bay b with offered := none, fails := 0 }

/-- The arbiter's search for grants: it goes on granting until no FREE active lane remains or no requester is eligible; the host
card reads come before the bays (R52). -/
inductive GrantRound : State → State → Prop where
  | ends (s : State)
      (h : (∀ n, ¬ LaneNext s n) ∨ ((∀ r, ¬ HostNext s r) ∧ ∀ b, s.bayEligible b = false)) : GrantRound s s
  | host (s u t : State) (n : Fin 4) (r : CardRead) (hn : LaneNext s n) (hr : HostNext s r) (hu : HostGiven s u n r)
      (h : GrantRound u t) : GrantRound s t
  | bay (s t : State) (n : Fin 4) (b : Fin 8) (item : WorkItem) (hn : LaneNext s n) (hr : ∀ r, ¬ HostNext s r)
      (hb : BayNext s b) (hi : bayItem (s.bay b) = some item) (h : GrantRound (turnGiven s n b item) t) : GrantRound s t

/-- A lane has been returned: it is FREE. A claim that it has out is counted as one whose answer is awaited no more (R55; log
44). -/
def laneBack (s : State) (n : Fin 4) : State :=
  { s with arb := { s.arb with
      lanes := s.arb.lanes.set n Lane.reset
      unawaited := s.arb.unawaited ++ match (s.lane n).holder, (s.lane n).claim with
        | some (.work b _), some c => [⟨.lane n b, c⟩]
        | _, _ => [] } }

/-- No other lane is held for the bay (R50, R51). -/
def OnlyLane (s : State) (n : Fin 4) (b : Fin 8) : Prop := ∀ m, holderBay (s.lane m) = some b → m = n

/-- A bay's record without a work item (R55, R56). -/
def withoutItem (x : Bay) (item : WorkItem) : Bay :=
  match item with
  | .clip _ => { x with reading := x.reading.filter (fun w => decide (w.item ≠ item)) }
  | .repair _ _ => { x with repairs := x.repairs.filter (fun w => decide (w.item ≠ item)) }

/-- The bytes of a block have been taken by the lane `n` that reads a work item of a bay, `d` being its digest unit before and
`length` the clip's length: placed in the extent `i` and fed to the unit, the next block starting with no failed attempt. The
lane reads on; or the clip's last block ends the read, whose completion is reported and acknowledged before the last extent
is; or an extent that is not the last is complete, and the lane returns at the end of its turn or claims the next one (R54 to
R56, R60). -/
def BlockTaken (s t : State) (n : Fin 4) (b : Fin 8) (item : WorkItem) (i : Nat) (d : DigestState) (length : Nat)
    (bytes : List Byte) : Prop :=
  ∀ d' c x l u, d' = (⟨bytes.foldl digestByte d.reg, d.count + bytes.length⟩ : DigestState) → c = claimOf item d.count →
    x = { s.bay b with fails := 0 } →
    l = { s.lane n with unit := some d', extent := none, filled := (s.lane n).filled + 1 } →
    u = ({ s with pool := poolPlace s.pool i c (d.count % 4194304) bytes } : State).setBay b x →
    (d'.count < length → d'.count % 4194304 ≠ 0 → t = u.setLane n { s.lane n with unit := some d' }) ∧
    (length ≤ d'.count → t = (({ u with wire := s.wire ++ [match item with
        | .clip k => .readCompletion n k d'
        | .repair k p => .repairReadCompletion n k p (d'.reg ^^^ BitVec.allOnes 64)] } : State).setBay b
        (withoutItem x item)).setLane n { l with ack := some ⟨i, c, d'.count - c.seq * 4194304⟩ }) ∧
    (d'.count < length → d'.count % 4194304 = 0 →
      (l.burst ≤ l.filled ∨ l.endTurn = true → GrantRound
        (laneBack { u with wire := s.wire ++ [.extentComplete i c 4194304, .burstEndReport item d'] } n) t) ∧
      (l.filled < l.burst → l.endTurn = false → t = ({ u with wire := s.wire ++
        [.extentComplete i c 4194304, .extentClaim (.lane n b) (claimOf item d'.count)] } : State).setLane n
        { l with claim := some (claimOf item d'.count) }))

/-! ## Failed attempts, as R60 and R64 to R66 word them -/

/-- The record of a bay that a failed attempt has put into CAREFUL: the attempt counted, the mode, a new window of W with a
count, and the lamp set anew (R60, R64, R66). -/
def carefulRecord (x : Bay) (count : Nat) : Bay :=
  { x with
    fails := x.fails + 1
    health := { x.health with mode := .careful, window := some x.health.w, count := count }
    lamp := lampOf { x with health := { x.health with mode := .careful } } }

/-- A failed attempt has put a bay into CAREFUL: its record, and the notice of the change (R60, R64, R66). -/
def carefulEntered (s : State) (b : Fin 8) (count : Nat) : State :=
  ({ s with wire := s.wire ++ [.noticeQueued (.bay b (.healthMode .careful) (s.bay b).state (s.bay b).lock)] } : State).setBay
    b (carefulRecord (s.bay b) count)

/-- A retry event that pushes the count over UP or exhausts the block puts a bay in NORMAL into CAREFUL (R60, R64). -/
def EntersCareful (x : Bay) : Prop :=
  x.health.mode = .normal ∧ (4 ≤ x.fails + 1 ∨ x.health.up < x.health.count + 1)

/-- The count that a bay enters CAREFUL with, while attempts are left: a block exhausted in NORMAL counts its retry event in the
new window; a retry event that pushes the count over UP is cleared with it (R60, R64). -/
def entryCount (x : Bay) : Nat := if 4 ≤ x.fails + 1 then 1 else 0

/-- A retry event has been counted, and the bay's mode stands (R60, R64, R65). -/
def retried (s : State) (b : Fin 8) : State :=
  s.setBay b { s.bay b with
    fails := (s.bay b).fails + 1
    health := { (s.bay b).health with count := (s.bay b).health.count + 1 } }

/-- The eighth failed attempt on a block has been counted, which is no retry event: a bay in NORMAL has entered CAREFUL with a
count of 0, and the block is uncorrectable (R60, R64). -/
def eighthFailed (s : State) (b : Fin 8) : State :=
  if (s.bay b).health.mode = .careful then s.setBay b { s.bay b with fails := (s.bay b).fails + 1 } else carefulEntered s b 0

/-- An uncorrectable block has ended the read of a bay's work item in the state `u`, but for what the lane gives up of the pool:
the item is no longer among the bay's read work, the report is sent, and the lane is returned (R55, R61, R62). -/
def ReadLost (s u : State) (n : Fin 4) (b : Fin 8) (item : WorkItem) (report : Instr) (x : Bay) : Prop :=
  (s.bay b).health.mode = .careful ∨ OnlyLane s n b → GrantRound (laneBack
    (({ eighthFailed s b with wire := (eighthFailed s b).wire ++ [report] } : State).setBay b (withoutItem x item)) n) u

/-! ## Waiting requests after a round of offers -/

/-- A waiting request stands, or it has been offered an extent, which is set aside for it (R82 to R84). -/
def WaitsOrOffered (t : State) (w : Wait) : Prop :=
  w ∈ t.pool.waits ∨ ∃ i, (i, ⟨.filling, w.claim, 0, none, some (asideFor w.requester)⟩) ∈ t.pool.extents ∧
    match w.requester with
    | .lane _ b => Instr.poolOffer b w.claim ∈ t.wire
    | .engine p => Instr.siblingOffer p i w.claim ∈ t.wire

/-- Offers, and nothing else, have joined what is in transit (R82 to R84). -/
def OffersFollow (s t : State) : Prop :=
  ∃ ms, t.wire = s.wire ++ ms ∧ ∀ m ∈ ms, (∃ b c, m = .poolOffer b c) ∨ ∃ p i c, m = .siblingOffer p i c

/-- What an answer or an offer that is not awaited has given is given back where no discard is due: the extent, still as
it was given, is freed and offered round, or the place among the waiting requests, still standing, is given up (R80; log
18). -/
def GivenBack (s t : State) (aside : Option SetAside) (r : Requester) (c : ClaimId) (index : Option Nat) : Prop :=
  (s.discardDue r c = true → t = s) ∧
    (s.discardDue r c = false →
      (index = none →
        (s.wire.count (.claimAnswer r c none) < s.pool.waits.count ⟨r, c⟩ →
          t = { s with pool := { s.pool with waits := s.pool.waits.erase ⟨r, c⟩ } }) ∧
        (s.pool.waits.count ⟨r, c⟩ ≤ s.wire.count (.claimAnswer r c none) → t = s)) ∧
      ∀ i, index = some i →
        (s.stillGiven aside c i = false → t = s) ∧
        (s.stillGiven aside c i = true →
          t.bays = s.bays ∧ t.arb = s.arb ∧ t.ports = s.ports ∧ t.jm = s.jm ∧ t.lki = s.lki ∧ t.pending = s.pending ∧
            t.pool.mem = s.pool.mem ∧ t.pool.window = s.pool.window ∧ OffersFollow s t ∧
            (s.pool.waits = [] → t.wire = s.wire ∧
              t.pool = { s.pool with extents := s.pool.extents.filter (fun e => e.1 != i) }) ∧
            OfferRound { s with pool := { s.pool with extents := s.pool.extents.filter (fun e => e.1 != i) } } t ∧
            (nextWait t.pool = none ∨ lowestFree t.pool = none)))

/-- What a filler gives up is given back, one after another. -/
def AllGivenBack : List Given → State → State → Prop
  | [], s, t => t = s
  | g :: gs, s, t => ∃ u, GivenBack s u g.aside g.requester g.claim g.index ∧ AllGivenBack gs u t

/-- A command leaves a state with what `P` says of it, and then a filler gives up what it has of the pool for the reads
that the command has ended (R80; log 18). -/
def Giving (gs : List Given) (P : State → Prop) (t : State) : Prop := ∃ u, P u ∧ AllGivenBack gs u t

/-! ## Frames: which blocks differ at most between a state and a later one -/

/-- The link interface, the messages in transit and the count of free values. -/
def OnlyLink (s t : State) : Prop :=
  t.bays = s.bays ∧ t.arb = s.arb ∧ t.pool = s.pool ∧ t.ports = s.ports ∧ t.jm = s.jm ∧ t.pending = s.pending

/-- The job manager and the messages in transit. -/
def OnlyJobs (s t : State) : Prop :=
  t.bays = s.bays ∧ t.arb = s.arb ∧ t.pool = s.pool ∧ t.ports = s.ports ∧ t.lki = s.lki ∧ t.fresh = s.fresh ∧
    t.pending = s.pending

/-- The pool manager and the messages in transit; the buffer memory stands. -/
def OnlyPool (s t : State) : Prop :=
  t.bays = s.bays ∧ t.arb = s.arb ∧ t.ports = s.ports ∧ t.jm = s.jm ∧ t.lki = s.lki ∧ t.fresh = s.fresh ∧
    t.pending = s.pending ∧ t.pool.mem = s.pool.mem

/-- One port, the messages in transit and the count of free values. -/
def OnlyPort (p : Fin 4) (s t : State) : Prop :=
  t.bays = s.bays ∧ t.arb = s.arb ∧ t.pool = s.pool ∧ t.jm = s.jm ∧ t.lki = s.lki ∧ t.pending = s.pending ∧
    ∀ q, q ≠ p → t.port q = s.port q

/-- One bay and the messages in transit. -/
def OnlyBay (b : Fin 8) (s t : State) : Prop :=
  t.arb = s.arb ∧ t.pool = s.pool ∧ t.ports = s.ports ∧ t.jm = s.jm ∧ t.lki = s.lki ∧ t.fresh = s.fresh ∧
    t.pending = s.pending ∧ ∀ a, a ≠ b → t.bay a = s.bay a

/-- A bay without the two fields that the start of a turn sets: the offer that it uses up and the failed attempts on the
block being read (R53, R60, R83). -/
def bayCore (x : Bay) : Bay := { x with offered := none, fails := 0 }

/-- The fields of a port that work on its drive link leaves alone. -/
def portCore (x : Port) : Port := { x with write := none, read := none, engine := Engine.reset, share := ⟨.write, 0⟩ }

/-- One bay, the arbiter with its lanes, the link interface, the messages in transit and the count of free values; and in the
other bays what the start of a turn sets. -/
def OnlyReads (b : Fin 8) (s t : State) : Prop :=
  t.pool = s.pool ∧ t.ports = s.ports ∧ t.jm = s.jm ∧ t.pending = s.pending ∧
    ∀ a, a ≠ b → bayCore (t.bay a) = bayCore (s.bay a)

end Sys2Proof.Machine
end

