-- ==== Sys2Proof/Certificates/Slice0/Obligations.lean ====
section
/-! DEFINITION. The statements for the provers. What the part does is said command by command: what state a command leaves,
for every state and operands, and which blocks it leaves unchanged. A reply is spoken of through `Replies`. -/

open Sys2Proof Sys2Proof.Machine

/-! ## The machine -/

/-- The model's choice (log 1): a step takes the command at the front of the queue; on an empty queue the oldest message in
transit is taken by the block it is for, and with none the part idles. -/
def Obligations.StepTakesFrontCommand : Prop :=
  (∀ (c : Instr) (s : State), step { s with pending := c :: s.pending } = exec c s) ∧
  (∀ (m : Instr) (ms : List Instr) (s : State), s.pending = [] → s.wire = m :: ms → step s = exec m s) ∧
  (∀ s : State, s.pending = [] → s.wire = [] → step s = .next s)

/-- Every command runs to a next state, whatever the state and the operands, and leaves the queue of commands alone. That
there is no fault and no refusal is the model's reading (log 31). -/
def Obligations.EveryCommandCompletes : Prop :=
  ∀ (c : Instr) (s : State), ∃ t, exec c s = .next t ∧ t.pending = s.pending

/-- Nineteen of the twenty-two requests are answered by exactly one reply of their kind and tag, and change nothing when
it is a refusal; one whose reply a link reset has taken is answered by none. Beside it the step adds only the replies of
host card reads that have ended, and the refusals of transfers that the link interface has gone on to take. PLAN and
CARD_READ may be answered later, and RESET discards replies: they have statements of their own. -/
def Obligations.RequestsAreAnswered : Prop :=
  ∀ (c : Instr) (kind tag : Nat) (s : State), requestKind c = some kind → c.tag? = some tag →
    kind ≠ kindPlan → kind ≠ kindCardRead → kind ≠ kindReset →
    ∃ t r ended refused, exec c s = .next t ∧ r.kind = kind ∧ r.tag = tag ∧
      t.replyLog = s.replyLog ++ ended ++ (if handOrphan s.lki kind tag then [] else [r]) ++ refused ∧
      (∀ x ∈ ended ++ refused, (x ∈ ended ∧ x.kind = kindCardRead) ∨ x.code = .malformed ∨ x.code = .unknownKind) ∧
      (s.lki.receive = [] → refused = [] ∧ ∀ x ∈ ended, x.kind = kindCardRead) ∧ (r.code ≠ .done → OnlyLink s t ∧ ended = [])

/-! ## The control link -/

/-- The five checks of a transfer, in their order, when the link interface may take it: each failed check gives its reply
and leaves every block as it is, and the reply goes out at once where the host waits for a frame; a transfer that passes
is dispatched as the request in hand. The next transfer may be taken when no request is in hand and every reply that is
ready answers a host card read; else it waits. While the link is DOWN no transfer arrives and none is sent. That any bit
of the flags byte counts as a flag is the model's reading (log 8), and that a transfer while the link is DOWN has no
effect (log 10). -/
def Obligations.TransfersAreChecked : Prop :=
  (∀ l : LinkIf, mayTakeRequest l = true ↔ l.up = true ∧ l.inHand = none ∧ ∀ r ∈ l.ready, r.read.isSome = true) ∧
  (∀ (s : State) (x : List Byte), s.lki.up = true → s.lki.receive = [] → mayTakeRequest s.lki = true →
     ∃ t, exec (.receiveFrame x) s = .next t ∧ OnlyLink s t ∧
       (0 < s.lki.inWaiting → s.lki.ready = [] → s.lki.notices = [] → t.lki.ready = [] ∧
         t.lki.inWaiting + t.replyLog.length = s.lki.inWaiting + s.replyLog.length) ∧
       (x.length < 8 → t.replyLog = s.replyLog ++ [⟨0, 0, .malformed, .codeAlone⟩] ∧ t.wire = s.wire) ∧
       (8 ≤ x.length →
         if 40000 < fieldAt x 0 4 ∨ x.length ≠ 8 + fieldAt x 0 4 then
           t.replyLog = s.replyLog ++ [⟨fieldAt x 4 1, fieldAt x 6 2, .malformed, .codeAlone⟩] ∧ t.wire = s.wire
         else if fieldAt x 5 1 ≠ 0 then
           t.replyLog = s.replyLog ++ [⟨fieldAt x 4 1, fieldAt x 6 2, .malformed, .codeAlone⟩] ∧ t.wire = s.wire
         else
           match bodyLength (fieldAt x 4 1) (x.drop 8) with
           | none =>
             t.replyLog = s.replyLog ++ [⟨fieldAt x 4 1, fieldAt x 6 2, .unknownKind, .codeAlone⟩] ∧ t.wire = s.wire
           | some n =>
             if countsWithin (fieldAt x 4 1) (x.drop 8) = false ∨ (x.drop 8).length ≠ n then
               t.replyLog = s.replyLog ++ [⟨fieldAt x 4 1, fieldAt x 6 2, .malformed, .codeAlone⟩] ∧ t.wire = s.wire
             else
               t.replyLog = s.replyLog ∧ t.lki.inHand = some ⟨fieldAt x 4 1, fieldAt x 6 2, false⟩ ∧
                 ∃ c, parseBody (fieldAt x 4 1) (fieldAt x 6 2) (x.drop 8) = some c ∧ t.wire = s.wire ++ [c])) ∧
  (∀ (s : State) (x : List Byte), s.lki.up = false →
    exec (.receiveFrame x) s = .next s ∧ exec .sendFrame s = .next s) ∧
  (∀ (s : State) (x : List Byte), s.lki.up = true → s.lki.inWaiting = 0 ∨ (s.lki.ready = [] ∧ s.lki.notices = []) →
    mayTakeRequest s.lki = false →
    exec (.receiveFrame x) s = .next { s with lki := { s.lki with receive := s.lki.receive ++ [x] } })

/-- The frame by which the host spells a request, byte for byte from the layouts, is read as that request with every operand
at its value. -/
def Obligations.RequestFramesReadBack : Prop :=
  ∀ (c : Instr) (kind tag : Nat) (f : List Byte), c.wf = true → requestKind c = some kind → c.tag? = some tag →
    requestFrame c = some f → parseFrame f = .request kind tag c

/-- LINK_UP brings the link up and loses nothing. SEND_FRAME, the link UP: the oldest ready reply is sent and its card
read leaves the table; with no reply, the notice at the head; with neither, the host's transfer waits, behind those that
wait already. No reply and no notice is lost, and when the last reply has gone the next transfer of the host is taken. The
bytes of the messages that have a layout, field by field: the codes, a CARD_READ reply, a CLIP_QUERY reply and an N_CLIP
notice, each behind its header. -/
def Obligations.LinkComesUpAndSends : Prop :=
  (∀ s : State, ∃ t, exec .linkUp s = .next t ∧ OnlyLink s t ∧ t.lki.up = true ∧ s.replyLog <+: t.replyLog ∧
    t.noticeLog = s.noticeLog ∧ t.lki.freshStart = s.lki.freshStart ∧ t.lki.droppedMark = s.lki.droppedMark) ∧
  (∀ s : State, s.lki.up = true → ∃ t, exec .sendFrame s = .next t ∧ OnlyLink s t ∧ s.replyLog <+: t.replyLog ∧
    t.noticeLog = s.noticeLog ∧
    (∀ r rest, s.lki.inWaiting = 0 → s.lki.ready = r :: rest →
      t.lki.sent = s.lki.sent ++ [⟨.reply r.reply, messageBytes s.fresh (.reply r.reply)⟩] ∧
        t.lki.reads = dropRead r.read s.lki.reads ∧ t.lki.notices = s.lki.notices ∧ t.lki.inWaiting = 0) ∧
    (∀ r x xs, s.lki.inWaiting = 0 → s.lki.ready = [r] → s.lki.inHand = none → s.lki.receive = x :: xs → t.lki.receive = xs) ∧
    (∀ n rest, s.lki.inWaiting = 0 → s.lki.ready = [] → s.lki.notices = n :: rest →
      t.lki.sent = s.lki.sent ++ [⟨.notice n, messageBytes s.fresh (.notice n)⟩] ∧ t.lki.notices = rest ∧
        t.lki.reads = s.lki.reads ∧ t.lki.inWaiting = 0) ∧
    (s.lki.ready = [] → s.lki.notices = [] → s.lki.receive = [] ∨ mayTakeRequest s.lki = false →
      t = { s with lki := { s.lki with inWaiting := s.lki.inWaiting + 1 } })) ∧
  ([ReplyCode.done, .busy, .badArg, .noRoom, .noSuch, .wrongState, .notSafe, .unknownKind, .malformed, .mediaError].map
      codeReply = [0, 1, 2, 3, 4, 5, 6, 7, 8, 9] ∧
    [ClipState.queued, .waiting, .reading, .landing, .safe, .partialSafe, .failed, .cancelled].map codeClip =
      [1, 2, 3, 4, 5, 6, 7, 8] ∧
    [CopyState.pending, .writing, .written, .verifying, .verified, .repairing, .failed, .dropped, .skipped].map codeCopy =
      [1, 2, 3, 4, 5, 6, 7, 8, 9] ∧
    [none, some WaitReason.space, some .port].map (codeOpt codeWait) = [0, 1, 2] ∧
    [none, some Cause.media, some .sourceLost, some .sourceDigest, some .writeError, some .portLost, some .portFault,
      some .verifyMismatch, some .noRepairSource, some .space, some .cancelled].map (codeOpt codeCause) =
      [0, 1, 2, 3, 4, 5, 6, 7, 8, 9, 10]) ∧
  (∀ (fresh blocks failing : Nat) (r : Reply) (data m : List Byte), r.body = .cardRead blocks failing data →
    blocks < 65536 → failing < 2 ^ 32 → data.length ≤ 32768 → r.kind < 256 → r.tag < 65536 →
    m = messageBytes fresh (.reply r) →
    fieldAt m 0 4 = 7 + data.length ∧ fieldAt m 4 1 = r.kind ∧ fieldAt m 5 1 = 1 ∧ fieldAt m 6 2 = r.tag ∧
      fieldAt m 8 1 = codeReply r.code ∧ fieldAt m 9 2 = blocks ∧ fieldAt m 11 4 = failing ∧ m.drop 15 = data) ∧
  (∀ (fresh : Nat) (r : Reply) (c : Clip) (m : List Byte), r.body = .clip c → ClipFits c →
    m = (messageBytes fresh (.reply r)).drop 8 →
    fieldAt m 0 1 = codeReply r.code ∧ fieldAt m 1 2 = c.id ∧ fieldAt m 3 1 = c.job ∧ fieldAt m 4 1 = codeClip c.state ∧
      fieldAt m 5 1 = codeOpt codeWait c.wait ∧ fieldAt m 6 1 = codeOpt codeCause c.cause ∧
      fieldAt m 7 1 = (if c.expected.isSome then 1 else 0) + (if c.digest.isSome then 2 else 0) +
        (if c.mismatch then 4 else 0) ∧
      fieldAt m 8 1 = c.attempts ∧ fieldAt m 9 1 = c.label.length ∧ fieldAt m 10 1 = c.runs.length ∧
      fieldAt m 11 1 = c.damage.length ∧ fieldAt m 12 1 = c.copies.length ∧ fieldAt m 13 8 = c.length ∧
      fieldAt m 21 8 = c.bytesRead ∧ fieldAt m 29 8 = (c.expected.getD 0#64).toNat ∧
      fieldAt m 37 8 = (c.digest.getD 0#64).toNat ∧ (m.drop 45).take c.label.length = c.label ∧
      (∀ i x, c.runs[i]? = some x → fieldAt m (45 + c.label.length + 8 * i) 4 = x.start ∧
        fieldAt m (45 + c.label.length + 8 * i + 4) 4 = x.count) ∧
      (∀ i v, c.damage[i]? = some v → fieldAt m (45 + c.label.length + 8 * c.runs.length + 4 * i) 4 = v) ∧
      ∀ i k o, c.copies[i]? = some k → o = 45 + c.label.length + 8 * c.runs.length + 4 * c.damage.length + 32 * i →
        fieldAt m o 1 = k.port.val ∧ fieldAt m (o + 1) 1 = (if k.required then 1 else 0) ∧
        fieldAt m (o + 2) 1 = codeCopy k.state ∧ fieldAt m (o + 3) 1 = codeOpt codeCause k.cause ∧
        fieldAt m (o + 4) 1 = k.attempts ∧
        fieldAt m (o + 5) 1 = (if k.placement.isSome then 1 else 0) + (if k.digest.isSome then 2 else 0) ∧
        (k.state ≠ .repairing → fieldAt m (o + 6) 1 = 0 ∧ fieldAt m (o + 7) 1 = 0) ∧
        (∀ y, k.state = .repairing → k.repair = some y →
          (y.source = .none → fieldAt m (o + 6) 1 = 0 ∧ fieldAt m (o + 7) 1 = 0) ∧
          (y.source = .card → fieldAt m (o + 6) 1 = 1 ∧ fieldAt m (o + 7) 1 = 0) ∧
          ∀ q, y.source = .port q → fieldAt m (o + 6) 1 = 2 ∧ fieldAt m (o + 7) 1 = q.val) ∧
        fieldAt m (o + 8) 8 = (k.placement.map Placement.start).getD 0 ∧
        fieldAt m (o + 16) 4 = (k.placement.map Placement.footprint).getD 0 ∧
        fieldAt m (o + 20) 4 = (k.placement.map Placement.dataUnits).getD 0 ∧
        fieldAt m (o + 24) 8 = (k.digest.getD 0#64).toNat) ∧
  ∀ (fresh : Nat) (n : QueuedNotice) (clip job : Nat) (st : ClipState) (wait : Option WaitReason) (cause : Option Cause)
    (m : List Byte), n.notice = .clip clip job st wait cause → clip < 65536 → job < 256 →
    m = messageBytes fresh (.notice n) →
    m.length = 14 ∧ fieldAt m 0 4 = 6 ∧ fieldAt m 4 1 = 0x81 ∧ fieldAt m 5 1 = (if n.dropped then 6 else 2) ∧
      fieldAt m 6 2 = 0 ∧ fieldAt m 8 2 = clip ∧ fieldAt m 10 1 = job ∧ fieldAt m 11 1 = codeClip st ∧
      fieldAt m 12 1 = codeOpt codeWait wait ∧ fieldAt m 13 1 = codeOpt codeCause cause

/-- LINK_RESET: everything in transit on the link is lost, the dropped mark is set when a notice was, the fresh-start flag
is kept; host card reads leave their lanes and the request list; the lanes that serve the bays' own work go on as they
are, and so do the bays, the pool, the ports and the jobs. A request in hand stays with its block, marked as without a
reply. -/
def Obligations.LinkResetLosesTransit : Prop :=
  ∀ s : State, ∃ t, exec .linkReset s = .next t ∧
    t.lki = { s.lki with
      up := false, receive := [], inHand := s.lki.inHand.map (fun h => { h with orphan := true }), reads := [], ready := [],
      notices := [], droppedMark := s.lki.droppedMark || !s.lki.notices.isEmpty, inWaiting := 0 } ∧
    t.arb.requests = [] ∧ t.arb.plan = s.arb.plan ∧ t.arb.asking = s.arb.asking ∧
    (∀ (n : Fin 4) (r : HostRead), (t.lane n).holder ≠ some (.host r)) ∧
    (∀ (n : Fin 4) (b : Fin 8) (i : WorkItem), (s.lane n).holder = some (.work b i) → t.lane n = s.lane n) ∧
    (∀ b, bayCore (t.bay b) = bayCore (s.bay b)) ∧ s.wire <+: t.wire ∧
    t.pool = s.pool ∧ t.ports = s.ports ∧ t.jm = s.jm ∧ t.pending = s.pending

/-- POWER_ON: the state of each block after power-on, and the notices of insertion of the bays that find a card, bay by
bay (log 28). What the model presumes of the presence senses and of the fields that the rules do not name is its own
(log 4, log 34); so are the counts of claims whose answers are awaited no more, which are empty (log 44), and so is the
list of late reports (log 51). -/
def Obligations.PowerOnState : Prop :=
  ∀ s : State, ∃ t, exec .powerOn s = .next t ∧
    t.jm.jobs = [] ∧ t.jm.clips = [] ∧ t.jm.nextId = 1 ∧ t.jm.late = [] ∧ (∀ b, (t.view b).sig = none ∧ (t.view b).clear = false) ∧
    t.wire = ((List.finRange 8).filter (fun b => (s.bay b).cardPresent)).map
      (fun b => Instr.noticeQueued (.bay b .insert .probing .disengaged)) ∧
    t.arb.plan = 0 ∧ t.arb.requests = [] ∧ t.arb.pointer = 7 ∧ (∀ n, (t.lane n).holder = none ∧ (t.lane n).unit = none) ∧
    t.arb.unawaited = [] ∧ (∀ p, (t.port p).unawaited = []) ∧
    t.pool.extents = [] ∧ t.pool.waits = [] ∧ t.pool.window = 32 ∧
    t.lki.up = false ∧ t.lki.receive = [] ∧ t.lki.inHand = none ∧ t.lki.reads = [] ∧ t.lki.ready = [] ∧
    t.lki.notices = [] ∧ t.lki.droppedMark = false ∧ t.lki.freshStart = true ∧
    (∀ b, (t.bay b).power = .on ∧ (t.bay b).state = (if (s.bay b).cardPresent then .probing else .empty) ∧
      (t.bay b).probeTimer = (if (s.bay b).cardPresent then some 2 else none) ∧ (t.bay b).sig = none ∧
      (t.bay b).job = none ∧ (t.bay b).clear = false ∧ (t.bay b).lock = .disengaged ∧ (t.bay b).lamp = .unlit ∧
      (t.bay b).health.mode = .normal ∧ (t.bay b).health.running = false ∧ (t.bay b).health.count = 0 ∧
      (t.bay b).health.w = 10 ∧ (t.bay b).health.up = 24 ∧ (t.bay b).health.lo = 8 ∧ (t.bay b).reading = none ∧
      (t.bay b).repairs = []) ∧
    (∀ p, (t.port p).power = .on ∧ (t.port p).state = .detached ∧
      (t.port p).ident = (if (s.port p).drivePresent then some 5 else none) ∧ (t.port p).identity = none ∧
      (t.port p).area = none ∧ (t.port p).holds = [] ∧ (t.port p).openPl = [] ∧ (t.port p).grace = 30 ∧
      (t.port p).graceTimer = none ∧ (t.port p).writeQ = [] ∧ (t.port p).verifyQ = [] ∧ (t.port p).write = none ∧
      (t.port p).engine.state = .idle ∧ (t.port p).engine.unit = none ∧ (t.port p).share = ⟨.write, 0⟩ ∧
      (t.port p).tally = 0 ∧ (t.port p).otherDrive = false ∧ (t.port p).unidentified = false) ∧
    t.pending = s.pending

/-- RESET: the soft reset of every block, and the reply DONE. Cards, drives, areas, settings, tallies, identifications
and the plan stand; the health monitor of a MOUNTED bay starts again, each sharing record is as at power-on, and no
digest unit holds a state. The ready replies of host card reads are discarded, those of other requests go out. That the
counts of claims whose answers are awaited no more are empty is the model's choice (log 44), and so is it that the list
of late reports is (log 51). -/
def Obligations.SoftResetState : Prop :=
  ∀ (tag : Nat) (s : State), ∃ t, exec (.reset tag) s = .next t ∧
    (handOrphan s.lki kindReset tag = false →
      ({ s with lki := { s.lki with ready := s.lki.ready.filter (fun r => r.read.isNone) } } : State).replyLog ++
        [⟨kindReset, tag, .done, .codeAlone⟩] <+: t.replyLog) ∧
    (∀ r ∈ t.lki.ready, r.read = none) ∧
    t.jm.jobs = [] ∧ t.jm.clips = [] ∧ t.jm.nextId = 1 ∧ t.jm.late = [] ∧ (∀ b, (t.view b).sig = (s.view b).sig) ∧
    t.arb.plan = s.arb.plan ∧ t.arb.requests = [] ∧ t.arb.pointer = 7 ∧
    (∀ n, (t.lane n).holder = none ∧ (t.lane n).unit = none) ∧
    t.arb.unawaited = [] ∧ (∀ p, (t.port p).unawaited = []) ∧
    t.pool.extents = [] ∧ t.pool.waits = [] ∧ t.pool.window = s.pool.window ∧
    t.lki.up = s.lki.up ∧ t.lki.reads = [] ∧ t.lki.notices = [] ∧ t.lki.droppedMark = false ∧
    t.lki.freshStart = true ∧
    (∀ b, (t.bay b).power = (s.bay b).power ∧ (t.bay b).state = (s.bay b).state ∧ (t.bay b).sig = (s.bay b).sig ∧
      (t.bay b).probeTimer = (s.bay b).probeTimer ∧ (t.bay b).job = none ∧ (t.bay b).clear = false ∧
      (t.bay b).lock = .disengaged ∧ (t.bay b).lamp = .unlit ∧ (t.bay b).health.w = (s.bay b).health.w ∧
      (t.bay b).health.up = (s.bay b).health.up ∧ (t.bay b).health.lo = (s.bay b).health.lo ∧
      (t.bay b).reading = none ∧ (t.bay b).repairs = [] ∧ (t.bay b).cardPresent = (s.bay b).cardPresent ∧
      ((s.bay b).state = .mounted → (t.bay b).health.mode = .normal ∧ (t.bay b).health.running = true ∧
        (t.bay b).health.window = some 2 ∧ (t.bay b).health.count = 0) ∧
      ((s.bay b).state ≠ .mounted → (t.bay b).health = (s.bay b).health)) ∧
    (∀ p, (t.port p).power = (s.port p).power ∧ (t.port p).state = (s.port p).state ∧
      (t.port p).drivePresent = (s.port p).drivePresent ∧ (t.port p).ident = (s.port p).ident ∧
      (t.port p).otherDrive = (s.port p).otherDrive ∧ (t.port p).unidentified = (s.port p).unidentified ∧
      (t.port p).tally = (s.port p).tally ∧ (t.port p).share = ⟨.write, 0⟩ ∧ (t.port p).read = none ∧
      (t.port p).identity = (s.port p).identity ∧ (t.port p).area = (s.port p).area ∧
      (t.port p).grace = (s.port p).grace ∧ (t.port p).graceTimer = (s.port p).graceTimer ∧
      (t.port p).holds = [] ∧ (t.port p).openPl = [] ∧ (t.port p).writeQ = [] ∧ (t.port p).verifyQ = [] ∧
      (t.port p).write = none ∧ (t.port p).engine.state = .idle ∧ (t.port p).engine.unit = none) ∧
    t.pending = s.pending

/-- NOTICE_QUEUED, by the state of the link and of the queue: discarded with the mark set while the link is DOWN or the
queue holds 128; otherwise it joins the queue, carrying the mark as its flag, and the mark is cleared. -/
def Obligations.NoticesAreQueued : Prop :=
  ∀ (n : Notice) (s : State), ∃ t, exec (.noticeQueued n) s = .next t ∧ OnlyLink s t ∧ s.replyLog <+: t.replyLog ∧
    (s.lki.up = false → t.noticeLog = s.noticeLog ∧ t.lki.droppedMark = true) ∧
    (s.lki.up = true → s.lki.notices.length < 128 →
      t.noticeLog = s.noticeLog ++ [⟨n, s.lki.droppedMark⟩] ∧ t.lki.droppedMark = false) ∧
    (s.lki.up = true → 128 ≤ s.lki.notices.length → t.noticeLog = s.noticeLog ∧ t.lki.droppedMark = true)

/-! ## Settings -/

/-- PLAN asks the pool manager, and its answer decides: refused for a number above 3 and while a lane is held; otherwise
the question goes out, and while it is out no lane is granted; yes brings the plan and its window into force. That an
answer which no PLAN awaits is dropped is the model's reading (log 31). -/
def Obligations.PlanAsksThePool : Prop :=
  (∀ (tag number : Nat) (s : State), ∃ t, exec (.plan tag number) s = .next t ∧
    (4 ≤ number → OnlyLink s t ∧ Replies s t ⟨kindPlan, tag, .badArg, .codeAlone⟩) ∧
    (number < 4 → (∃ n, (s.lane n).holder.isSome = true) → OnlyLink s t ∧
      Replies s t ⟨kindPlan, tag, .busy, .codeAlone⟩) ∧
    (∀ p : Fin 4, number = p.val → (∀ n, (s.lane n).holder = none) →
      t = { s with
        arb := { s.arb with asking := some ⟨tag, p⟩ }
        wire := s.wire.erase (.plan tag number) ++ [Instr.poolFreeQuestion p] })) ∧
  (∀ (p : Fin 4) (s : State), ∃ t, exec (.poolFreeQuestion p) s = .next t ∧ OnlyPool s t ∧
    t.pool.extents = s.pool.extents ∧ t.pool.waits = s.pool.waits ∧
    (s.pool.extents = [] → t.pool.window = (Config.planRow p).window ∧
      t.wire = s.wire.erase (.poolFreeQuestion p) ++ [Instr.planAnswer true]) ∧
    (s.pool.extents ≠ [] → t.pool.window = s.pool.window ∧
      t.wire = s.wire.erase (.poolFreeQuestion p) ++ [Instr.planAnswer false])) ∧
  (∀ (yes : Bool) (s : State), ∃ t, exec (.planAnswer yes) s = .next t ∧ t.pool = s.pool ∧ t.ports = s.ports ∧
    t.jm = s.jm ∧ t.pending = s.pending ∧ (∀ b, bayCore (t.bay b) = bayCore (s.bay b)) ∧
    (s.arb.asking = none → t = s.arrive (.planAnswer yes)) ∧
    (∀ a, s.arb.asking = some a → t.arb.asking = none ∧ t.arb.plan = (if yes then a.plan else s.arb.plan) ∧
      Replies s t ⟨kindPlan, a.tag, if yes then .done else .busy, .codeAlone⟩)) ∧
  (∀ s : State, s.arb.asking.isSome = true → s.grants = s)

/-- HEALTH and GRACE clamp their values, store them in the bays or ports that the selector names, and report them. -/
def Obligations.HealthAndGraceClamp : Prop :=
  (∀ (tag sel w up lo : Nat) (s : State), ∃ t, exec (.health tag sel w up lo) s = .next t ∧
    (8 ≤ sel → sel ≠ 255 → OnlyLink s t ∧ Replies s t ⟨kindHealth, tag, .badArg, .codeAlone⟩) ∧
    (sel < 8 ∨ sel = 255 → ∀ w' up' lo', w' = max 4 (min 60 w) → up' = max 1 (min 255 up) →
      lo' = (if min 254 lo < up' then min 254 lo else up' - 1) →
      Replies s t ⟨kindHealth, tag, .done, .health w' up' lo'⟩ ∧
      t.arb = s.arb ∧ t.pool = s.pool ∧ t.ports = s.ports ∧ t.jm = s.jm ∧ t.pending = s.pending ∧
      ∀ b : Fin 8, t.bay b = (if sel = 255 ∨ sel = b.val then
        { s.bay b with health := { (s.bay b).health with w := w', up := up', lo := lo' } } else s.bay b))) ∧
  (∀ (tag sel g : Nat) (s : State), ∃ t, exec (.grace tag sel g) s = .next t ∧
    (4 ≤ sel → sel ≠ 255 → OnlyLink s t ∧ Replies s t ⟨kindGrace, tag, .badArg, .codeAlone⟩) ∧
    (sel < 4 ∨ sel = 255 → Replies s t ⟨kindGrace, tag, .done, .grace (max 5 (min 120 g))⟩ ∧
      t.bays = s.bays ∧ t.arb = s.arb ∧ t.pool = s.pool ∧ t.jm = s.jm ∧ t.pending = s.pending ∧
      ∀ p : Fin 4, t.port p = (if sel = 255 ∨ sel = p.val then { s.port p with grace := max 5 (min 120 g) } else s.port p)))

/-- BAYPWR: the checks in their order; OFF takes the bay to OFF, unlit, a mounted card lost and reported, and a host card
read that holds the bay's lane answered WRONG_STATE with the blocks read so far; ON reads the presence sense, and the
probe of a card that is there starts with its notice of insertion; a request for the value the bay has changes nothing.
That the bay gives up the extents that it has of the pool, where no discard is due, is the model's reading (log 18). -/
def Obligations.BayPowerSwitches : Prop :=
  ∀ (tag bay power : Nat) (s : State), ∃ t, exec (.baypwr tag bay power) s = .next t ∧
    t.ports = s.ports ∧ t.jm = s.jm ∧ t.pending = s.pending ∧ (power ≠ 1 → t.pool = s.pool) ∧
    (∀ a : Fin 8, a.val ≠ bay → bayCore (t.bay a) = bayCore (s.bay a)) ∧
    (8 ≤ bay ∨ (power ≠ 1 ∧ power ≠ 2) → OnlyLink s t ∧ Replies s t ⟨kindBaypwr, tag, .badArg, .codeAlone⟩) ∧
    ∀ b : Fin 8, bay = b.val →
      (power = 1 → (s.bay b).job.isSome = true →
        OnlyLink s t ∧ Replies s t ⟨kindBaypwr, tag, .wrongState, .codeAlone⟩) ∧
      (power = 1 → (s.bay b).job = none → Replies s t ⟨kindBaypwr, tag, .done, .codeAlone⟩ ∧
        ((s.bay b).power = .off → OnlyLink s t) ∧
        ((s.bay b).power = .on → (s.bay b).state ≠ .mounted → t.pool = s.pool ∧
          bayCore (t.bay b) = bayCore { s.bay b with power := .off, state := .off, probeTimer := none, lamp := .unlit }) ∧
        ((s.bay b).power = .on → (s.bay b).state = .mounted → Instr.cardLostReport b ∈ t.wire ∧
          Giving (s.bayGiven b (fun _ => true)) (fun u => u.pool = s.pool ∧ u.jm = s.jm ∧
            s.wire.erase (.baypwr tag bay power) <+: u.wire ∧ Instr.cardLostReport b ∈ u.wire) t ∧
          (∀ n r e, s.laneOf b = some n → (s.lane n).holder = some (.host r) → s.read? r.id = some e → e.orphan = false →
            s.replyLog ++ [⟨kindCardRead, e.tag, .wrongState, .cardRead r.blocks 0 r.data⟩] <+: t.replyLog) ∧
          bayCore (t.bay b) = bayCore { s.bay b with
            power := .off, state := .off, probeTimer := none, lamp := .unlit, sig := none, reading := none, repairs := []
            health := { (s.bay b).health with mode := .normal, running := false, window := none, count := 0 } })) ∧
      (power = 2 → Replies s t ⟨kindBaypwr, tag, .done, .codeAlone⟩ ∧
        ((s.bay b).power = .on → OnlyLink s t) ∧
        ((s.bay b).power = .off → s.wire.erase (.baypwr tag bay power) ++ (if (s.bay b).cardPresent then
          [Instr.noticeQueued (.bay b .insert .probing (s.bay b).lock)] else []) <+: t.wire) ∧
        ((s.bay b).power = .off → LampRight (t.bay b) ∧ ∃ lamp, t.bay b = { s.bay b with
          power := .on, state := if (s.bay b).cardPresent then .probing else .empty
          probeTimer := if (s.bay b).cardPresent then some 2 else (s.bay b).probeTimer, lamp := lamp }))

/-- PORTPWR: the checks in their order; OFF drops the area, the identity, the timers and the flags, with what is left in
the queues (log 42), and keeps the tally and the grace setting; ON makes the port DETACHED and identifying, its timer at 5
seconds, when a drive is there. That a claim which the verify engine has out is counted as one whose answer is awaited no
more (log 44), and that the engine gives up its extent where no discard is due (log 18), are the model's readings. -/
def Obligations.PortPowerSwitches : Prop :=
  ∀ (tag port power : Nat) (s : State), ∃ t, exec (.portpwr tag port power) s = .next t ∧
    t.bays = s.bays ∧ t.arb = s.arb ∧ t.jm = s.jm ∧ t.pending = s.pending ∧ (power ≠ 1 → t.pool = s.pool) ∧
    (∀ q : Fin 4, q.val ≠ port → t.port q = s.port q) ∧
    (4 ≤ port ∨ (power ≠ 1 ∧ power ≠ 2) → OnlyLink s t ∧ Replies s t ⟨kindPortpwr, tag, .badArg, .codeAlone⟩) ∧
    ∀ p : Fin 4, port = p.val →
      (power = 1 → (s.port p).holds ≠ [] ∨ (s.port p).openPl ≠ [] →
        OnlyLink s t ∧ Replies s t ⟨kindPortpwr, tag, .wrongState, .codeAlone⟩) ∧
      (power = 1 → (s.port p).holds = [] → (s.port p).openPl = [] →
        Replies s t ⟨kindPortpwr, tag, .done, .codeAlone⟩ ∧ ((s.port p).power = .off → OnlyLink s t) ∧
        ((s.port p).power = .on →
          Giving (s.engineGiven p) (fun u => u.pool = s.pool ∧ u.jm = s.jm ∧
            s.wire.erase (.portpwr tag port power) <+: u.wire) t) ∧
        ((s.port p).power = .on → t.port p = { s.port p with
          power := .off, state := .off, ident := none, graceTimer := none, area := none, identity := none
          otherDrive := false, unidentified := false, writeQ := [], write := none, verifyQ := [], read := none
          engine := Engine.reset, unawaited := (s.port p).unawaited ++ (s.port p).engine.claim.toList })) ∧
      (power = 2 → Replies s t ⟨kindPortpwr, tag, .done, .codeAlone⟩ ∧ ((s.port p).power = .on → OnlyLink s t) ∧
        ((s.port p).power = .off → t.port p = { s.port p with
          power := .on, state := .detached
          ident := if (s.port p).drivePresent = true ∧ (s.port p).ident = none ∧ (s.port p).unidentified = false ∧
            (s.port p).otherDrive = false then some 5 else (s.port p).ident }))

/-- AREA_SET: the checks in their order, and the area that is installed. AREA_DROP: the checks in their order, and what
the removal leaves and reports. That the removal takes with it what an abandoned run, or a clip that has ended, has left
in the queues is the model's reading (log 41); so is it that a claim which the verify engine has out is counted as one
whose answer is awaited no more (log 44), and that the engine gives up its extent where no discard is due (log 18). -/
def Obligations.AreasAreSetAndDropped : Prop :=
  (∀ (tag port start length unit reserve fill : Nat) (label : List Byte) (s : State), ∃ t,
     exec (.areaSet tag port start length unit reserve fill label) s = .next t ∧
     t.bays = s.bays ∧ t.arb = s.arb ∧ t.pool = s.pool ∧ t.jm = s.jm ∧ t.pending = s.pending ∧
     (∀ q : Fin 4, q.val ≠ port → t.port q = s.port q) ∧
     (4 ≤ port → OnlyLink s t ∧ Replies s t ⟨kindAreaSet, tag, .badArg, .codeAlone⟩) ∧
     ∀ p : Fin 4, port = p.val →
       ((s.port p).state ≠ .attached ∨ (s.port p).holds ≠ [] ∨ (s.port p).identity = none →
         OnlyLink s t ∧ Replies s t ⟨kindAreaSet, tag, .wrongState, .codeAlone⟩) ∧
       ∀ d, (s.port p).state = .attached → (s.port p).holds = [] → (s.port p).identity = some d →
         (d.capacity < start + length ∨ ¬ UnitPower unit ∨ length < unit ∨
             length / unit - min reserve (length / unit) < fill ∨ 16 < label.length →
           OnlyLink s t ∧ Replies s t ⟨kindAreaSet, tag, .badArg, .codeAlone⟩) ∧
         (start + length ≤ d.capacity → UnitPower unit → unit ≤ length →
           fill ≤ length / unit - min reserve (length / unit) → label.length ≤ 16 →
           Replies s t ⟨kindAreaSet, tag, .done,
             .areaSet (length / unit) (min reserve (length / unit)) (unit * d.blockSize)⟩ ∧
           t.port p = { s.port p with
             state := .ready
             area := some ⟨start, length, unit, d.blockSize, min reserve (length / unit), fill, fill, 0, 0, label⟩
             holds := [], openPl := [], tally := 0 } ∧
           Instr.noticeQueued (.port p (.areaChange (some
             ⟨start, length / unit, min reserve (length / unit), fill⟩)) .ready) ∈ t.wire ∧
           Instr.areaInstalledReport p ∈ t.wire)) ∧
  (∀ (tag port : Nat) (s : State), ∃ t, exec (.areaDrop tag port) s = .next t ∧
     t.bays = s.bays ∧ t.arb = s.arb ∧ t.jm = s.jm ∧ t.pending = s.pending ∧
     (∀ q : Fin 4, q.val ≠ port → t.port q = s.port q) ∧
     (4 ≤ port → OnlyLink s t ∧ Replies s t ⟨kindAreaDrop, tag, .badArg, .codeAlone⟩) ∧
     ∀ p : Fin 4, port = p.val →
       ((s.port p).state ≠ .ready ∨ (s.port p).holds ≠ [] ∨ (s.port p).openPl ≠ [] →
         OnlyLink s t ∧ Replies s t ⟨kindAreaDrop, tag, .wrongState, .codeAlone⟩) ∧
       ∀ a, (s.port p).state = .ready → (s.port p).holds = [] → (s.port p).openPl = [] → (s.port p).area = some a →
         Replies s t ⟨kindAreaDrop, tag, .done, .areaDrop ⟨a.fill, a.abandoned, a.placements⟩⟩ ∧
         Giving (s.engineGiven p) (fun u => u.pool = s.pool ∧ u.jm = s.jm ∧
           s.wire.erase (.areaDrop tag port) ++ [Instr.noticeQueued (.port p (.areaChange none) .attached)] <+: u.wire) t ∧
         t.port p = { s.port p with
           state := .attached, area := none, writeQ := [], write := none, verifyQ := [], engine := Engine.reset
           read := none, unawaited := (s.port p).unawaited ++ (s.port p).engine.claim.toList } ∧
         Instr.noticeQueued (.port p (.areaChange none) .attached) ∈ t.wire)

/-! ## Jobs and clips -/

/-- JOB_OPEN: the checks in their order, and the record of the job that is created. -/
def Obligations.JobOpenCreates : Prop :=
  ∀ (tag job bay verify damage count : Nat) (slots : List CopySlot) (s : State), ∃ t,
    exec (.jobOpen tag job bay verify damage count slots) s = .next t ∧
    t.bays = s.bays ∧ t.arb = s.arb ∧ t.pool = s.pool ∧ t.ports = s.ports ∧ t.pending = s.pending ∧
    (job < 1 ∨ 8 < job ∨ 8 ≤ bay ∨ ¬ SlotsValid count slots ∨ verify < 1 ∨ 2 < verify ∨ damage < 1 ∨ 2 < damage →
      OnlyLink s t ∧ Replies s t ⟨kindJobOpen, tag, .badArg, .codeAlone⟩) ∧
    ∀ b : Fin 8, bay = b.val → 1 ≤ job → job ≤ 8 → SlotsValid count slots → 1 ≤ verify → verify ≤ 2 → 1 ≤ damage →
      damage ≤ 2 →
      ((s.job? job).isSome = true ∨ (s.jobOf b).isSome = true →
        OnlyLink s t ∧ Replies s t ⟨kindJobOpen, tag, .busy, .codeAlone⟩) ∧
      (s.job? job = none → s.jobOf b = none → (s.view b).sig = none →
        OnlyLink s t ∧ Replies s t ⟨kindJobOpen, tag, .wrongState, .codeAlone⟩) ∧
      (∀ g, s.job? job = none → s.jobOf b = none → (s.view b).sig = some g →
        Replies s t ⟨kindJobOpen, tag, .done, .codeAlone⟩ ∧ t.jm.clips = s.jm.clips ∧ t.jm.nextId = s.jm.nextId ∧
        ∃ es, t.jm.jobs = s.jm.jobs ++ [⟨job, b, g, es, if verify = 1 then .full else .off,
            if damage = 1 then .abort else .salvage, .opened, none, [], false, ⟨0, 0, 0, 0⟩⟩] ∧
          es.map (fun e => (e.port.val, e.required)) = (slots.take count).map (fun e => (e.port, decide (e.flag = 1))) ∧
          Instr.bayJobBound b job g .opened ∈ t.wire)

/-- CLIP_ADD: the checks in their order; the id that is assigned, which joins the tail of its job's clip list, the
counter after it, and the record, which is the new clip's as created when no admission can begin for it (the job is
away, has a READING clip or a card-sourced repair outstanding, or an admission is in progress), and when one begins with
it: the ports of its copies are then enquired. Where earlier clips of the job wait, the admission begins with the first
of them in the order of trying. An admission in progress holds the admission point over, and keeps the list of clips
that it tries, so that the new clip is not tried in it (the model's choice, log 47). That the bay is told of no clip of
length 0 is the model's reading (log 45), and that one which fails keeps its mismatch mark, and the order of what it
sends, its choice (log 46, log 28). The conditions of the third check are spelled out, and so is the id: the counter's
value, or the first id after it, 1 following 65535, that no clip has. A required copy that an earlier read left FAILED
stands in the way of no admission, by the model's reading (log 52). -/
def Obligations.ClipAddCreates : Prop :=
  (∀ (tag job : Nat) (label : List Byte) (length : Nat) (runs : List Run) (flag : Nat) (expect : Digest) (s : State),
     ∃ t, exec (.clipAdd tag job label length runs flag expect) s = .next t ∧
     t.bays = s.bays ∧ t.arb = s.arb ∧ t.pool = s.pool ∧ t.ports = s.ports ∧ t.pending = s.pending ∧
     (s.job? job = none → OnlyLink s t ∧ Replies s t ⟨kindClipAdd, tag, .noSuch, .codeAlone⟩) ∧
     ∀ j, s.job? job = some j →
       (j.state ≠ .opened → OnlyLink s t ∧ Replies s t ⟨kindClipAdd, tag, .wrongState, .codeAlone⟩) ∧
       (j.state = .opened → clipArgsBad j label length runs flag = true →
         OnlyLink s t ∧ Replies s t ⟨kindClipAdd, tag, .badArg, .codeAlone⟩) ∧
       (j.state = .opened → clipArgsBad j label length runs flag = false → 1024 ≤ s.jm.clips.length →
         OnlyLink s t ∧ Replies s t ⟨kindClipAdd, tag, .noRoom, .codeAlone⟩) ∧
       (j.state = .opened → clipArgsBad j label length runs flag = false → s.jm.clips.length < 1024 →
         Replies s t ⟨kindClipAdd, tag, .done, .clipAdd (freeId s.jm)⟩ ∧
         t.jm.clips.map Clip.id = s.jm.clips.map Clip.id ++ [freeId s.jm] ∧
         t.jm.nextId = (if 65535 ≤ freeId s.jm then 1 else freeId s.jm + 1) ∧
         (∃ j', t.job? job = some j' ∧ j'.clips = j.clips ++ [freeId s.jm]) ∧
         (∀ u, u = { s with jm := { s.jm with
             nextId := (if 65535 ≤ freeId s.jm then 1 else freeId s.jm + 1)
             jobs := s.jm.jobs.map (fun i => if i.id = job then { i with clips := i.clips ++ [freeId s.jm] } else i)
             clips := s.jm.clips ++ [⟨freeId s.jm, j.id, label, length, runs,
               if flag = 1 then some expect else none, none, none, 0, 0, false, [], .queued, none, none,
               j.copySet.map (fun e => ⟨e.port, e.required, .pending, none, 1, none, none, none⟩)⟩] } } →
           s.lki.receive = [] → (s.view j.bay).adm = none →
           PointTaken u t j.bay (s.wire.erase (.clipAdd tag job label length runs flag expect))) ∧
         (s.jobOf j.bay = some j →
           (s.view j.bay).sig ≠ some j.sig ∨ (∃ i ∈ j.clips, ∃ c, s.clip? i = some c ∧ c.state = .reading) ∨
             (s.view j.bay).repairs ≠ [] ∨ (s.view j.bay).adm.isSome = true →
           t.jm.clips = s.jm.clips ++ [⟨freeId s.jm, j.id, label, length, runs,
             if flag = 1 then some expect else none, none, none, 0, 0, false, [], .queued, none, none,
             j.copySet.map (fun e => ⟨e.port, e.required, .pending, none, 1, none, none, none⟩)⟩]) ∧
         (∀ a, (s.view j.bay).adm = some a → (t.view j.bay).adm = some { a with heldOver := true }) ∧
         (s.jobOf j.bay = some j → (s.view j.bay).sig = some j.sig → (s.view j.bay).adm = none →
           (s.view j.bay).repairs = [] → j.copySet ≠ [] → (∀ c ∈ s.jm.clips, c.id ≠ freeId s.jm) →
           (∀ i ∈ j.clips, ∀ c, s.clip? i = some c → c.state ≠ .reading ∧ c.state ≠ .queued ∧ c.state ≠ .waiting) →
           t.jm.clips = s.jm.clips ++ [⟨freeId s.jm, j.id, label, length, runs,
             if flag = 1 then some expect else none, none, none, 0, 0, false, [], .queued, none, none,
             j.copySet.map (fun e => ⟨e.port, e.required, .pending, none, 1, none, none, none⟩)⟩] ∧
           (∃ rest, (t.view j.bay).adm =
               some ⟨.enquiring, freeId s.jm, rest, j.copySet.map CopyEntry.port, [], [], false, false⟩ ∧
             ((∀ i ∈ j.clips, i ≠ freeId s.jm) → rest = [])) ∧
           ∀ e ∈ j.copySet, Instr.holdEnquiry e.port (freeId s.jm) length ∈ t.wire))) ∧
  (∀ (j : Job) (label : List Byte) (length : Nat) (runs : List Run) (flag : Nat),
     clipArgsBad j label length runs flag = false ↔
       1 ≤ label.length ∧ label.length ≤ 48 ∧ length ≤ 1099511627776 ∧ runs.length ≤ 16 ∧ flag < 2 ∧
       (∀ r ∈ runs, 1 ≤ r.count ∧ r.count ≤ 16777216 ∧ r.start + r.count ≤ j.sig.capacity) ∧
       runs.Pairwise (fun a b => a.start + a.count ≤ b.start ∨ b.start + b.count ≤ a.start) ∧
       length ≤ (runs.map Run.count).sum * 512 ∧ (runs.map Run.count).sum * 512 < length + 512) ∧
  (∀ m : JobManager, 1 ≤ m.nextId → m.nextId ≤ 65535 → m.clips.length ≤ 1024 →
     ∃ k, freeId m = (m.nextId - 1 + k) % 65535 + 1 ∧ (∀ c ∈ m.clips, c.id ≠ freeId m) ∧
       ∀ i, i < k → ∃ c ∈ m.clips, c.id = (m.nextId - 1 + i) % 65535 + 1)

/-- JOB_SEAL: accepted with no change in SEALED and DONE; in OPEN the job is SEALED, or DONE when all its clips are
terminal. -/
def Obligations.JobSealSeals : Prop :=
  ∀ (tag job : Nat) (s : State), ∃ t, exec (.jobSeal tag job) s = .next t ∧
    t.bays = s.bays ∧ t.arb = s.arb ∧ t.pool = s.pool ∧ t.ports = s.ports ∧ t.pending = s.pending ∧
    t.jm.clips = s.jm.clips ∧
    (s.job? job = none → OnlyLink s t ∧ Replies s t ⟨kindJobSeal, tag, .noSuch, .codeAlone⟩) ∧
    ∀ j, s.job? job = some j →
      (j.state = .stopping ∨ j.state = .stopped →
        OnlyLink s t ∧ Replies s t ⟨kindJobSeal, tag, .wrongState, .codeAlone⟩) ∧
      (j.state = .sealed ∨ j.state = .done → OnlyLink s t ∧ Replies s t ⟨kindJobSeal, tag, .done, .jobState j.state⟩) ∧
      (j.state = .opened → s.allTerminal j = false →
        t.job? job = some { j with state := .sealed } ∧ Replies s t ⟨kindJobSeal, tag, .done, .jobState .sealed⟩ ∧
          Instr.bayJobState j.bay .sealed ∈ t.wire) ∧
      (j.state = .opened → s.allTerminal j = true →
        t.job? job = some { j with state := .done } ∧ Replies s t ⟨kindJobSeal, tag, .done, .jobState .done⟩ ∧
          Instr.bayJobState j.bay .done ∈ t.wire ∧ Instr.noticeQueued (.job j.id .done j.stop j.counts) ∈ t.wire ∧
          (t.view j.bay).clear = t.clearOf j.bay) ∧
      ∀ k, k ≠ job → t.job? k = s.job? k

/-- JOB_STOP: the checks in their order. A DRAIN cancels the clips that are QUEUED or WAITING and leaves the READING and
LANDING ones untouched, the job STOPPED when all its clips are terminal, else STOPPING; one for a STOPPING job changes
nothing; a CUT cancels every clip that is not terminal, the waiting ones first, and makes the job STOPPED. In tables that
agree with themselves (TablesOk) each clip cancelled has its copies that are not settled DROPPED, counts as CANCELLED, and
sends its notice and messages in clip-list order, and the word to the bay and the notice of the job follow them. The order
of the messages of one clip is the model's (log 28), and so is what a confirming admission sends (log 13). -/
def Obligations.JobStopStops : Prop :=
  ∀ (tag job mode : Nat) (s : State), ∃ t, exec (.jobStop tag job mode) s = .next t ∧
    t.bays = s.bays ∧ t.arb = s.arb ∧ t.pool = s.pool ∧ t.ports = s.ports ∧ t.pending = s.pending ∧
    t.jm.clips.map Clip.id = s.jm.clips.map Clip.id ∧ t.jm.jobs.map Job.id = s.jm.jobs.map Job.id ∧
    (mode < 1 ∨ 2 < mode → OnlyLink s t ∧ Replies s t ⟨kindJobStop, tag, .badArg, .codeAlone⟩) ∧
    (1 ≤ mode → mode ≤ 2 → s.job? job = none → OnlyLink s t ∧ Replies s t ⟨kindJobStop, tag, .noSuch, .codeAlone⟩) ∧
    ∀ j, s.job? job = some j →
      (1 ≤ mode → mode ≤ 2 → j.state = .done ∨ j.state = .stopped →
        OnlyLink s t ∧ Replies s t ⟨kindJobStop, tag, .wrongState, .codeAlone⟩) ∧
      (mode = 1 → j.state = .stopping →
        OnlyLink s t ∧ Replies s t ⟨kindJobStop, tag, .done, .jobStop .stopping j.counts⟩) ∧
      (mode = 1 → j.state = .opened ∨ j.state = .sealed →
        (∀ i ∈ j.clips, ∀ c, t.clip? i = some c → clipWaits c = false) ∧
        (∀ i ∈ j.clips, ∀ c, s.clip? i = some c → c.state = .reading ∨ c.state = .landing → t.clip? i = some c) ∧
        ∃ j', t.job? job = some j' ∧ j'.stop = some .drain ∧ (j'.state = .stopping ∨ j'.state = .stopped) ∧
          (j'.state = .stopped ↔ ∀ i ∈ j.clips, ∀ c, t.clip? i = some c → clipTerminal c = true) ∧
          Replies s t ⟨kindJobStop, tag, .done, .jobStop j'.state j'.counts⟩ ∧ Instr.bayJobState j.bay j'.state ∈ t.wire ∧
          (TablesOk s → JobStopped s t j (fun c => decide (c.state = .queued ∨ c.state = .waiting)) j'.state .drain j.forced
            (s.wire.erase (.jobStop tag job mode) ++
              (listed s j (fun c => decide (c.state = .queued ∨ c.state = .waiting))).flatMap
                (cancelSent s j.verify j.bay)))) ∧
      (mode = 2 → j.state = .opened ∨ j.state = .sealed ∨ j.state = .stopping →
        (∀ i ∈ j.clips, ∀ c, t.clip? i = some c → clipTerminal c = true) ∧
        (∀ i ∈ j.clips, ∀ c b, s.clip? i = some c → c.state = .reading ∨ c.state = .landing → s.bayOfClip c = some b →
          cutSequence (s.verifyOfClip c) b c <:+: t.wire) ∧
        ∃ j', t.job? job = some j' ∧ j'.stop = some .cut ∧ j'.state = .stopped ∧
          Replies s t ⟨kindJobStop, tag, .done, .jobStop .stopped j'.counts⟩ ∧ Instr.bayJobState j.bay .stopped ∈ t.wire ∧
          (TablesOk s → JobCut s t j j.forced (s.wire.erase (.jobStop tag job mode))))

/-- CLIP_CANCEL: the checks in their order; a clip that is not terminal becomes CANCELLED, its wait reason and running
digest gone, with every copy that is not settled DROPPED. For a QUEUED or WAITING clip the closes of its kept copies go
out, and for one that is being admitted the withdrawals of its holds; for a READING or LANDING clip the messages of its
cut, in their order. Its job counts it as CANCELLED, and is DONE or STOPPED where it was the last. The cut of a READING
clip is an admission point of its bay, and so is that of a LANDING one which ends the bay's last card-sourced repair: it
is held over where an admission is in progress, and else taken, the next clip being tried (what it does is spelled out
where the job has other clips left and the cut of a READING clip has no repair to end). The cut of a LANDING clip that
leaves a repair outstanding, or finds none, is no admission point. What a settled copy, a terminal clip and a waiting
one are is spelled out. That the copies of a clip whose admission is confirming are DROPPED also when they are WRITING,
and what it sends, is presumed (log 13); the order of the messages of one clip is the model's (log 28). Of the admission
that follows, that the bay is told of no clip of length 0 is the model's reading (log 45), and that one which fails
keeps its mismatch mark its choice (log 46). A required copy that an earlier read left FAILED stands in the way of no
admission, by the model's reading (log 52). -/
def Obligations.ClipCancelCancels : Prop :=
  (∀ (v : VerifyMode) (k : Copy), copySettled v k = true ↔ k.state = .verified ∨ k.state = .failed ∨ k.state = .dropped ∨
    k.state = .skipped ∨ (k.state = .written ∧ v = .off)) ∧
  (∀ c : Clip, (clipTerminal c = true ↔ c.state = .safe ∨ c.state = .partialSafe ∨ c.state = .failed ∨ c.state = .cancelled) ∧
    (clipWaits c = true ↔ c.state = .queued ∨ c.state = .waiting)) ∧
  ∀ (tag clip : Nat) (s : State), ∃ t, exec (.clipCancel tag clip) s = .next t ∧
    t.bays = s.bays ∧ t.arb = s.arb ∧ t.pool = s.pool ∧ t.ports = s.ports ∧ t.pending = s.pending ∧
    t.jm.clips.map Clip.id = s.jm.clips.map Clip.id ∧
    (clip < 1 ∨ 65535 < clip → OnlyLink s t ∧ Replies s t ⟨kindClipCancel, tag, .badArg, .codeAlone⟩) ∧
    (1 ≤ clip → clip ≤ 65535 →
      (s.clip? clip = none → OnlyLink s t ∧ Replies s t ⟨kindClipCancel, tag, .noSuch, .codeAlone⟩) ∧
      ∀ c, s.clip? clip = some c →
        (clipTerminal c = true → OnlyLink s t ∧ Replies s t ⟨kindClipCancel, tag, .wrongState, .codeAlone⟩) ∧
        (clipTerminal c = false → Replies s t ⟨kindClipCancel, tag, .done, .clipCancel .cancelled⟩ ∧
          t.clip? clip = some (cancelledRecord (s.verifyOfClip c) c) ∧
          (clipWaits c = false → Instr.clipDiscard clip ∈ t.wire) ∧
          (∀ j, TablesOk s → s.job? c.job = some j →
            (clipWaits c = true → s.wire.erase (.clipCancel tag clip) ++ cancelSent s j.verify j.bay c <+: t.wire ∧
              ∀ a, (s.view j.bay).adm = some a → (t.view j.bay).adm =
                some (if a.clip = clip ∧ a.phase ≠ .trying then { a with cancelled := true } else a)) ∧
            ∃ j', t.job? c.job = some j' ∧ j'.counts.cancelled = j.counts.cancelled + 1 ∧ JobTested s t j j' clip ∧
              (clipWaits c = true ∨ OthersEnded s j clip ∨
                  (c.state = .landing ∧ ∀ k ∈ c.copies, k.state ≠ .repairing) →
                j'.counts = countsAfter j.counts .cancelled ∧ (¬ OthersEnded s j clip → j'.state = j.state))) ∧
          (∀ j, TablesOk s → s.job? c.job = some j → (c.state = .reading → ∀ a, (s.view j.bay).adm = some a →
              (t.view j.bay).adm = some { a with heldOver := true }) ∧
            ∀ left, left = (s.view j.bay).repairs.filter (fun r => !(r.clip == clip && c.copies.any (fun k =>
                decide (k.state = .repairing) && decide (k.repair.map Repair.source = some .card) &&
                  decide (k.port = r.port)))) →
              (c.state = .landing → (s.view j.bay).repairs = [] ∨ left ≠ [] →
                (t.view j.bay).adm = (s.view j.bay).adm) ∧
              (∀ u, s.lki.receive = [] → ¬ OthersEnded s j clip →
                u = (clipEnded s j (cancelledRecord j.verify c) (s.wire.erase (.clipCancel tag clip) ++
                  cutSent j.verify j.bay c)).setView j.bay { s.view j.bay with repairs := left } →
                (c.state = .reading → (∀ k ∈ c.copies, k.state ≠ .repairing) → PointFollows u t j.bay) ∧
                (c.state = .landing → (s.view j.bay).repairs ≠ [] → left = [] → PointFollows u t j.bay))) ∧
          (∀ b, c.state = .reading ∨ c.state = .landing → s.bayOfClip c = some b →
            s.wire.erase (.clipCancel tag clip) ++ [Instr.noticeQueued (.clip clip c.job .cancelled none none)] ++
              cutSequence (s.verifyOfClip c) b c <+: t.wire) ∧
          Instr.noticeQueued (.clip clip c.job .cancelled none none) ∈ t.wire))

/-- CARD_RELEASE: the checks in their order; a forced one cuts a job that still runs, as JOB_STOP with CUT does in tables
that agree with themselves (TablesOk), with the messages of each cut in their order, and sets the forced-release flag; a
job that has ended stands but for that flag; the bay is told of an accepted one. The condition CLEAR is spelled out. The
order of the messages of one clip is the model's (log 28), and so is what a confirming admission sends (log 13). -/
def Obligations.CardReleaseDecides : Prop :=
  (∀ (b : Fin 8) (s : State), (s.jobOf b = none → s.clearOf b = false) ∧
    ∀ j, s.jobOf b = some j → (s.clearOf b = true ↔ (s.view b).sig = some j.sig ∧ j.state = .done ∧
      ∀ i ∈ j.clips, ∃ c, s.clip? i = some c ∧ c.state = .safe ∧ c.damage = [])) ∧
  ∀ (tag bay force : Nat) (s : State), ∃ t, exec (.cardRelease tag bay force) s = .next t ∧
    t.bays = s.bays ∧ t.arb = s.arb ∧ t.pool = s.pool ∧ t.ports = s.ports ∧ t.pending = s.pending ∧
    (8 ≤ bay ∨ 2 ≤ force → OnlyLink s t ∧ Replies s t ⟨kindCardRelease, tag, .badArg, .codeAlone⟩) ∧
    ∀ b : Fin 8, bay = b.val → force < 2 →
      (s.jobOf b = none → OnlyLink s t ∧ Replies s t ⟨kindCardRelease, tag, .wrongState, .codeAlone⟩) ∧
      ∀ j, s.jobOf b = some j →
        (force = 0 → s.clearOf b = false → OnlyLink s t ∧ Replies s t ⟨kindCardRelease, tag, .notSafe, .codeAlone⟩) ∧
        (force = 0 → s.clearOf b = true → t.jm = s.jm ∧
          Replies s t ⟨kindCardRelease, tag, .done, .release j.state j.forced⟩ ∧ Instr.bayReleaseAccepted b ∈ t.wire) ∧
        (force = 1 → s.job? j.id = some j → ∃ j', t.job? j.id = some j' ∧ j'.forced = true ∧
          j'.state = (if j.state = .done then .done else .stopped) ∧
          (j.state ≠ .done → j.state ≠ .stopped → ∀ i ∈ j.clips, ∀ c b', s.clip? i = some c →
            c.state = .reading ∨ c.state = .landing → s.bayOfClip c = some b' →
            cutSequence (s.verifyOfClip c) b' c <:+: t.wire) ∧
          (TablesOk s → j.state ≠ .done → j.state ≠ .stopped →
            JobCut s t j true (s.wire.erase (.cardRelease tag bay force))) ∧
          (j.state = .done ∨ j.state = .stopped → t.jm.clips = s.jm.clips ∧ j' = { j with forced := true }) ∧
          Replies s t ⟨kindCardRelease, tag, .done, .release j'.state true⟩ ∧ Instr.bayReleaseAccepted b ∈ t.wire)

/-- JOB_RETIRE: the checks in their order; the job's record and its clips' records leave the tables, the bay is told,
and the reply carries the final record. -/
def Obligations.JobRetireRemoves : Prop :=
  ∀ (tag job : Nat) (s : State), ∃ t, exec (.jobRetire tag job) s = .next t ∧
    t.bays = s.bays ∧ t.arb = s.arb ∧ t.pool = s.pool ∧ t.ports = s.ports ∧ t.pending = s.pending ∧
    (s.job? job = none → OnlyLink s t ∧ Replies s t ⟨kindJobRetire, tag, .noSuch, .codeAlone⟩) ∧
    ∀ j, s.job? job = some j →
      (j.state ≠ .done → j.state ≠ .stopped →
        OnlyLink s t ∧ Replies s t ⟨kindJobRetire, tag, .wrongState, .codeAlone⟩) ∧
      (j.state = .done ∨ j.state = .stopped →
        t.jm.jobs = s.jm.jobs.filter (fun k => k.id != job) ∧
        t.jm.clips = s.jm.clips.filter (fun c => !j.clips.contains c.id) ∧ Instr.bayJobRemoved j.bay ∈ t.wire ∧
        ((∀ k ∈ s.jm.jobs, k.id ≠ job → k.bay ≠ j.bay) → (t.view j.bay).clear = false) ∧
        Replies s t ⟨kindJobRetire, tag, .done, .retire j.id j.bay j.state j.stop j.forced j.counts⟩)

/-! ## Card reads and queries -/

/-- CARD_READ: the checks in their order; a read that passes is entered with its count clamped to 64 and the request is in
hand no more, also where the host waits for a frame, and the arbiter looks for grants. While no lane can be granted it
waits; while it stands first, the reads before it on the list being passed over since their bays hold lanes, a lane that
is granted looks at the bay as it stands. A read that ends has its reply ready, and none where a link reset has taken it.
The number by which the read is known in the model is the model's own (log 32). -/
def Obligations.CardReadIsEntered : Prop :=
  (∀ (tag bay start count : Nat) (s : State), ∃ t, exec (.cardRead tag bay start count) s = .next t ∧
    t.pool = s.pool ∧ t.ports = s.ports ∧ t.jm = s.jm ∧ t.pending = s.pending ∧
    (∀ b, bayCore (t.bay b) = bayCore (s.bay b)) ∧
    (8 ≤ bay ∨ count = 0 → OnlyLink s t ∧ Replies s t ⟨kindCardRead, tag, .badArg, .codeAlone⟩) ∧
    (bay < 8 → 1 ≤ count → 4 ≤ s.lki.reads.length →
      OnlyLink s t ∧ Replies s t ⟨kindCardRead, tag, .busy, .codeAlone⟩) ∧
    (∀ b : Fin 8, bay = b.val → 1 ≤ count → s.lki.reads.length < 4 →
      ∃ u, GrantRound { s.arrive (.cardRead tag bay start count) with
          lki := { s.lki with
            reads := s.lki.reads ++ [⟨s.lki.nextRead, tag, b, start, min count 64, handOrphan s.lki kindCardRead tag⟩]
            nextRead := s.lki.nextRead + 1
            inHand := if handIs s.lki kindCardRead tag then none else s.lki.inHand }
          arb := { s.arb with requests := s.arb.requests ++ [s.lki.nextRead] } } u ∧
        OnlyLink u t ∧ u.replyLog <+: t.replyLog ∧ u.wire <+: t.wire) ∧
    (∀ b : Fin 8, bay = b.val → 1 ≤ count → s.lki.reads.length < 4 →
        s.lki.inWaiting = 0 ∨ (s.lki.ready = [] ∧ s.lki.notices = []) → s.lki.receive = [] →
      (s.arb.asking.isSome = true ∨ s.freeActiveLane = none →
        t.lki.reads = s.lki.reads ++
          [⟨s.lki.nextRead, tag, b, start, min count 64, handOrphan s.lki kindCardRead tag⟩] ∧
        t.arb.requests = s.arb.requests ++ [s.lki.nextRead] ∧ t.replyLog = s.replyLog ∧
        handIs t.lki kindCardRead tag = false) ∧
      (∀ n, s.arb.asking = none → s.freeActiveLane = some n → s.laneOf b = none →
        (∀ i ∈ s.arb.requests, ∀ x, s.read? i = some x → ∃ m, holderBay (s.lane m) = some x.bay) →
        (∀ r ∈ s.lki.reads, r.id ≠ s.lki.nextRead) →
        ((s.bay b).state ≠ .mounted → handOrphan s.lki kindCardRead tag = false →
          s.replyLog ++ [⟨kindCardRead, tag, .wrongState, .cardRead 0 0 []⟩] <+: t.replyLog) ∧
        (∀ g, (s.bay b).state = .mounted → (s.bay b).sig = some g → g.capacity ≤ start →
          handOrphan s.lki kindCardRead tag = false →
          s.replyLog ++ [⟨kindCardRead, tag, .badArg, .codeAlone⟩] <+: t.replyLog) ∧
        (∀ g, (s.bay b).state = .mounted → (s.bay b).sig = some g → start < g.capacity →
          (t.lane n).holder =
            some (.host ⟨s.lki.nextRead, b, start, min (min count 64) (g.capacity - start), 0, []⟩))))) ∧
  ∀ (id : Nat) (code : ReplyCode) (body : ReplyBody) (s : State) (e : CardRead), s.read? id = some e →
    OnlyLink s (s.endRead id code body) ∧
    (e.orphan = false →
      s.replyLog ++ [⟨kindCardRead, e.tag, code, body⟩] <+: (s.endRead id code body).replyLog) ∧
    (e.orphan = true →
      s.endRead id code body = { s with lki := { s.lki with reads := s.lki.reads.filter (fun r => r.id != id) } })

/-- The five queries report their block's records and change nothing. IDENT: the reply, with the fresh-start flag as it
stood, which is then clear. What the bay, port and pool queries report is spelled out field by field. What a presence sense
reads while its power is OFF, and the time left on a timer, are free values (log 22, log 3). -/
def Obligations.QueriesAndIdentReport : Prop :=
  (∀ (tag v : Nat) (s : State), ∃ t, exec (.bayQuery tag v) s = .next t ∧ OnlyLink s t ∧
    (8 ≤ v → Replies s t ⟨kindBayQuery, tag, .badArg, .codeAlone⟩) ∧
    (∀ b : Fin 8, v = b.val → Replies s t ⟨kindBayQuery, tag, .done, .bay (bayInfo s.fresh (s.bay b))⟩)) ∧
  (∀ (tag v : Nat) (s : State), ∃ t, exec (.portQuery tag v) s = .next t ∧ OnlyLink s t ∧
    (4 ≤ v → Replies s t ⟨kindPortQuery, tag, .badArg, .codeAlone⟩) ∧
    (∀ p : Fin 4, v = p.val → Replies s t ⟨kindPortQuery, tag, .done, .port (portInfo s.fresh (s.port p))⟩)) ∧
  (∀ (tag v : Nat) (s : State), ∃ t, exec (.jobQuery tag v) s = .next t ∧ OnlyLink s t ∧
    (v < 1 ∨ 8 < v → Replies s t ⟨kindJobQuery, tag, .badArg, .codeAlone⟩) ∧
    (1 ≤ v → v ≤ 8 → s.job? v = none → Replies s t ⟨kindJobQuery, tag, .noSuch, .codeAlone⟩) ∧
    (∀ j, 1 ≤ v → v ≤ 8 → s.job? v = some j →
      Replies s t ⟨kindJobQuery, tag, .done, .job j (decide ((s.view j.bay).sig ≠ some j.sig)) (s.clearOf j.bay)⟩)) ∧
  (∀ (tag v : Nat) (s : State), ∃ t, exec (.clipQuery tag v) s = .next t ∧ OnlyLink s t ∧
    (v < 1 ∨ 65535 < v → Replies s t ⟨kindClipQuery, tag, .badArg, .codeAlone⟩) ∧
    (1 ≤ v → v ≤ 65535 → s.clip? v = none → Replies s t ⟨kindClipQuery, tag, .noSuch, .codeAlone⟩) ∧
    (∀ c, 1 ≤ v → v ≤ 65535 → s.clip? v = some c → Replies s t ⟨kindClipQuery, tag, .done, .clip c⟩)) ∧
  (∀ (tag : Nat) (s : State), ∃ t, exec (.poolQuery tag) s = .next t ∧ OnlyLink s t ∧
    Replies s t ⟨kindPoolQuery, tag, .done, .pool (poolInfo s.pool)⟩) ∧
  (∀ (tag : Nat) (s : State), ∃ t, exec (.ident tag) s = .next t ∧ OnlyLink s t ∧ t.lki.freshStart = false ∧
     Replies s t ⟨kindIdent, tag, .done,
       .ident ⟨"Torzel", "Ezorant OC-84", 1, 8, 4, 1024, 1024, s.lki.freshStart⟩⟩ ∧
     t.noticeLog = s.noticeLog ∧ t.lki.droppedMark = s.lki.droppedMark) ∧
  (∀ (fresh : Nat) (x : Bay) (r : BayInfo), r = bayInfo fresh x → r.power = x.power ∧ r.state = x.state ∧
    (x.power = .on → r.cardPresent = x.cardPresent) ∧ r.sig = x.sig ∧ r.job = x.job.map BoundJob.id ∧
    (r.away = true ↔ ∃ j, x.job = some j ∧ (x.state ≠ .mounted ∨ x.sig ≠ some j.sig)) ∧ r.clear = x.clear ∧
    r.lock = x.lock ∧ r.lamp = x.lamp ∧ r.mode = x.health.mode ∧ r.count = x.health.count ∧ r.w = x.health.w ∧
    r.up = x.health.up ∧ r.lo = x.health.lo) ∧
  (∀ (fresh : Nat) (x : Port) (r : PortInfo), r = portInfo fresh x → r.power = x.power ∧ r.state = x.state ∧
    (x.power = .on → r.drivePresent = x.drivePresent) ∧ r.identifying = x.ident.isSome ∧ r.identity = x.identity ∧
    r.otherDrive = x.otherDrive ∧ r.grace = x.grace ∧ (x.graceTimer = none → r.graceLeft = none) ∧
    (∀ g, x.graceTimer = some g → ∃ left, r.graceLeft = some left ∧ left ≤ g) ∧ r.area = x.area ∧
    (∀ a, x.area = some a → r.capacity = a.length / a.unit ∧ r.unitBytes = a.unit * a.blockSize ∧
      r.room = a.length / a.unit - a.reserve - a.fill -
        ((x.holds.filter (fun h => h.void.isNone)).map Hold.footprint).sum) ∧
    r.nHolds = x.holds.length ∧ r.nOpen = x.openPl.length ∧ r.nWrite = x.writeQ.length ∧
    r.nVerify = x.verifyQ.length ∧ r.tally = x.tally) ∧
  (∀ (p : Pool) (r : PoolInfo), r = poolInfo p → r.window = p.window ∧
    (IndexesRise p → r.nFree + r.nFilling + r.nFull = 1024) ∧
    r.nFilling = (p.extents.filter (fun e => decide (e.2.state = .filling))).length ∧
    r.nFull = (p.extents.filter (fun e => decide (e.2.state = .full))).length ∧
    (r.clips.map ClipHolding.clip).Nodup ∧
    (∀ h, h ∈ r.clips ↔ (∃ e ∈ p.extents, e.2.claim.clip = h.clip) ∧
      h.first = (p.extents.filter (fun e => e.2.claim.clip == h.clip && decide (e.2.claim.purpose = .first))).length ∧
      h.repair = (p.extents.filter (fun e => e.2.claim.clip == h.clip && decide (e.2.claim.purpose = .repair))).length) ∧
    r.perPort = (List.finRange 4).map (fun q => (p.extents.filter (fun e =>
      decide (e.2.state = .full) && e.2.pending.any (fun ps => ps.contains q))).length) ∧
    r.waits = (orderedWaits p.waits).map (fun w => ⟨w, decide (p.window ≤ heldCount p w.claim.clip)⟩))

/-! ## Bays -/

/-- CARD_SEATED, PROBE_COMPLETION and PROBE_TIMER_EXPIRY: an EMPTY bay probes a card that is seated; a valid answer mounts
it, starts the monitor and is reported; any other answer, and the timer, make the bay FAULTED; out of PROBING nothing
happens. An answer or an expiry of a probe that has ended is dropped, whatever the bay does now (how it is told from the
other is the model's, log 24). A card seated in another state only changes the sense (log 21); a serial of another length
counts as no valid answer (log 23). -/
def Obligations.ProbesMountOrFault : Prop :=
  (∀ (b : Fin 8) (answer : Option CardSig) (s : State), exec (.probeCompletion ⟨b, true⟩ answer) s = .next s ∧
    exec (.probeTimerExpiry ⟨b, true⟩) s = .next s) ∧
  (∀ (b : Fin 8) (s : State), ∃ t, exec (.cardSeated b) s = .next t ∧ OnlyBay b s t ∧
    ((s.bay b).state = .empty →
      (∃ lamp, t.bay b = { s.bay b with cardPresent := true, state := .probing, probeTimer := some 2, lamp := lamp }) ∧
      LampRight (t.bay b) ∧ t.wire = s.wire ++ [Instr.noticeQueued (.bay b .insert .probing (s.bay b).lock)]) ∧
    ((s.bay b).state ≠ .empty → t = s.setBay b { s.bay b with cardPresent := true })) ∧
  (∀ (b : Fin 8) (answer : Option CardSig) (s : State), ∃ t, exec (.probeCompletion ⟨b, false⟩ answer) s = .next t ∧
    OnlyReads b s t ∧
    ((s.bay b).state ≠ .probing → t = s) ∧
    (∀ g, (s.bay b).state = .probing → answer = some g → g.serial.length = 16 → 1 ≤ g.capacity →
      g.capacity ≤ 4294967295 →
      bayCore (t.bay b) = bayCore { s.bay b with
        state := .mounted, sig := some g, probeTimer := none, lamp := (t.bay b).lamp
        health := { (s.bay b).health with mode := .normal, running := true, window := some 2, count := 0 } } ∧
        LampRight (t.bay b) ∧
        s.wire ++ [Instr.mountReport b g, .noticeQueued (.bay b (.mount g) .mounted (s.bay b).lock)] <+: t.wire) ∧
    ((s.bay b).state = .probing → (∀ g, answer = some g → g.serial.length ≠ 16 ∨ g.capacity < 1 ∨
        4294967295 < g.capacity) → OnlyBay b s t ∧
      (∃ lamp, t.bay b = { s.bay b with state := .faulted, probeTimer := none, lamp := lamp }) ∧
      LampRight (t.bay b) ∧ t.wire = s.wire ++ [Instr.noticeQueued (.bay b .probeFault .faulted (s.bay b).lock)])) ∧
  (∀ (b : Fin 8) (s : State), ∃ t, exec (.probeTimerExpiry ⟨b, false⟩) s = .next t ∧ OnlyBay b s t ∧
    ((s.bay b).state = .probing → (s.bay b).probeTimer.isSome = true →
      (∃ lamp, t.bay b = { s.bay b with state := .faulted, probeTimer := none, lamp := lamp }) ∧ LampRight (t.bay b) ∧
      t.wire = s.wire ++ [Instr.noticeQueued (.bay b .probeFault .faulted (s.bay b).lock)]) ∧
    ((s.bay b).state ≠ .probing ∨ (s.bay b).probeTimer = none → t = s))

/-- CARD_LEAVES and CARD_LOSS: a mounted card's loss ends the bay's reads and its lane, stops the monitor and is reported;
a card still seated is probed again, with its notice of insertion; out of PROBING and FAULTED the bay becomes EMPTY. A
mounted card that leaves is lost in the same way. A host card read that holds the bay's lane is answered WRONG_STATE with
the blocks read so far and their data. The loss in the other states, and the lane that only awaits an acknowledgment, are
the model's readings (log 21, log 17); a claim that the lane has out is counted as one whose answer is awaited no more
(log 44); and the bay gives up the extents that it has of the pool where no discard is due (log 18). -/
def Obligations.CardLossEndsReads : Prop :=
  (∀ (b : Fin 8) (seated : Bool) (s : State), (s.bay b).state = .mounted → ∃ t,
    exec (.cardLoss b seated) s = .next t ∧
    Giving (s.bayGiven b (fun _ => true)) (fun u => OnlyReads b s u ∧ s.wire <+: u.wire ∧
      Instr.cardLostReport b ∈ u.wire) t ∧
    (∀ n r e, s.laneOf b = some n → (s.lane n).holder = some (.host r) → s.read? r.id = some e → e.orphan = false →
      s.replyLog ++ [⟨kindCardRead, e.tag, .wrongState, .cardRead r.blocks 0 r.data⟩] <+: t.replyLog) ∧
    bayCore (t.bay b) = bayCore { s.bay b with
      state := if seated then .probing else .empty, cardPresent := seated, sig := none, reading := none, repairs := []
      probeTimer := if seated then some 2 else (s.bay b).probeTimer, lamp := (t.bay b).lamp
      health := { (s.bay b).health with mode := .normal, running := false, window := none, count := 0 } } ∧
    LampRight (t.bay b) ∧
    [Instr.cardLostReport b, .noticeQueued (.bay b (.cardLost .mounted) .empty (s.bay b).lock)] ++
      (if seated then [.noticeQueued (.bay b .insert .probing (s.bay b).lock)] else []) <:+: t.wire ∧
    (∀ n, s.laneOf b = some n → (s.lane n).ack = none → holderBay (t.lane n) ≠ some b) ∧
    (∀ n item c, s.laneOf b = some n → (s.lane n).holder = some (.work b item) → (s.lane n).ack = none →
      (s.lane n).claim = some c → t.arb.unawaited = s.arb.unawaited ++ [⟨.lane n b, c⟩])) ∧
  (∀ (b : Fin 8) (s : State), (s.bay b).state ≠ .mounted →
    exec (.cardLoss b true) s = .next s ∧
    ∃ t u, exec (.cardLoss b false) s = .next t ∧ exec (.cardLeaves b) s = .next u ∧ OnlyBay b s t ∧ OnlyBay b s u ∧
      t.bay b = u.bay b ∧ (t.bay b).cardPresent = false ∧
      ((s.bay b).state = .probing ∨ (s.bay b).state = .faulted →
        (∃ lamp, t.bay b = { s.bay b with cardPresent := false, state := .empty, probeTimer := none, lamp := lamp }) ∧
        LampRight (t.bay b) ∧
        t.wire = s.wire ++ [Instr.noticeQueued (.bay b (.cardLost (s.bay b).state) .empty (s.bay b).lock)]) ∧
      ((s.bay b).state = .off ∨ (s.bay b).state = .empty → t = s.setBay b { s.bay b with cardPresent := false })) ∧
  (∀ (b : Fin 8) (s : State), (s.bay b).state = .mounted → ∃ u, exec (.cardLeaves b) s = .next u ∧
    Giving (s.bayGiven b (fun _ => true)) (OnlyReads b s) u ∧ (u.bay b).state = .empty ∧
    (u.bay b).cardPresent = false ∧ (u.bay b).sig = none ∧ Instr.cardLostReport b ∈ u.wire) ∧
  (∀ (b : Fin 8) (s : State), (s.bay b).state = .mounted →
    exec (.cardLeaves b) s = exec (.cardLoss b false) (s.arrive (.cardLeaves b)))

/-- EJECT_BUTTON, BAY_JOB_BOUND, BAY_JOB_REMOVED and BAY_RELEASE_ACCEPTED: the lock engages when a job is bound,
disengages at a release and at the job's removal with a notice only when it was ENGAGED, and holds the card while it is
ENGAGED. While it is DISENGAGED every press sends a departure of the card that is present: that a second press before the
first departure is taken sends another is the model's choice (log 48). -/
def Obligations.EjectLockHoldsCard : Prop :=
  (∀ (b : Fin 8) (s : State),
    ((s.bay b).lock = .disengaged → (s.bay b).cardPresent = true →
      exec (.ejectButton b) s = .next { s with wire := s.wire ++ [Instr.cardLeaves b] }) ∧
    ((s.bay b).lock = .engaged ∨ (s.bay b).cardPresent = false → exec (.ejectButton b) s = .next s)) ∧
  (∀ (b : Fin 8) (job : Nat) (g : CardSig) (st : JobState) (s : State), ∃ t,
    exec (.bayJobBound b job g st) s = .next t ∧ OnlyBay b s t ∧
    (∃ lamp, t.bay b = { s.bay b with job := some ⟨job, g, st⟩, lock := .engaged, lamp := lamp }) ∧
    LampRight (t.bay b) ∧ t.wire = s.wire.erase (.bayJobBound b job g st) ++
      [Instr.noticeQueued (.bay b .lockChange (s.bay b).state .engaged)]) ∧
  (∀ (b : Fin 8) (s : State), ∃ t, exec (.bayJobRemoved b) s = .next t ∧ OnlyBay b s t ∧
    t.bay b = { s.bay b with job := none, clear := false, lock := .disengaged, lamp := .unlit } ∧
    t.wire = s.wire.erase (.bayJobRemoved b) ++ (if (s.bay b).lock = .engaged then
      [.noticeQueued (.bay b .lockChange (s.bay b).state .disengaged)] else [])) ∧
  (∀ (b : Fin 8) (s : State), ∃ t, exec (.bayReleaseAccepted b) s = .next t ∧ OnlyBay b s t ∧
    t.bay b = { s.bay b with lock := .disengaged } ∧
    t.wire = s.wire.erase (.bayReleaseAccepted b) ++ (if (s.bay b).lock = .engaged then
      [.noticeQueued (.bay b .lockChange (s.bay b).state .disengaged)] else []))

/-- BAY_JOB_STATE and BAY_CLEAR_CHANGE: the bay's copies of the job's state and of CLEAR, and the lamp they give. -/
def Obligations.BayCopiesDriveLamp : Prop :=
  (∀ (b : Fin 8) (st : JobState) (s : State), ∃ t, exec (.bayJobState b st) s = .next t ∧ OnlyBay b s t ∧
    (∃ lamp, t.bay b = { s.bay b with job := (s.bay b).job.map (fun j => { j with state := st }), lamp := lamp }) ∧
    LampRight (t.bay b) ∧ t.wire = s.wire.erase (.bayJobState b st)) ∧
  (∀ (b : Fin 8) (v : Bool) (s : State), ∃ t, exec (.bayClearChange b v) s = .next t ∧ OnlyBay b s t ∧
    (∃ lamp, t.bay b = { s.bay b with clear := v && (s.bay b).job.isSome, lamp := lamp }) ∧
    LampRight (t.bay b) ∧ t.wire = s.wire.erase (.bayClearChange b v)) ∧
  (∀ x : Bay, (x.job = none → lampOf x = .unlit) ∧
    (∀ j, x.job = some j → x.state = .off → lampOf x = .unlit) ∧
    (∀ j, x.job = some j → x.state ≠ .off → x.state = .faulted ∨ x.state ≠ .mounted ∨ x.sig ≠ some j.sig →
      lampOf x = .redFlashing) ∧
    (∀ j, x.job = some j → x.state = .mounted → x.sig = some j.sig →
      lampOf x = (if x.clear then .greenSteady else if j.state = .done ∨ j.state = .stopped then .redSteady
        else if x.health.mode = .careful then .amberFlashing else .amberSteady)))

/-- HEALTH_WINDOW_EXPIRY: the count is cleared and a new window of W starts; a CAREFUL bay with no more than LO retry events
returns to NORMAL; a stopped monitor drops it. That an expiry taken in a running monitor is the current window's, also after a
retry has begun that window, is the model's reading (log 24). -/
def Obligations.HealthWindowsExpire : Prop :=
  ∀ (b : Fin 8) (s : State), ∃ t, exec (.healthWindowExpiry b) s = .next t ∧ OnlyBay b s t ∧
    ((s.bay b).health.running = false → t = s) ∧
    ((s.bay b).health.running = true →
      (∃ lamp, t.bay b = { s.bay b with
        health := { (s.bay b).health with
          mode := if (s.bay b).health.count ≤ (s.bay b).health.lo then .normal else (s.bay b).health.mode
          window := some (s.bay b).health.w, count := 0 }
        lamp := lamp }) ∧
      ((s.bay b).health.mode = .careful → (s.bay b).health.count ≤ (s.bay b).health.lo → LampRight (t.bay b) ∧
        t.wire = s.wire ++ [Instr.noticeQueued (.bay b (.healthMode .normal) (s.bay b).state (s.bay b).lock)]) ∧
      ((s.bay b).health.mode = .normal ∨ (s.bay b).health.lo < (s.bay b).health.count →
        t.wire = s.wire ∧ (t.bay b).lamp = (s.bay b).lamp))

/-- BAY_READ_WORK, POOL_OFFER, WORK_ITEM_ENDED and WAIT_REMOVED of a lane's request: what the bay has to read, what it has
been offered, whether it waits on the pool, the return of the lane that served an item that is ended, and the search for
grants that follows each. A grant: the lowest FREE active lane; the oldest host card read on the list, those whose bays
hold lanes being passed over; else the bay next in the round, the work item of its turn, and the lane prepared for it with
its first claim. A search leaves the other blocks, and the lanes that are held, as they are. An offer that finds no lane
is kept with its item (log 35); a word of removal that comes before the answer "wait" has no effect on that answer (log
54); the extent of an offer for a read that the bay no longer has, and what the bay and its lane have of the pool for an
item that is ended, are given back where no discard is due (log 18); a claim that an ended item's lane has out is counted
as one whose answer is awaited no more (log 44); a lane loads the state handed on last in the present read of the item,
and else the stored one: that one still in transit counts is log 16's, which reports in transit are those of an earlier
read is log 51's. -/
def Obligations.BayReadWorkChanges : Prop :=
  (∀ (b : Fin 8) (w : ReadWork) (s : State), ∃ t, exec (.bayReadWork b w) s = .next t ∧ OnlyReads b s t ∧
    (∀ c, w.item = .clip c → (t.bay b).reading = some w ∧ (t.bay b).uncorrectable = 0 ∧
      (t.bay b).repairs = (s.bay b).repairs) ∧
    (∀ c p, w.item = .repair c p → (t.bay b).repairs = (s.bay b).repairs ++ [w] ∧
      (t.bay b).reading = (s.bay b).reading) ∧
    (t.bay b).waiting = (s.bay b).waiting ∧ (t.bay b).state = (s.bay b).state ∧
    GrantRound ((s.arrive (.bayReadWork b w)).setBay b (match w.item with
      | .clip _ => { s.bay b with reading := some w, uncorrectable := 0 }
      | .repair _ _ => { s.bay b with repairs := (s.bay b).repairs ++ [w] })) t) ∧
  (∀ (b : Fin 8) (c : ClaimId) (s : State), ∃ t, exec (.poolOffer b c) s = .next t ∧ t.ports = s.ports ∧ t.jm = s.jm ∧
    t.pending = s.pending ∧ (∀ a, a ≠ b → bayCore (t.bay a) = bayCore (s.bay a)) ∧
    (t.bay b).waiting = false ∧ (t.bay b).reading = (s.bay b).reading ∧ (t.bay b).repairs = (s.bay b).repairs ∧
    (s.freeActiveLane = none → (t.bay b).offered = some (itemOf c)) ∧
    ((bayWork (s.bay b) (itemOf c)).isSome = true → t.pool = s.pool) ∧
    ((∀ i, setAsideFor s.pool (.lane 0 b) c = some i → False) → t.pool = s.pool) ∧
    ∃ u, GrantRound (u.setBay b { s.bay b with waiting := false, offered := some (itemOf c) }) t ∧
      ((bayWork (s.bay b) (itemOf c)).isSome = true ∨ setAsideFor s.pool (.lane 0 b) c = none →
        u = s.arrive (.poolOffer b c)) ∧
      (∀ i, bayWork (s.bay b) (itemOf c) = none → setAsideFor s.pool (.lane 0 b) c = some i →
        GivenBack (s.arrive (.poolOffer b c)) u (some (.bay b)) (.lane 0 b) c (some i) ∧ t.pool = u.pool)) ∧
  (∀ (b : Fin 8) (i : WorkItem) (s : State), ∃ t, exec (.workItemEnded b i) s = .next t ∧
    Giving (s.bayGiven b (fun x => decide (x = i)) ++ bayPlaces s.pool b i)
      (fun u => OnlyReads b s u ∧ s.wire.erase (.workItemEnded b i) <+: u.wire ∧
        ∀ x, x = (s.arrive (.workItemEnded b i)).setBay b { withoutItem (s.bay b) i with
            waiting := (u.bay b).waiting, offered := (s.bay b).offered.filter (fun y => decide (y ≠ i)) } →
          (∀ n, (s.lane n).holder = some (.work b i) → (s.lane n).ack = none →
            (∀ m, m < n → (s.lane m).holder = some (.work b i) → (s.lane m).ack ≠ none) → GrantRound (laneBack x n) u) ∧
          ((∀ n, (s.lane n).holder = some (.work b i) → (s.lane n).ack ≠ none) → GrantRound x u)) t ∧
    (∀ gone, gone = (∃ w ∈ s.pool.waits, (∃ n, w.requester = .lane n b) ∧ itemOf w.claim = i ∧
        (s.arrive (.workItemEnded b i)).discardDue w.requester w.claim = false ∧
        s.wire.count (.claimAnswer w.requester w.claim none) < s.pool.waits.count w) →
      (gone → (t.bay b).waiting = false) ∧ (¬ gone → (t.bay b).waiting = (s.bay b).waiting)) ∧
    (∀ w, (t.bay b).reading = some w → w.item ≠ i ∨ ∃ c p, i = .repair c p) ∧
    (∀ w ∈ (t.bay b).repairs, w.item ≠ i ∨ ∃ c, i = .clip c) ∧ (t.bay b).offered ≠ some i ∧
    (∀ n, (s.lane n).holder = some (.work b i) → (s.lane n).ack = none →
      (∀ m, m ≠ n → (s.lane m).holder ≠ some (.work b i)) → s.arb.requests = [] →
      (∀ a, a ≠ b → s.bayEligible a = false) →
      ((∃ c, i = .clip c) ∧ (s.bay b).repairs = [] ∧ ∀ w, (s.bay b).reading = some w → w.item = i) ∨
        ((∃ c q, i = .repair c q) ∧ (s.bay b).reading = none ∧ ∀ w ∈ (s.bay b).repairs, w.item = i) →
      t.lane n = Lane.reset ∧ (s.pool.waits = [] → t.wire = s.wire.erase (.workItemEnded b i))) ∧
    (∀ n c, (s.lane n).holder = some (.work b i) → (s.lane n).ack = none → (s.lane n).claim = some c →
      (∀ m, m ≠ n → (s.lane m).holder ≠ some (.work b i)) →
      t.arb.unawaited = s.arb.unawaited ++ [⟨.lane n b, c⟩])) ∧
  (∀ (n : Fin 4) (b : Fin 8) (c : ClaimId) (s : State), ∃ t, exec (.waitRemoved (.lane n b) c) s = .next t ∧
    OnlyReads b s t ∧ (t.bay b).waiting = false ∧ (t.bay b).reading = (s.bay b).reading ∧
    (t.bay b).repairs = (s.bay b).repairs ∧
    GrantRound ((s.arrive (.waitRemoved (.lane n b) c)).setBay b { s.bay b with waiting := false }) t) ∧
  (∀ (s : State) (n : Fin 4) (r : CardRead), LaneNext s n → HostNext s r → ∃ t, s.grantOne = some t ∧ HostGiven s t n r) ∧
  (∀ (s : State) (n : Fin 4) (b : Fin 8) (item : WorkItem), LaneNext s n → (∀ r, ¬ HostNext s r) → BayNext s b →
    bayItem (s.bay b) = some item → s.grantOne = some (turnGiven s n b item)) ∧
  (∀ s : State, (∀ n, ¬ LaneNext s n) ∨ ((∀ r, ¬ HostNext s r) ∧ ∀ b, s.bayEligible b = false) → s.grantOne = none) ∧
  (∀ s t : State, GrantRound s t → t.pool = s.pool ∧ t.ports = s.ports ∧ t.jm = s.jm ∧ t.pending = s.pending ∧
    s.wire <+: t.wire ∧ s.replyLog <+: t.replyLog ∧ t.arb.unawaited = s.arb.unawaited ∧
    (∀ b, bayCore (t.bay b) = bayCore (s.bay b)) ∧ ∀ m, (s.lane m).holder ≠ none → t.lane m = s.lane m) ∧
  (∀ (s : State) (b : Fin 8), s.bayEligible b = true ↔ (s.bay b).state = .mounted ∧
    (∃ j, (s.bay b).job = some j ∧ (s.bay b).sig = some j.sig) ∧ (s.bay b).waiting = false ∧
    ((s.bay b).repairs ≠ [] ∨ (s.bay b).reading ≠ none) ∧ ∀ n, holderBay (s.lane n) ≠ some b) ∧
  (∀ x : Bay, (∀ i w, x.offered = some i → bayWork x i = some w → bayItem x = some w.item) ∧
    (∀ w rest, x.offered = none → x.repairs = w :: rest → bayItem x = some w.item) ∧
    (x.offered = none → x.repairs = [] → bayItem x = x.reading.map ReadWork.item)) ∧
  (∀ (s : State) (c : Nat) (p : Fin 4) (n : Nat), claimOf (.clip c) n = ⟨c, .first, none, n / 4194304⟩ ∧
    claimOf (.repair c p) n = ⟨c, .repair, some p, n / 4194304⟩ ∧
    ((∀ m ∈ s.inTime, ∀ d, m ≠ .burstEndReport (.clip c) d) →
      s.loadState (.clip c) = ((s.clip? c).bind Clip.running).getD ⟨BitVec.allOnes 64, 0⟩) ∧
    ((∀ m ∈ s.inTime, ∀ d, m ≠ .burstEndReport (.repair c p) d) → s.loadState (.repair c p) =
      (((s.clip? c).bind (fun x => copyOn x p)).bind (fun k => k.repair.bind Repair.running)).getD
        ⟨BitVec.allOnes 64, 0⟩)) ∧
  (∀ (s : State) (item : WorkItem) (m : Instr), s.inTime.count m = s.wire.count m - s.jm.late.count m ∧
    ∀ before d after, s.inTime = before ++ .burstEndReport item d :: after →
      (∀ x ∈ after, ∀ e, x ≠ .burstEndReport item e) → s.loadState item = d) ∧
  (∀ (s : State) (b : Fin 8) (items : WorkItem → Bool) (g : Given), g ∈ s.bayGiven b items ↔
    (∃ n item d i, (s.lane n).holder = some (.work b item) ∧ items item = true ∧ (s.lane n).unit = some d ∧
      (s.lane n).extent = some i ∧ g = ⟨.lane n b, none, claimOf item d.count, some i⟩) ∨
    ∃ i e, (i, e) ∈ s.pool.extents ∧ e.aside = some (.bay b) ∧ items (itemOf e.claim) = true ∧
      g = ⟨.lane 0 b, some (.bay b), e.claim, some i⟩) ∧
  (∀ (q : Pool) (b : Fin 8) (i : WorkItem) (g : Given), g ∈ bayPlaces q b i ↔
    ∃ w ∈ q.waits, ∃ n, w.requester = .lane n b ∧ itemOf w.claim = i ∧ g = ⟨w.requester, none, w.claim, none⟩)

/-! ## Lanes -/

/-- BLOCK_READ_ATTEMPT, a whole block read for a clip or for a card-sourced repair: the clip's share of it is placed in
the extent and fed to the digest unit; the last block completes the read, the last block of an extent completes the extent
and claims the next one or ends the turn, the state being handed on, the lane returned and granted anew; any other leaves
the lane reading; a repair takes zeros for the blocks of the damage list that stand next, be they one or several in a row.
Bytes are placed only in a FILLING extent of that identity. That a FREE lane drops the answer is the model's reading (log
24), and so is it that a claim which a returned lane has out is counted as one whose answer is awaited no more (log 44).
-/
def Obligations.BlocksArePlacedAndDigested : Prop :=
  (∀ (q : Pool) (i off : Nat) (c : ClaimId) (bytes : List Byte),
    (∀ e, extentAt q i = some e → e.state = .filling → e.claim = c → poolPlace q i c off bytes = { q with
      extents := putExtent q.extents i { e with bytes := e.bytes + bytes.length }
      mem := Memory.writeBytes q.mem (i * 4194304 + off) bytes }) ∧
    ((∀ e, extentAt q i = some e → e.state ≠ .filling ∨ e.claim ≠ c) → poolPlace q i c off bytes = q)) ∧
  (∀ (m : Memory) (a k : Nat) (bytes : List Byte), m.wf →
    (∀ v, bytes[k]? = some v → Memory.read (Memory.writeBytes m a bytes) (a + k) = v) ∧
    (k < a ∨ a + bytes.length ≤ k → Memory.read (Memory.writeBytes m a bytes) k = Memory.read m k)) ∧
  (∀ (n : Fin 4) (answer : Option (List Byte)) (s : State), (s.lane n).holder = none →
    exec (.blockReadAttempt n answer) s = .next s) ∧
  (∀ (n : Fin 4) (data : List Byte) (s : State) (b : Fin 8) (c i : Nat) (d : DigestState) (w : ReadWork),
    data.length = 512 → (s.lane n).holder = some (.work b (.clip c)) → (s.lane n).extent = some i →
    (s.lane n).unit = some d → bayWork (s.bay b) (.clip c) = some w →
    ∀ bytes, bytes = data.take (min 512 (w.length - d.count)) →
    ∃ t, exec (.blockReadAttempt n (some data)) s = .next t ∧ t.ports = s.ports ∧ t.jm = s.jm ∧ t.pending = s.pending ∧
      (∀ a, a ≠ b → bayCore (t.bay a) = bayCore (s.bay a)) ∧
      t.pool = poolPlace s.pool i ⟨c, .first, none, d.count / 4194304⟩ (d.count % 4194304) bytes ∧
      BlockTaken s t n b (.clip c) i d w.length bytes) ∧
  ∀ (n : Fin 4) (data : List Byte) (s : State) (b : Fin 8) (c i : Nat) (p : Fin 4) (d : DigestState) (w : ReadWork),
    data.length = 512 → (s.lane n).holder = some (.work b (.repair c p)) → (s.lane n).extent = some i →
    (s.lane n).unit = some d → bayWork (s.bay b) (.repair c p) = some w →
    ∀ (bytes : List Byte) (d' : DigestState) (claim : ClaimId), bytes = data.take (min 512 (w.length - d.count)) →
      d' = ⟨bytes.foldl digestByte d.reg, d.count + bytes.length⟩ → claim = ⟨c, .repair, some p, d.count / 4194304⟩ →
    ∃ t, exec (.blockReadAttempt n (some data)) s = .next t ∧ t.ports = s.ports ∧ t.jm = s.jm ∧ t.pending = s.pending ∧
      (∀ a, a ≠ b → bayCore (t.bay a) = bayCore (s.bay a)) ∧
      (w.length ≤ d'.count ∨ d'.count % 4194304 = 0 ∨ blockAt w.runs (d'.count / 512) ∉ w.damage →
        t.pool = poolPlace s.pool i claim (d.count % 4194304) bytes ∧
          BlockTaken s t n b (.repair c p) i d w.length bytes) ∧
      (∀ k, d.count % 4194304 + 512 ≤ 4194304 → 1 ≤ k → k ≤ 16 →
        (∀ m, m < k → blockAt w.runs ((d'.count + 512 * m) / 512) ∈ w.damage) →
        blockAt w.runs ((d'.count + 512 * k) / 512) ∉ w.damage → d'.count + 512 * k < w.length → d'.count % 4194304 ≠ 0 →
        d'.count % 4194304 + 512 * k < 4194304 →
        t.lane n = { s.lane n with
          unit := some ⟨(List.replicate (512 * k) 0#8).foldl digestByte d'.reg, d'.count + 512 * k⟩ } ∧
        t.pool = poolPlace (poolPlace s.pool i claim (d.count % 4194304) bytes) i claim (d'.count % 4194304)
          (List.replicate (512 * k) 0#8) ∧ t.wire = s.wire)

/-- BLOCK_READ_ATTEMPT for a host card read: a block read joins the read's data, and the last one ends the read with all
of it; a failed attempt is counted and judged by the monitor's mode, a bay that enters CAREFUL by it standing there with
its whole record; and the read of a block that has used up its attempts ends with MEDIA_ERROR and the blocks read so far.
At the end the lane is returned and granted anew. An answer of another length than a block's counts as a failed attempt
(log 23). -/
def Obligations.HostReadsAreAnswered : Prop :=
  ∀ (n : Fin 4) (s : State) (r : HostRead), (s.lane n).holder = some (.host r) →
    (∀ data, data.length = 512 → ∃ t, exec (.blockReadAttempt n (some data)) s = .next t ∧
      t.pool = s.pool ∧ t.ports = s.ports ∧ t.jm = s.jm ∧ t.pending = s.pending ∧
      (∀ a, bayCore (t.bay a) = bayCore (s.bay a)) ∧
      (r.blocks + 1 < r.count → t = (s.setBay r.bay { s.bay r.bay with fails := 0 }).setLane n { s.lane n with
        holder := some (.host { r with blocks := r.blocks + 1, data := r.data ++ data }) }) ∧
      (r.count ≤ r.blocks + 1 → GrantRound ((laneBack (s.setBay r.bay { s.bay r.bay with fails := 0 }) n).endRead r.id .done
        (.cardRead (r.blocks + 1) 0 (r.data ++ data))) t) ∧
      (∀ e, r.count ≤ r.blocks + 1 → s.read? r.id = some e → e.orphan = false →
        s.replyLog ++ [⟨kindCardRead, e.tag, .done, .cardRead (r.blocks + 1) 0 (r.data ++ data)⟩] <+: t.replyLog)) ∧
    (∀ answer, (∀ data, answer = some data → data.length ≠ 512) → (s.bay r.bay).health.running = true →
      ∃ t, exec (.blockReadAttempt n answer) s = .next t ∧ t.pool = s.pool ∧ t.ports = s.ports ∧ t.jm = s.jm ∧
      t.pending = s.pending ∧ (∀ a, a ≠ r.bay → bayCore (t.bay a) = bayCore (s.bay a)) ∧
      ((s.bay r.bay).fails + 1 < 8 → (t.lane n).holder = some (.host r) ∧ t.lki = s.lki ∧
        (EntersCareful (s.bay r.bay) →
          t.bay r.bay = carefulRecord (s.bay r.bay) (entryCount (s.bay r.bay)) ∧
          t.wire = (carefulEntered s r.bay (entryCount (s.bay r.bay))).wire ∧
          (OnlyLane s n r.bay → t = carefulEntered s r.bay (entryCount (s.bay r.bay)))) ∧
        (¬ EntersCareful (s.bay r.bay) → t = retried s r.bay)) ∧
      (8 ≤ (s.bay r.bay).fails + 1 →
        bayCore (t.bay r.bay) = bayCore ((eighthFailed s r.bay).bay r.bay) ∧ (eighthFailed s r.bay).wire <+: t.wire ∧
        ((s.bay r.bay).health.mode = .careful ∨ OnlyLane s n r.bay → GrantRound ((laneBack (eighthFailed s r.bay) n).endRead
          r.id .mediaError (.cardRead r.blocks (r.start + r.blocks) r.data)) t) ∧
        ∀ e, s.read? r.id = some e → e.orphan = false →
          s.replyLog ++ [⟨kindCardRead, e.tag, .mediaError, .cardRead r.blocks (r.start + r.blocks) r.data⟩] <+:
            t.replyLog))

/-- BLOCK_READ_ATTEMPT that fails for a clip's read, counted and judged by the monitor's mode: tried again with a retry
event while attempts are left; a block exhausted in NORMAL, or a retry event past UP, puts the bay into CAREFUL, with its
whole record, the turn of its lane then ending after the extent in progress; uncorrectable, in CAREFUL or by an eighth
failure that is reached in NORMAL, it ends the read, or is counted and replaced by zeros under SALVAGE up to 16 times,
which are placed and digested as its data would have been. For a card-sourced repair the attempts count alike, and an
uncorrectable block ends the repair read whatever the policy. A read that ends so leaves the bay's read work, and its lane
is returned and granted anew. An answer of another length than a block's counts as a failed attempt (log 23). That the
lane gives up the extent of a read that ends so, where no discard is due, is the model's reading (log 18). -/
def Obligations.FailedAttemptsAreJudged : Prop :=
  (∀ (n : Fin 4) (answer : Option (List Byte)) (s : State) (b : Fin 8) (item : WorkItem) (i : Nat) (d : DigestState)
    (w : ReadWork), (∀ data, answer = some data → data.length ≠ 512) →
    (s.lane n).holder = some (.work b item) → (s.lane n).extent = some i → (s.lane n).unit = some d →
    bayWork (s.bay b) item = some w →
    (∀ c p, item = .repair c p → blockAt w.runs (d.count / 512) ∉ w.damage) → (s.bay b).health.running = true →
    ∃ t, exec (.blockReadAttempt n answer) s = .next t ∧ t.ports = s.ports ∧ t.jm = s.jm ∧ t.pending = s.pending ∧
      (∀ a, a ≠ b → bayCore (t.bay a) = bayCore (s.bay a)) ∧
      ((s.bay b).fails + 1 < 8 →
        (¬ EntersCareful (s.bay b) → t = retried s b) ∧
        (EntersCareful (s.bay b) → t.pool = s.pool ∧ t.bay b = carefulRecord (s.bay b) (entryCount (s.bay b)) ∧
          t.wire = (carefulEntered s b (entryCount (s.bay b))).wire ∧
          (OnlyLane s n b → t = (carefulEntered s b (entryCount (s.bay b))).setLane n { s.lane n with endTurn := true }))) ∧
      (8 ≤ (s.bay b).fails + 1 → (eighthFailed s b).wire <+: t.wire)) ∧
  (∀ (n : Fin 4) (answer : Option (List Byte)) (s : State) (b : Fin 8) (c i : Nat) (p : Fin 4) (d : DigestState)
    (w : ReadWork), (∀ data, answer = some data → data.length ≠ 512) →
    (s.lane n).holder = some (.work b (.repair c p)) → (s.lane n).extent = some i → (s.lane n).unit = some d →
    bayWork (s.bay b) (.repair c p) = some w → (s.bay b).health.running = true → 8 ≤ (s.bay b).fails + 1 →
    ∃ t, exec (.blockReadAttempt n answer) s = .next t ∧
      Giving [⟨.lane n b, none, ⟨c, .repair, some p, d.count / 4194304⟩, some i⟩] (fun u => u.pool = s.pool ∧ u.jm = s.jm ∧
        (eighthFailed s b).wire ++ [.repairSourceFailure c p] <+: u.wire ∧
        ReadLost s u n b (.repair c p) (.repairSourceFailure c p) ((eighthFailed s b).bay b)) t ∧
      (t.bay b).health = ((eighthFailed s b).bay b).health ∧ (t.bay b).lamp = ((eighthFailed s b).bay b).lamp ∧
      (∀ v ∈ (t.bay b).repairs, v.item ≠ .repair c p) ∧ (t.lane n).extent = none) ∧
  ∀ (n : Fin 4) (answer : Option (List Byte)) (s : State) (b : Fin 8) (c i : Nat) (d : DigestState) (w : ReadWork),
    (∀ data, answer = some data → data.length ≠ 512) → (s.lane n).holder = some (.work b (.clip c)) →
    (s.lane n).extent = some i → (s.lane n).unit = some d → bayWork (s.bay b) (.clip c) = some w → w.item = .clip c →
    (s.bay b).health.running = true → 8 ≤ (s.bay b).fails + 1 →
    ∃ t, exec (.blockReadAttempt n answer) s = .next t ∧
      (t.bay b).health = ((eighthFailed s b).bay b).health ∧ (t.bay b).lamp = ((eighthFailed s b).bay b).lamp ∧
      (w.policy = .salvage → (t.bay b).uncorrectable = (s.bay b).uncorrectable + 1) ∧
      (w.policy = .abort ∨ 16 < (s.bay b).uncorrectable + 1 →
        (∀ v, (t.bay b).reading = some v → v.item ≠ .clip c) ∧
        Giving [⟨.lane n b, none, ⟨c, .first, none, d.count / 4194304⟩, some i⟩] (fun u => u.pool = s.pool ∧ u.jm = s.jm ∧
          (eighthFailed s b).wire ++ [.mediaFailure c] <+: u.wire ∧
          ReadLost s u n b (.clip c) (.mediaFailure c) { (eighthFailed s b).bay b with
            uncorrectable := (s.bay b).uncorrectable + (if w.policy = .salvage then 1 else 0) }) t) ∧
      (w.policy = .salvage → (s.bay b).uncorrectable + 1 ≤ 16 →
        (eighthFailed s b).wire ++ [.blockSubstitution c (blockAt w.runs (d.count / 512))] <+: t.wire ∧
        t.pool = poolPlace s.pool i ⟨c, .first, none, d.count / 4194304⟩ (d.count % 4194304)
          (List.replicate (min 512 (w.length - d.count)) 0#8) ∧
        ((s.bay b).health.mode = .careful ∨ OnlyLane s n b →
          ∀ u : State, u = (({ eighthFailed s b with
              wire := (eighthFailed s b).wire ++ [.blockSubstitution c (blockAt w.runs (d.count / 512))] } : State).setBay b
            { (eighthFailed s b).bay b with uncorrectable := (s.bay b).uncorrectable + 1 }).setLane n
            { s.lane n with endTurn := (s.lane n).endTurn || decide ((s.bay b).health.mode = .normal) } →
          BlockTaken u t n b (.clip c) i d w.length (List.replicate (min 512 (w.length - d.count)) 0#8)))

/-- READ_COMPLETION_ACK and CLAIM_ANSWER: an acknowledged read reports its last extent and its lane is returned; a granted
claim is filled, by a card-sourced repair with zeros for a block of the damage list; an answer "wait" hands the running
state on, the lane is returned and the bay waits, or the verify engine waits. After a return the arbiter looks for grants.
An acknowledgment that is not awaited is dropped (log 31). The model's choices: what an answer that nobody awaits has
given is given back where no discard is due (log 18), a late report bringing none (log 51); an answer is an abandoned
claim's while one of that identity still has its answer to come (log 44); a bay whose offer has overtaken the answer does
not wait (log 35), and one whose word of removal has overtaken it does (log 54); the sharing record counts a sibling chunk
whose extent is claimed at the grant (log 26). -/
def Obligations.AcksAndClaimAnswers : Prop :=
  (∀ (n : Fin 4) (item : WorkItem) (s : State), ∃ t, exec (.readCompletionAck n item) s = .next t ∧
    t.pool = s.pool ∧ t.ports = s.ports ∧ t.jm = s.jm ∧ t.pending = s.pending ∧
    (∀ a, bayCore (t.bay a) = bayCore (s.bay a)) ∧
    (∀ b a, (s.lane n).holder = some (.work b item) → (s.lane n).ack = some a →
      Instr.extentComplete a.index a.claim a.bytes ∈ t.wire ∧ (t.lane n).ack = none ∧
      GrantRound (laneBack ((s.arrive (.readCompletionAck n item)).send (.extentComplete a.index a.claim a.bytes)) n) t) ∧
    ((s.lane n).ack = none ∨ (∀ b, (s.lane n).holder ≠ some (.work b item)) → t = s.arrive (.readCompletionAck n item))) ∧
  (∀ (n : Fin 4) (b : Fin 8) (c : ClaimId) (index : Option Nat) (s : State), ∃ t,
    exec (.claimAnswer (.lane n b) c index) s = .next t ∧ t.ports = s.ports ∧ t.jm = s.jm ∧ t.pending = s.pending ∧
    (∀ a, a ≠ b → bayCore (t.bay a) = bayCore (s.bay a)) ∧
    (⟨.lane n b, c⟩ ∈ s.arb.unawaited →
      GivenBack ((s.arrive (.claimAnswer (.lane n b) c index)).setUnawaited (s.arb.unawaited.erase ⟨.lane n b, c⟩)) t none
        (.lane n b) c index) ∧
    (⟨.lane n b, c⟩ ∉ s.arb.unawaited → (s.lane n).claim ≠ some c →
      GivenBack (s.arrive (.claimAnswer (.lane n b) c index)) t none (.lane n b) c index) ∧
    (∀ k d i, ⟨.lane n b, c⟩ ∉ s.arb.unawaited → (s.lane n).holder = some (.work b (.clip k)) →
      (s.lane n).unit = some d → (s.lane n).claim = some c → index = some i →
        t.lane n = { s.lane n with claim := none, extent := some i } ∧ (t.bay b).fails = 0 ∧
        t.pool = s.pool ∧ t.wire = s.wire.erase (.claimAnswer (.lane n b) c index)) ∧
    (∀ k p d i w, ⟨.lane n b, c⟩ ∉ s.arb.unawaited → (s.lane n).holder = some (.work b (.repair k p)) →
      (s.lane n).unit = some d → (s.lane n).claim = some c → index = some i → bayWork (s.bay b) (.repair k p) = some w →
      (blockAt w.runs (d.count / 512) ∉ w.damage →
        t.lane n = { s.lane n with claim := none, extent := some i } ∧ (t.bay b).fails = 0 ∧ t.pool = s.pool ∧
          t.wire = s.wire.erase (.claimAnswer (.lane n b) c index)) ∧
      (∀ z, 1 ≤ z → z ≤ 16 → (∀ m, m < z → blockAt w.runs ((d.count + 512 * m) / 512) ∈ w.damage) →
        blockAt w.runs ((d.count + 512 * z) / 512) ∉ w.damage → d.count + 512 * z < w.length →
        d.count % 4194304 + 512 * z < 4194304 →
        t.lane n = { s.lane n with
          claim := none, extent := some i
          unit := some ⟨(List.replicate (512 * z) 0#8).foldl digestByte d.reg, d.count + 512 * z⟩ } ∧
          t.pool = poolPlace s.pool i ⟨k, .repair, some p, d.count / 4194304⟩ (d.count % 4194304)
            (List.replicate (512 * z) 0#8) ∧
          t.wire = s.wire.erase (.claimAnswer (.lane n b) c index))) ∧
    (∀ item d, ⟨.lane n b, c⟩ ∉ s.arb.unawaited → (s.lane n).holder = some (.work b item) →
      (s.lane n).unit = some d → (s.lane n).claim = some c → index = none → Instr.burstEndReport item d ∈ t.wire ∧ t.pool = s.pool ∧
        ((s.bay b).offered ≠ some item → (t.bay b).waiting = true) ∧
        GrantRound ((((s.arrive (.claimAnswer (.lane n b) c none)).send (.burstEndReport item d)).setLane n Lane.reset).setBay
          b { s.bay b with waiting := decide ((s.bay b).offered ≠ some item) }) t)) ∧
  (∀ (p : Fin 4) (c : ClaimId) (index : Option Nat) (s : State), ∃ t,
    exec (.claimAnswer (.engine p) c index) s = .next t ∧
    (c ∈ (s.port p).unawaited →
      GivenBack ((s.arrive (.claimAnswer (.engine p) c index)).setPort p
        { s.port p with unawaited := (s.port p).unawaited.erase c }) t none (.engine p) c index) ∧
    (c ∉ (s.port p).unawaited → (s.port p).engine.claim = some c → OnlyPort p s t ∧
      (t.port p).unawaited = (s.port p).unawaited) ∧
    (c ∉ (s.port p).unawaited → (s.port p).engine.claim ≠ some c →
      GivenBack (s.arrive (.claimAnswer (.engine p) c index)) t none (.engine p) c index) ∧
    (∀ i e rest a rp, c ∉ (s.port p).unawaited → (s.port p).engine.claim = some c → index = some i → (s.port p).verifyQ = e :: rest →
      (s.port p).area = some a → e.repairPort = some rp →
      (t.port p).engine.claim = none ∧ (t.port p).engine.extent = some i ∧
        (t.port p).read = some ⟨.sibling, e.runStart + (s.port p).engine.chunk * (4194304 / a.blockSize),
          ceilDiv (extentLength e.length (s.port p).engine.chunk) a.blockSize, false⟩ ∧
        (t.port p).share = shareAlone (s.port p).share .verify) ∧
    (c ∉ (s.port p).unawaited → (s.port p).engine.claim = some c → index = none → (t.port p).engine =
      { (s.port p).engine with claim := none, state := .waiting })) ∧
  (∀ (s : State) (m : Instr), s.inTime.count m = s.wire.count m - s.jm.late.count m) ∧
  (∀ (s : State) (r : Requester) (c : ClaimId), s.discardDue r c = true ↔
    Instr.clipDiscard c.clip ∈ s.wire ∨
    (∃ p, c.purpose = .repair ∧ c.repairPort = some p ∧ Instr.repairDiscard c.clip p ∈ s.wire) ∨
    ∃ x, s.clip? c.clip = some x ∧
      ((∃ n b, r = .lane n b ∧ (Instr.cardLostReport b ∈ s.inTime ∨ Instr.mediaFailure c.clip ∈ s.inTime) ∧
          c.repairPort = none ∧ x.state = .reading) ∨
        (clipTerminal x = false ∧ ∃ p k, c.repairPort = some p ∧ copyOn x p = some k ∧ k.state = .repairing ∧
          ∃ y, k.repair = some y ∧
            ((∃ n b, r = .lane n b ∧
                (Instr.cardLostReport b ∈ s.inTime ∨ Instr.repairSourceFailure c.clip p ∈ s.inTime) ∧
                y.source = .card ∧ y.reading = true) ∨
            ∃ q, r = .engine q ∧ (Instr.driveLossReport q ∈ s.inTime ∨ Instr.portFaultReport q ∈ s.inTime) ∧
              y.source = .port q)))) ∧
  (∀ (s : State) (aside : Option SetAside) (c : ClaimId) (i : Nat), s.stillGiven aside c i = true ↔
    (∃ e, extentAt s.pool i = some e ∧ e.state = .filling ∧ e.claim = c ∧ e.aside = aside) ∧
    (∀ r, Instr.claimAnswer r c (some i) ∉ s.wire) ∧ (∀ p, Instr.siblingOffer p i c ∉ s.wire) ∧
    ∀ n, (∀ a, (s.lane n).ack = some a → a.index = i → a.claim ≠ c) ∧
      (∀ b item d, (s.lane n).holder = some (.work b item) → (s.lane n).unit = some d → (s.lane n).extent = some i →
        claimOf item d.count ≠ c) ∧
      ∀ e rest rp, (s.port n).verifyQ = e :: rest → e.repairPort = some rp → (s.port n).engine.extent = some i →
        c ≠ ⟨e.clip, .repair, some rp, (s.port n).engine.chunk⟩)

/-! ## The staging pool -/

/-- EXTENT_CLAIM: an extent set aside for the requester is taken up; else, while the clip holds fewer extents than the window,
the FREE extent of lowest index becomes FILLING with the claim; else the request waits. -/
def Obligations.ClaimsAreAnswered : Prop :=
  (∀ (r : Requester) (c : ClaimId) (s : State), ∃ t, exec (.extentClaim r c) s = .next t ∧ OnlyPool s t ∧
    t.pool.window = s.pool.window ∧
    (∀ i, setAsideFor s.pool r c = some i → t.pool = clearAside s.pool i ∧
      t.wire = s.wire.erase (.extentClaim r c) ++ [Instr.claimAnswer r c (some i)]) ∧
    (∀ i, setAsideFor s.pool r c = none → heldCount s.pool c.clip < s.pool.window → lowestFree s.pool = some i →
      t.pool = { s.pool with extents := putExtent s.pool.extents i ⟨.filling, c, 0, none, none⟩ } ∧
      t.wire = s.wire.erase (.extentClaim r c) ++ [Instr.claimAnswer r c (some i)]) ∧
    (setAsideFor s.pool r c = none → s.pool.window ≤ heldCount s.pool c.clip ∨ lowestFree s.pool = none →
      t.pool = { s.pool with waits := s.pool.waits ++ [⟨r, c⟩] } ∧
      t.wire = s.wire.erase (.extentClaim r c) ++ [Instr.claimAnswer r c none])) ∧
  (∀ (p : Pool) (i : Nat), IndexesRise p →
    (lowestFree p = some i ↔ i < 1024 ∧ (∀ e ∈ p.extents, e.1 ≠ i) ∧ ∀ k, k < i → ∃ e ∈ p.extents, e.1 = k)) ∧
  (∀ (p : Pool) (i : Nat) (x : Extent), IndexesRise p → extentAt { p with extents := putExtent p.extents i x } i = some x ∧
    (∀ k, k ≠ i → extentAt { p with extents := putExtent p.extents i x } k = extentAt p k) ∧
    (extentAt p i = some x ↔ (i, x) ∈ p.extents)) ∧
  (∀ (p : Pool) (i : Nat) (e : Extent), extentAt p i = some e →
    clearAside p i = { p with extents := putExtent p.extents i { e with aside := none } }) ∧
  (∀ (p : Pool) (r : Requester) (c : ClaimId) (free : Nat × Extent → Prop), free = (fun e =>
      e.2.state = .filling ∧ e.2.claim = c ∧
        e.2.aside = some (match r with | .lane _ b => .bay b | .engine q => .engine q)) →
    (∀ i, setAsideFor p r c = some i ↔ ∃ before e after, p.extents = before ++ e :: after ∧ e.1 = i ∧ free e ∧
      ∀ x ∈ before, ¬ free x) ∧
    (setAsideFor p r c = none ↔ ∀ x ∈ p.extents, ¬ free x)) ∧
  (∀ (p : Pool) (clip : Nat), heldCount p clip = (p.extents.filter (fun e => e.2.claim.clip == clip)).length)

/-- EXTENT_COMPLETE and PENDING_SET_ANSWER: a FILLING extent of that identity becomes FULL and the job manager is asked
for its pending set; the answer sets it and appends the extent to each port's write queue in port order, or frees it when
it is empty; a report out of place is dropped. -/
def Obligations.FullExtentsGetPendingSets : Prop :=
  (∀ (i : Nat) (c : ClaimId) (n : Nat) (s : State), ∃ t, exec (.extentComplete i c n) s = .next t ∧ OnlyPool s t ∧
    (∀ e, extentAt s.pool i = some e → e.state = .filling → e.claim = c →
      t.pool = { s.pool with extents := putExtent s.pool.extents i ⟨.full, c, n, none, none⟩ } ∧
      t.wire = s.wire.erase (.extentComplete i c n) ++ [Instr.pendingSetQuestion i c]) ∧
    ((∀ e, extentAt s.pool i = some e → e.state ≠ .filling ∨ e.claim ≠ c) → t = s.arrive (.extentComplete i c n))) ∧
  (∀ (i : Nat) (c : ClaimId) (ports : List (Fin 4)) (s : State), ∃ t, exec (.pendingSetAnswer i c ports) s = .next t ∧
    OnlyPool s t ∧
    (∀ e, extentAt s.pool i = some e → e.state = .full → e.claim = c → e.pending = none → ports ≠ [] →
      t.pool = { s.pool with
        extents := putExtent s.pool.extents i
          { e with pending := some ((List.finRange 4).filter (fun p => ports.contains p)) } } ∧
      t.wire = s.wire.erase (.pendingSetAnswer i c ports) ++
        ((List.finRange 4).filter (fun p => ports.contains p)).map (fun p => .extentAppend p i c e.bytes)) ∧
    (∀ e, extentAt s.pool i = some e → e.state = .full → e.claim = c → e.pending = none → ports = [] →
      (s.pool.waits = [] → t.pool.extents = s.pool.extents.filter (fun x => x.1 != i)) ∧
      OfferRound { s with
        pool := { s.pool with extents := s.pool.extents.filter (fun x => x.1 != i) }
        wire := s.wire.erase (.pendingSetAnswer i c ports) } t ∧
      (nextWait t.pool = none ∨ lowestFree t.pool = none)) ∧
    ((∀ e, extentAt s.pool i = some e → e.state ≠ .full ∨ e.claim ≠ c ∨ e.pending ≠ none) →
      t = s.arrive (.pendingSetAnswer i c ports)))

/-- EXTENT_RELEASE, of any number of extents: the port leaves the pending set of each extent that is FULL with that
identity, which is freed when the set is empty; the other extents stand. CLIP_DISCARD and REPAIR_DISCARD: every extent and
every waiting request of the clip, or of the repair, is gone; the others stand; the removals go out to the ports in the
pending sets and the word to the requesters. After each, offers go round until no waiting request is below the window or
no extent is FREE: the FREE extent of lowest index to the first request below the window, the lanes' from LANE0 up before
the ports' from PRT0 up; every other waiting request stands, or has been offered an extent. The order of a discard's
removals and of its words is the model's choice (log 40). -/
def Obligations.ReleasesAndDiscardsFreeExtents : Prop :=
  (∀ (p : Pool), orderedWaits p.waits =
      (List.range 8).flatMap (fun k => p.waits.filter (fun w => roundPlace w.requester == k)) ∧
    (∀ w, nextWait p = some w ↔ FirstServed p w) ∧ (nextWait p = none ↔ ∀ w, ¬ FirstServed p w)) ∧
  (∀ (p : Fin 4) (xs : List (Nat × ClaimId)) (s : State), ∃ t, exec (.extentRelease p xs) s = .next t ∧ OnlyPool s t ∧
     t.pool.window = s.pool.window ∧ (nextWait t.pool = none ∨ lowestFree t.pool = none) ∧
     (∀ i c e ps, xs = [(i, c)] → s.pool.waits = [] → extentAt s.pool i = some e → e.state = .full → e.claim = c →
       e.pending = some ps → p ∈ ps →
       t.pool.extents = (if ps.erase p = [] then s.pool.extents.filter (fun x => x.1 != i)
         else putExtent s.pool.extents i { e with pending := some (ps.erase p) })) ∧
     (∀ i c, xs = [(i, c)] → s.pool.waits = [] →
       (∀ e, extentAt s.pool i = some e → e.state ≠ .full ∨ e.claim ≠ c ∨ ∀ ps, e.pending = some ps → p ∉ ps) →
       t.pool = s.pool) ∧
     (IndexesRise s.pool → xs.Nodup → OfferRound { s with
       pool := { s.pool with extents := s.pool.extents.filterMap (released p xs) }
       wire := s.wire.erase (.extentRelease p xs) } t) ∧
     (IndexesRise s.pool → xs.Nodup →
       (∀ w ∈ s.pool.waits, WaitsOrOffered t w) ∧
       ∀ e ∈ s.pool.extents,
         (∀ ps, e.2.state = .full → (e.1, e.2.claim) ∈ xs → e.2.pending = some ps → p ∈ ps →
           (ps.erase p ≠ [] → (e.1, { e.2 with pending := some (ps.erase p) }) ∈ t.pool.extents) ∧
           (ps.erase p = [] → ∀ x ∈ t.pool.extents, x.1 = e.1 → x.2.state = .filling ∧ x.2.aside.isSome = true ∧
             x.2.bytes = 0 ∧ ∃ w ∈ s.pool.waits, x.2.claim = w.claim)) ∧
         (e.2.state ≠ .full ∨ (e.1, e.2.claim) ∉ xs ∨ (∀ ps, e.2.pending = some ps → p ∉ ps) → e ∈ t.pool.extents))) ∧
  (∀ (clip : Nat) (s : State), ∃ t, exec (.clipDiscard clip) s = .next t ∧ OnlyPool s t ∧
    OfferRound (discarded s (.clipDiscard clip) (fun c => c.clip == clip)) t ∧
    t.pool.window = s.pool.window ∧ (nextWait t.pool = none ∨ lowestFree t.pool = none) ∧
    (∀ e ∈ t.pool.extents, e.2.claim.clip ≠ clip) ∧ (∀ w ∈ t.pool.waits, w.claim.clip ≠ clip) ∧
    (IndexesRise s.pool → ∀ e ∈ s.pool.extents, e.2.claim.clip ≠ clip → e ∈ t.pool.extents) ∧
    (IndexesRise s.pool → ∀ w ∈ s.pool.waits, w.claim.clip ≠ clip → WaitsOrOffered t w) ∧
    (∀ e ∈ s.pool.extents, e.2.claim.clip = clip → ∀ ps, e.2.pending = some ps → ∀ p ∈ ps,
      Instr.extentRemoval p e.1 e.2.claim ∈ t.wire) ∧
    (∀ w ∈ s.pool.waits, w.claim.clip = clip → Instr.waitRemoved w.requester w.claim ∈ t.wire)) ∧
  (∀ (clip : Nat) (p : Fin 4) (s : State), ∃ t, exec (.repairDiscard clip p) s = .next t ∧ OnlyPool s t ∧
    OfferRound (discarded s (.repairDiscard clip p)
      (fun c => c.clip == clip && decide (c.purpose = .repair ∧ c.repairPort = some p))) t ∧
    t.pool.window = s.pool.window ∧ (nextWait t.pool = none ∨ lowestFree t.pool = none) ∧
    (∀ e ∈ t.pool.extents, ¬ (e.2.claim.clip = clip ∧ e.2.claim.purpose = .repair ∧ e.2.claim.repairPort = some p)) ∧
    (∀ w ∈ t.pool.waits, ¬ (w.claim.clip = clip ∧ w.claim.purpose = .repair ∧ w.claim.repairPort = some p)) ∧
    (IndexesRise s.pool → ∀ e ∈ s.pool.extents,
      ¬ (e.2.claim.clip = clip ∧ e.2.claim.purpose = .repair ∧ e.2.claim.repairPort = some p) →
      e ∈ t.pool.extents) ∧
    (IndexesRise s.pool → ∀ w ∈ s.pool.waits,
      ¬ (w.claim.clip = clip ∧ w.claim.purpose = .repair ∧ w.claim.repairPort = some p) → WaitsOrOffered t w) ∧
    (∀ e ∈ s.pool.extents, e.2.claim.clip = clip → e.2.claim.purpose = .repair → e.2.claim.repairPort = some p →
      ∀ ps, e.2.pending = some ps → ∀ q ∈ ps, Instr.extentRemoval q e.1 e.2.claim ∈ t.wire) ∧
    (∀ w ∈ s.pool.waits, w.claim.clip = clip → w.claim.purpose = .repair → w.claim.repairPort = some p →
      Instr.waitRemoved w.requester w.claim ∈ t.wire))

/-! ## Reports to the job manager -/

/-- PENDING_SET_QUESTION: the WRITING copies' ports for a FIRST extent, the REPAIRING copy's port for a REPAIR extent,
none for a clip that is absent or terminal. -/
def Obligations.PendingSetsAreNamed : Prop :=
  ∀ (i : Nat) (claim : ClaimId) (s : State), ∃ t ports, exec (.pendingSetQuestion i claim) s = .next t ∧ OnlyJobs s t ∧
    t.jm = s.jm ∧ t.wire = s.wire.erase (.pendingSetQuestion i claim) ++ [Instr.pendingSetAnswer i claim ports] ∧
    ((∀ c, s.clip? claim.clip = some c → clipTerminal c = true) → ports = []) ∧
    (∀ c, s.clip? claim.clip = some c → clipTerminal c = false → claim.purpose = .first →
      ports = (c.copies.filter (fun k => decide (k.state = .writing))).map Copy.port) ∧
    (∀ c p, s.clip? claim.clip = some c → clipTerminal c = false → claim.purpose = .repair →
      claim.repairPort = some p →
      ports = (if (copyOn c p).any (fun k => decide (k.state = .repairing)) then [p] else []))

/-- BURST_END_REPORT and BLOCK_SUBSTITUTION: a READING clip takes the running state and the bytes read, and the block
joins its damage list in ascending order without a second entry; a repair takes the running state; other reports are
dropped, and so is a late one, which is a report on an earlier read of the item. Which reports are late is the model's
reading (log 51). -/
def Obligations.ReadingReportsAreStored : Prop :=
  (∀ (id : Nat) (d : DigestState) (s : State), ∃ t, exec (.burstEndReport (.clip id) d) s = .next t ∧ OnlyJobs s t ∧
    t.jm.jobs = s.jm.jobs ∧ t.jm.views = s.jm.views ∧
    (∀ c, Instr.burstEndReport (.clip id) d ∉ s.jm.late → s.clip? id = some c → c.state = .reading →
      t.clip? id = some { c with running := some d, bytesRead := d.count }) ∧
    (∀ i, i ≠ id → t.clip? i = s.clip? i) ∧ LateDropped s t (.burstEndReport (.clip id) d) [] ∧
    (Instr.burstEndReport (.clip id) d ∉ s.jm.late → (∀ c, s.clip? id = some c → c.state ≠ .reading) →
      t = s.arrive (.burstEndReport (.clip id) d))) ∧
  (∀ (id : Nat) (p : Fin 4) (d : DigestState) (s : State), ∃ t, exec (.burstEndReport (.repair id p) d) s = .next t ∧
    OnlyJobs s t ∧ t.jm.jobs = s.jm.jobs ∧ t.jm.views = s.jm.views ∧
    (∀ c k r, Instr.burstEndReport (.repair id p) d ∉ s.jm.late → s.clip? id = some c → clipTerminal c = false →
      copyOn c p = some k → k.state = .repairing → k.repair = some r → r.source = .card → r.reading = true →
      t.clip? id = some (setCopyOn p (fun x =>
        { x with repair := x.repair.map (fun y => { y with running := some d }) }) c)) ∧
    (∀ i, i ≠ id → t.clip? i = s.clip? i) ∧ LateDropped s t (.burstEndReport (.repair id p) d) [] ∧
    (Instr.burstEndReport (.repair id p) d ∉ s.jm.late →
      (∀ c k, s.clip? id = some c → copyOn c p = some k → k.state ≠ .repairing) →
      t = s.arrive (.burstEndReport (.repair id p) d))) ∧
  (∀ (id block : Nat) (s : State), ∃ t, exec (.blockSubstitution id block) s = .next t ∧ OnlyJobs s t ∧
    t.jm.jobs = s.jm.jobs ∧ t.jm.views = s.jm.views ∧
    LateDropped s t (.blockSubstitution id block) [] ∧
    (∀ c, Instr.blockSubstitution id block ∉ s.jm.late → s.clip? id = some c → c.state = .reading →
      ∃ damage, t.clip? id = some { c with damage := damage } ∧
      (∀ v, v ∈ damage ↔ v = block ∨ v ∈ c.damage) ∧
      (c.damage.Pairwise (· < ·) → damage.Pairwise (· < ·))) ∧
    (∀ i, i ≠ id → t.clip? i = s.clip? i) ∧
    (Instr.blockSubstitution id block ∉ s.jm.late → (∀ c, s.clip? id = some c → c.state ≠ .reading) →
      t = s.arrive (.blockSubstitution id block)))

/-- MOUNT_REPORT and CARD_LOST_REPORT set the job manager's view of the bay and evaluate CLEAR; the mount of the job's own
card is an admission point; a loss sends the job's READING clip back for a re-read, its WRITING copies PENDING without
their runs, or cancels it in a STOPPING job, and each card-sourced repair outstanding chooses its source anew. A loss that
ends the read of a clip or the last card-sourced repair is an admission point: it is held over where an admission is in
progress, and has no effect where none is, since the job is away. How the job manager sees that a sibling's port may serve
is the model's reading (log 14), and so is the word to the bay that the READING clip's item is ended (log 19); that a clip
cancelled in place of its re-read has its bytes read, damage list and digests cleared is its choice (log 50). -/
def Obligations.BayViewsFollowCards : Prop :=
  (∀ (b : Fin 8) (g : CardSig) (s : State), ∃ t, exec (.mountReport b g) s = .next t ∧ OnlyJobs s t ∧
    (t.view b).sig = some g ∧ (∀ a, a ≠ b → (t.view a).sig = (s.view a).sig) ∧
    t.jm.clips.map Clip.id = s.jm.clips.map Clip.id ∧ t.jm.jobs.map Job.id = s.jm.jobs.map Job.id ∧
    (s.jobOf b = none → t.jm.clips = s.jm.clips ∧ t.jm.jobs = s.jm.jobs ∧ (t.view b).clear = false) ∧
    (∀ j, s.jobOf b = some j → g ≠ j.sig → t.jm.clips = s.jm.clips ∧ t.jm.jobs = s.jm.jobs ∧
      (t.view b).adm = (s.view b).adm ∧ (t.view b).clear = false) ∧
    (∀ j a, s.jobOf b = some j → g = j.sig → (s.view b).adm = some a →
      (t.view b).adm = some { a with heldOver := true } ∧ t.jm.clips = s.jm.clips) ∧
    (∀ j, s.jobOf b = some j → j.state = .done →
      ((t.view b).clear = true ↔ g = j.sig ∧
        ∀ i ∈ j.clips, ∃ c, s.clip? i = some c ∧ c.state = .safe ∧ c.damage = []) ∧
      ((t.view b).clear ≠ (s.view b).clear → Instr.bayClearChange b (t.view b).clear ∈ t.wire)) ∧
    (∀ j i c, s.jobOf b = some j → g = j.sig → j.state = .opened ∨ j.state = .sealed → (s.view b).adm = none →
      (s.view b).repairs = [] → (∀ i ∈ j.clips, ∀ c, s.clip? i = some c → c.state ≠ .reading) →
      j.clips.filter (fun i => (s.clip? i).any clipWaits) = [i] → s.clip? i = some c →
      c.attempts < 3 → pendingPorts c ≠ [] →
      (t.view b).adm = some ⟨.enquiring, i, [], pendingPorts c, [], [], false, false⟩ ∧ t.jm.clips = s.jm.clips ∧
        ∀ p ∈ pendingPorts c, Instr.holdEnquiry p i c.length ∈ t.wire)) ∧
  (∀ (b : Fin 8) (s : State), ∃ t, exec (.cardLostReport b) s = .next t ∧ OnlyJobs s t ∧ (t.view b).sig = none ∧
    t.jm.clips.map Clip.id = s.jm.clips.map Clip.id ∧ t.jm.jobs.map Job.id = s.jm.jobs.map Job.id ∧
    (∀ j c, s.jobOf b = some j → c.id ∈ j.clips → s.clip? c.id = some c → c.state = .reading →
      (∀ i ∈ j.clips, i ≠ c.id → ∀ x, s.clip? i = some x → x.state ≠ .reading) → s.job? c.job = some j →
      (∀ r ∈ (s.view b).repairs, r.clip ≠ c.id ∧ ∀ x, s.clip? r.clip = some x → x.job = c.job) →
      Instr.workItemEnded b (.clip c.id) ∈ t.wire ∧ Instr.clipDiscard c.id ∈ t.wire ∧
      (∀ k ∈ c.copies, k.state = .writing → Instr.runAbandonment k.port c.id ∈ t.wire) ∧
      (j.state ≠ .stopping → t.clip? c.id = some { c with
        state := .queued, running := none, digest := none, bytesRead := 0, damage := [], mismatch := c.mismatch
        copies := c.copies.map (fun k => if k.state = .writing then { k with state := .pending, placement := none } else k) }) ∧
      (j.state = .stopping → t.clip? c.id = some { c with
        state := .cancelled, wait := none, cause := none, running := none, digest := none, bytesRead := 0, damage := []
        copies := (c.copies.map (fun k =>
          if k.state = .writing then { k with state := .pending, placement := none } else k)).map (fun k =>
          if copySettled j.verify k then k else { k with state := .dropped, cause := some .cancelled, repair := none }) } ∧
        Instr.noticeQueued (.clip c.id c.job .cancelled none none) ∈ t.wire ∧
        (OthersEnded s j c.id → (s.view b).repairs = [] →
          ∃ j', t.job? c.job = some j' ∧ j'.state = .stopped ∧ j'.counts = countsAfter j.counts .cancelled))) ∧
    ((s.readingOf b).isSome = true ∨ ((s.view b).repairs ≠ [] ∧ (t.view b).repairs = []) →
      (∀ a, (s.view b).adm = some a → (t.view b).adm = some { a with heldOver := true }) ∧
      ((s.view b).adm = none → (t.view b).adm = none)) ∧
    (s.readingOf b = none → (s.view b).repairs = [] → t.jm.clips = s.jm.clips ∧ t.jm.jobs = s.jm.jobs ∧
      (t.view b).clear = false ∧ ((s.view b).clear = true → Instr.bayClearChange b false ∈ t.wire)) ∧
    ((∀ x ∈ (s.view b).repairs, ∀ c k, s.clip? x.clip = some c → clipTerminal c = false → copyOn c x.port = some k →
        k.state = .repairing → (∃ r, k.repair = some r ∧ r.source = .card) ∧ ∃ j, s.job? c.job = some j ∧ j.bay = b) →
      (t.view b).repairs = []) ∧
    (∀ j c k r p, TablesOk s → ⟨c.id, p⟩ ∈ (s.view b).repairs → s.clip? c.id = some c → c.state = .landing →
      copyOn c p = some k → k.state = .repairing → k.repair = some r → r.source = .card → s.job? c.job = some j →
      j.bay = b → Instr.repairDiscard c.id p ∈ t.wire ∧ Instr.workItemEnded b (.repair c.id p) ∈ t.wire ∧
        ⟨c.id, p⟩ ∉ (t.view b).repairs ∧
        ∃ src, Chosen s False c p r.cardExcluded src ∧ SourceGiven t j c k r.cardExcluded src ∧
          (src = .none → NoSourceDecides s t j c k)))

/-- READ_COMPLETION and MEDIA_FAILURE: a completion is always acknowledged; a late report, one on an earlier read of the
clip, is dropped, which is late being the model's reading (log 51); a READING clip whose digest is as expected, or that
expects none, is LANDING with its clip digest, is decided at once when every copy is settled, and when it is of length 0
has its trailers appended; the first mismatch sends it back for a re-read with the mismatch marked, or cancels it in a
STOPPING job; the second mismatch and the third attempt fail it; a media failure fails it. A clip that fails has its
copies that are not settled DROPPED, its extents discarded and its runs abandoned, counts as FAILED, and its job is
tested; its clip digest stays, and so does its mismatch mark, which is the model's choice (log 46); so is the order of
what it sends (log 28). Each way in which the clip leaves READING is an admission point of its bay: it is held over
where an admission is in progress, and else taken, the next clip in order being tried (what it does is spelled out where
the job has other clips left, and for a clip that is sent back where its job is not STOPPING). That the bay is told of
no clip of length 0 is the model's reading (log 45). That a clip which a STOPPING job cancels in place of its re-read
has the bytes read, the damage list and the digests cleared and the mismatch marked is the model's choice (log 50). A
required copy that an earlier read left FAILED stands in the way of no admission, by the model's reading (log 52). -/
def Obligations.ReadsEndClips : Prop :=
  (∀ (n : Fin 4) (id : Nat) (d : DigestState) (s : State), ∃ t, exec (.readCompletion n id d) s = .next t ∧
    OnlyJobs s t ∧ t.jm.clips.map Clip.id = s.jm.clips.map Clip.id ∧
    Instr.readCompletionAck n (.clip id) ∈ t.wire ∧
    LateDropped s t (.readCompletion n id d) [.readCompletionAck n (.clip id)] ∧
    (Instr.readCompletion n id d ∉ s.jm.late → (∀ c, s.clip? id = some c → c.state ≠ .reading) →
      t = { s with wire := s.wire.erase (.readCompletion n id d) ++ [Instr.readCompletionAck n (.clip id)] }) ∧
    (∀ c v j, Instr.readCompletion n id d ∉ s.jm.late → s.clip? id = some c → c.state = .reading →
      v = d.reg ^^^ BitVec.allOnes 64 → TablesOk s → s.job? c.job = some j → ∃ u, ReadLeaves s j c v d.count
          (s.wire.erase (.readCompletion n id d) ++ [Instr.readCompletionAck n (.clip id)]) u ∧
        (u.view j.bay).adm = (s.view j.bay).adm ∧ PointFollows u t j.bay) ∧
    (∀ c v, Instr.readCompletion n id d ∉ s.jm.late → s.clip? id = some c → c.state = .reading →
      v = d.reg ^^^ BitVec.allOnes 64 →
      (c.expected = none ∨ c.expected = some v → (∃ k ∈ c.copies, copySettled (s.verifyOfClip c) k = false) →
        t.clip? id = some { c with state := .landing, digest := some v, bytesRead := d.count, running := none }) ∧
      (∀ j k pl, c.expected = none ∨ c.expected = some v → c.length = 0 → s.job? c.job = some j → copyOn c k.port = some k →
        k.state = .writing → k.placement = some pl →
        Instr.trailerAppend k.port id ⟨c.job, k.attempts, 0, v, j.sig, c.damage, pl.start, c.label⟩ ∈ t.wire) ∧
      (∀ j, c.expected = none ∨ c.expected = some v → (∀ k ∈ c.copies, copySettled (s.verifyOfClip c) k = true) →
        s.job? c.job = some j → s.jobOf j.bay = some j → OthersEnded s j id →
        ClipDecided s t j { c with digest := some v, bytesRead := d.count } c.copies) ∧
      (∀ x, c.expected = some x → x ≠ v → c.mismatch = true ∨ 3 ≤ c.attempts →
        (∃ c', t.clip? id = some c' ∧ c'.state = .failed ∧ c'.cause = some .sourceDigest) ∧ Instr.clipDiscard id ∈ t.wire ∧
          ∀ j, TablesOk s → s.job? c.job = some j →
            ClipFailed s t j { c with digest := some v, bytesRead := d.count } .sourceDigest
              (s.wire.erase (.readCompletion n id d) ++ [Instr.readCompletionAck n (.clip id)]) [.clipDiscard id]
              (NoneFollows s j id)) ∧
      (∀ x, c.expected = some x → x ≠ v → c.mismatch = false → c.attempts < 3 → Instr.clipDiscard id ∈ t.wire ∧
        (∀ k ∈ c.copies, k.state = .writing → Instr.runAbandonment k.port id ∈ t.wire) ∧
        (∀ j, s.job? c.job = some j → j.state ≠ .stopping → (∃ k ∈ c.copies, k.state = .writing) →
          t.clip? id = some { c with
            state := .queued, running := none, digest := none, bytesRead := 0, damage := [], mismatch := true
            copies := c.copies.map (fun k =>
              if k.state = .writing then { k with state := .pending, placement := none } else k) }) ∧
        (∀ j, s.job? c.job = some j → j.state = .stopping →
          Instr.noticeQueued (.clip id c.job .cancelled none none) ∈ t.wire ∧
          t.clip? id = some { c with
            state := .cancelled, wait := none, cause := none, running := none, digest := none, bytesRead := 0
            damage := [], mismatch := true
            copies := (c.copies.map (fun k =>
              if k.state = .writing then { k with state := .pending, placement := none } else k)).map (fun k =>
              if copySettled j.verify k then k
              else { k with state := .dropped, cause := some .cancelled, repair := none }) })))) ∧
  (∀ (id : Nat) (s : State), ∃ t, exec (.mediaFailure id) s = .next t ∧ OnlyJobs s t ∧
    t.jm.clips.map Clip.id = s.jm.clips.map Clip.id ∧ LateDropped s t (.mediaFailure id) [] ∧
    (∀ c, Instr.mediaFailure id ∉ s.jm.late → s.clip? id = some c → c.state = .reading →
      (∃ c', t.clip? id = some c' ∧ c'.state = .failed ∧ c'.cause = some .media) ∧ Instr.clipDiscard id ∈ t.wire ∧
        Instr.noticeQueued (.clip id c.job .failed none (some .media)) ∈ t.wire ∧
        ∀ j, TablesOk s → s.job? c.job = some j →
          ClipFailed s t j c .media (s.wire.erase (.mediaFailure id)) [.clipDiscard id] (NoneFollows s j id) ∧
          ∃ u, (¬ OthersEnded s j id → u = clipEnded s j { c with
                state := .failed, wait := none, cause := some .media, running := none
                copies := c.copies.map (droppedCopy j.verify) }
              (s.wire.erase (.mediaFailure id) ++ [.noticeQueued (.clip id c.job .failed none (some .media)),
                .clipDiscard id] ++ runEnds j.verify c)) ∧
            (u.view j.bay).adm = (s.view j.bay).adm ∧ PointFollows u t j.bay) ∧
    (Instr.mediaFailure id ∉ s.jm.late → (∀ c, s.clip? id = some c → c.state ≠ .reading) →
      t = s.arrive (.mediaFailure id)))

/-- REPAIR_READ_COMPLETION, REPAIR_SOURCE_FAILURE and SIBLING_READ_COMPLETION: completions are always acknowledged; a
late report, one on an earlier card read of the repair, is dropped, which is late being the model's reading (log 51);
the clip digest ends the read of a repair; anything else discards the repair's extents and chooses the source anew: a
card that has failed is excluded, a sibling copy at fault is reopened; where no source is left and no other copy is
unsettled, the clip is decided. The completion or the failure of the last card-sourced repair outstanding for the bay is
an admission point: it is held over where an admission is in progress, and else taken, the first clip in order being
tried (spelled out where the source chosen anew is a sibling with a run, where the clip stays, and where the job has
other clips left); while another one is outstanding it is none. Whether the card's read is still awaited is the model's
`reading` mark (log 15), and how the job manager sees that a sibling's port may serve is its reading (log 14). Of the
admission that follows, that the bay is told of no clip of length 0 is the model's reading (log 45), that one which
fails keeps its mismatch mark its choice (log 46), and so is the order of the messages of a clip that ends (log 28). A
required copy that an earlier read left FAILED stands in the way of no admission, by the model's reading (log 52). -/
def Obligations.RepairReadsAreJudged : Prop :=
  (∀ (n : Fin 4) (id : Nat) (p : Fin 4) (d : Digest) (s : State), ∃ t,
    exec (.repairReadCompletion n id p d) s = .next t ∧ OnlyJobs s t ∧
    Instr.readCompletionAck n (.repair id p) ∈ t.wire ∧
    LateDropped s t (.repairReadCompletion n id p d) [.readCompletionAck n (.repair id p)] ∧
    (∀ c k r, Instr.repairReadCompletion n id p d ∉ s.jm.late → s.clip? id = some c → c.state = .landing → copyOn c p = some k → k.state = .repairing →
      k.repair = some r → r.source = .card → r.reading = true →
      (c.digest = some d → ∃ c', t.clip? id = some c' ∧
        copyOn c' p = some { k with repair := some { r with running := none, reading := false } }) ∧
      (c.digest ≠ some d → Instr.repairDiscard id p ∈ t.wire) ∧
      (∀ j, c.digest ≠ some d → s.job? c.job = some j → k.port = p →
        ∃ src, Chosen s ((s.view j.bay).sig = some j.sig) c p true src ∧ SourceGiven t j c k true src ∧
          (src = .none → NoSourceDecides s t j c k)) ∧
      ∀ j w, TablesOk s → s.job? c.job = some j → w = s.wire.erase (.repairReadCompletion n id p d) ++
          [Instr.readCompletionAck n (.repair id p)] →
        ((s.view j.bay).repairs = [] ∨ otherRepairs s j id p ≠ [] → (t.view j.bay).adm = (s.view j.bay).adm) ∧
        ((s.view j.bay).repairs ≠ [] → otherRepairs s j id p = [] →
          ∃ u, (u.view j.bay).adm = (s.view j.bay).adm ∧ PointFollows u t j.bay ∧
            (c.digest = some d → u = ({ noRepairs s j with wire := w } : State).modClip id (fun _ =>
              setCopyOn p (fun _ => { k with repair := some { r with running := none, reading := false } }) c)) ∧
            (c.digest ≠ some d → CardFailLeaves (noRepairs s j) j c k (w ++ [.repairDiscard id p]) u))) ∧
    (Instr.repairReadCompletion n id p d ∉ s.jm.late →
      (∀ c k, s.clip? id = some c → copyOn c p = some k → k.state ≠ .repairing) →
      t = { s with wire := s.wire.erase (.repairReadCompletion n id p d) ++ [Instr.readCompletionAck n (.repair id p)] })) ∧
  (∀ (id : Nat) (p : Fin 4) (s : State), ∃ t, exec (.repairSourceFailure id p) s = .next t ∧ OnlyJobs s t ∧
    LateDropped s t (.repairSourceFailure id p) [] ∧
    (∀ c k r, Instr.repairSourceFailure id p ∉ s.jm.late → s.clip? id = some c → c.state = .landing → copyOn c p = some k → k.state = .repairing →
      k.repair = some r → r.source = .card → r.reading = true → Instr.repairDiscard id p ∈ t.wire ∧
      ∀ j, s.job? c.job = some j → k.port = p →
        ∃ src, Chosen s ((s.view j.bay).sig = some j.sig) c p true src ∧ SourceGiven t j c k true src ∧
          (src = .none → NoSourceDecides s t j c k)) ∧
    (∀ c k r j, Instr.repairSourceFailure id p ∉ s.jm.late → s.clip? id = some c → c.state = .landing →
      copyOn c p = some k → k.state = .repairing → k.repair = some r → r.source = .card → r.reading = true →
      TablesOk s → s.job? c.job = some j →
      ((s.view j.bay).repairs = [] ∨ otherRepairs s j id p ≠ [] → (t.view j.bay).adm = (s.view j.bay).adm) ∧
      ((s.view j.bay).repairs ≠ [] → otherRepairs s j id p = [] →
        ∃ u, (u.view j.bay).adm = (s.view j.bay).adm ∧ PointFollows u t j.bay ∧ CardFailLeaves (noRepairs s j) j c k
          (s.wire.erase (.repairSourceFailure id p) ++ [.repairDiscard id p]) u)) ∧
    (Instr.repairSourceFailure id p ∉ s.jm.late →
      (∀ c k, s.clip? id = some c → copyOn c p = some k → k.state ≠ .repairing) →
      t = s.arrive (.repairSourceFailure id p))) ∧
  (∀ (q : Fin 4) (id : Nat) (p : Fin 4) (d : Option Digest) (s : State), ∃ t,
    exec (.siblingReadCompletion q id p d) s = .next t ∧ OnlyJobs s t ∧
    Instr.siblingCompletionAck q id p ∈ t.wire ∧
    (∀ c k r v, s.clip? id = some c → c.state = .landing → copyOn c p = some k → k.state = .repairing →
      k.repair = some r → r.source = .port q → c.digest = some v →
      (d = some v → ∃ c', t.clip? id = some c' ∧
        copyOn c' p = some { k with repair := some { r with running := none, reading := false } }) ∧
      (d ≠ some v → Instr.repairDiscard id p ∈ t.wire) ∧
      (∀ j x, d ≠ some v → q ≠ p → copyOn c q = some x → x.state = .verified → s.job? c.job = some j → k.port = p →
        c.length ≠ 0 →
        (∃ c' x', t.clip? id = some c' ∧ copyOn c' q = some x' ∧
          (x.attempts = 1 → x'.attempts = 2 ∧
            (x'.state = .repairing ∨ (x'.state = .failed ∧ x'.cause = some .noRepairSource))) ∧
          (x.attempts ≠ 1 → x'.state = .failed ∧ x'.cause = some .verifyMismatch)) ∧
        ∃ src, Chosen s ((s.view j.bay).sig = some j.sig) (setCopyOn q (fun y => { y with state := .failed }) c) p
          r.cardExcluded src ∧ SourceGiven t j c k r.cardExcluded src ∧
          (src = .none → TablesOk s → OthersEnded s j id →
            (∀ y ∈ c.copies, y.port ≠ p → y.port ≠ q → copySettled j.verify y = true) →
            (x.attempts ≠ 1 → ClipDecided s t j c (c.copies.map (fun y =>
              if y.port = p then { y with state := .failed, cause := some .noRepairSource, repair := none }
              else if y.port = q then { y with state := .failed, cause := some .verifyMismatch, repair := none } else y))) ∧
            (x.attempts = 1 → (s.view j.bay).sig ≠ some j.sig → ClipDecided s t j c (c.copies.map (fun y =>
              if y.port = p then { y with state := .failed, cause := some .noRepairSource, repair := none }
              else if y.port = q then
                { y with state := .failed, cause := some .noRepairSource, attempts := 2, repair := none }
              else y)))))) ∧
    ((∀ c k, s.clip? id = some c → copyOn c p = some k → k.state ≠ .repairing ∨
        ∀ r, k.repair = some r → r.source ≠ .port q) →
      t = { s with wire := s.wire.erase (.siblingReadCompletion q id p d) ++ [Instr.siblingCompletionAck q id p] }))

/-- HOLD_ANSWER and CONFIRMATION_ANSWER: answers are gathered; the last one refuses the clip, withdrawing the holds, and
then it is WAITING, told of by a notice when it enters that state or its reason changes, and the next clip of the list
is tried; or asks for the confirmations, or starts the read at once where no copy has a hold to confirm. At the end of
the list the admission ends, and a point held over runs admission once more, as it does where a clip of length 0 has
left READING at once; one that stays READING ends it, and the run held over finds it READING. When the job has gone away
the last answer withdraws the holds and the clip stands (log 43); in an admission whose clip is cancelled fits are
withdrawn, no copy changes, and the last answer ends it and brings the point held over (log 13); the last confirmation
starts the read with the placed copies WRITING, from the initial running state, and a clip of length 0 completes then
with digest 0, its trailers appended, or is decided, sent back or FAILED at once; that the bay is told of no such clip
is the model's reading (log 45), and that one which fails keeps its mismatch mark its choice (log 46). The refused copy
and its reason, the ports confirmed, and what a copy becomes by its answers are spelled out. That the clip is READING
only from that answer on (log 12), also when the card has been lost since the confirmations (log 38), that a required
copy FAILED before bars no admission (log 52), how the reports on an earlier read are late (log 51), and that the notice
of WAITING follows the withdrawals (log 28), are the model's reading; that the list tried is the one fixed at the
admission's start (log 47), that a card-sourced repair given meanwhile stops nothing (log 49), and the order of
withdrawals on several ports and of the messages of a clip that fails (log 28), its choice. -/
def Obligations.AdmissionTakesAnswers : Prop :=
  (∀ (as : List TakenAnswer) (p : Fin 4), (∀ x, (as.map TakenAnswer.port).Nodup → (answerOf as p = some x ↔ ⟨p, x⟩ ∈ as)) ∧
    (answeredFits as p = true ↔ ∃ f d, answerOf as p = some (.fits f d)) ∧
    waitReasonOf as p = (if answerOf as p = some .noRoom then .space else .port)) ∧
  (∀ (as : List TakenAnswer) (c : Clip), fitPorts as = (as.map TakenAnswer.port).filter (answeredFits as) ∧
    confirmPorts c as =
      ((c.copies.filter (fun k => decide (k.state = .pending))).map Copy.port).filter (answeredFits as) ∧
    ∀ refused : Copy → Prop, refused = (fun k =>
        k.state = .pending ∧ k.required = true ∧ answeredFits as k.port = false) →
      (∀ k, refusedCopy c as = some k ↔ ∃ before after, c.copies = before ++ k :: after ∧ refused k ∧
        ∀ x ∈ before, ¬ refused x) ∧
      (refusedCopy c as = none ↔ ∀ x ∈ c.copies, ¬ refused x)) ∧
  (∀ (as : List TakenAnswer) (k : Copy), skipCopy as k =
    (if k.state = .pending ∧ answerOf as k.port = some .noRoom then { k with state := .skipped, cause := some .space }
      else if k.state = .pending ∧ answerOf as k.port = some .notReady then
        { k with state := .skipped, cause := some .portLost }
      else k)) ∧
  (∀ (k : Copy) (pl : Placement) (cause : Option Cause),
    placeCopy (.placed pl) k = { k with state := .writing, placement := some pl } ∧
    placeCopy (.notReady cause) k = { k with state := .failed, cause := cause }) ∧
  (∀ (s : State) (phase : AdmPhase) (p : Fin 4) (id : Nat) (b : Fin 8), s.awaits phase p id b = true ↔
    ∃ a, (s.view b).adm = some a ∧ a.phase = phase ∧ a.clip = id ∧ p ∈ a.awaiting) ∧
  (∀ (p : Fin 4) (id : Nat) (x : HoldAnswer) (s : State), ∃ t, exec (.holdAnswer p id x) s = .next t ∧ OnlyJobs s t ∧
    t.jm.clips.map Clip.id = s.jm.clips.map Clip.id ∧
    ((∀ b, s.awaits .enquiring p id b = false) → t = s.arrive (.holdAnswer p id x)) ∧
    (∀ b a, (s.view b).adm = some a → s.awaits .enquiring p id b = true →
      (∀ b', b' ≠ b → s.awaits .enquiring p id b' = false) →
      (a.awaiting.filter (fun q => decide (q ≠ p)) ≠ [] →
        (t.view b).adm = some { a with
          awaiting := a.awaiting.filter (fun q => decide (q ≠ p)), answers := a.answers ++ [⟨p, x⟩] } ∧
        t.jm.clips = s.jm.clips) ∧
      (∀ c j k, a.awaiting.filter (fun q => decide (q ≠ p)) = [] → a.cancelled = false → s.clip? id = some c →
        s.jobOf b = some j → (s.view b).sig = some j.sig → refusedCopy c (a.answers ++ [⟨p, x⟩]) = some k →
        (∀ q ∈ fitPorts (a.answers ++ [⟨p, x⟩]), Instr.holdWithdrawal q id ∈ t.wire) ∧
        ∀ reason, reason = waitReasonOf (a.answers ++ [⟨p, x⟩]) k.port →
          (c.state ≠ .waiting ∨ c.wait ≠ some reason →
            Instr.noticeQueued (.clip id c.job .waiting (some reason) c.cause) ∈ t.wire) ∧
          (a.rest = [] → a.heldOver = false → (t.view b).adm = none ∧
            t.clip? id = some { c with state := .waiting, wait := some reason } ∧
            t.wire = s.wire.erase (.holdAnswer p id x) ++
              (fitPorts (a.answers ++ [⟨p, x⟩])).map (fun q => Instr.holdWithdrawal q id) ++
              (if c.state = .waiting ∧ c.wait = some reason then []
                else [Instr.noticeQueued (.clip id c.job .waiting (some reason) c.cause)])) ∧
          ∀ u, u = ({ s with wire := s.wire.erase (.holdAnswer p id x) ++
                (fitPorts (a.answers ++ [⟨p, x⟩])).map (fun q => Instr.holdWithdrawal q id) ++
                (if c.state = .waiting ∧ c.wait = some reason then []
                  else [Instr.noticeQueued (.clip id c.job .waiting (some reason) c.cause)]) } : State).modClip id
              (fun _ => { c with state := .waiting, wait := some reason }) →
            GoesOn 2 u t b a) ∧
      (∀ c j, a.awaiting.filter (fun q => decide (q ≠ p)) = [] → a.cancelled = false → s.clip? id = some c →
        s.jobOf b = some j → (s.view b).sig ≠ some j.sig →
        (∀ q ∈ fitPorts (a.answers ++ [⟨p, x⟩]), Instr.holdWithdrawal q id ∈ t.wire) ∧ (t.view b).adm = none ∧
          t.jm.clips = s.jm.clips) ∧
      (∀ c j, a.awaiting.filter (fun q => decide (q ≠ p)) = [] → a.cancelled = false → s.clip? id = some c →
        s.jobOf b = some j → (s.view b).sig = some j.sig → refusedCopy c (a.answers ++ [⟨p, x⟩]) = none →
        confirmPorts c (a.answers ++ [⟨p, x⟩]) ≠ [] →
        t.wire = s.wire.erase (.holdAnswer p id x) ++
            (confirmPorts c (a.answers ++ [⟨p, x⟩])).map (fun q => Instr.holdConfirmation q id) ∧
        (t.view b).adm = some { a with
          phase := .confirming, awaiting := confirmPorts c (a.answers ++ [⟨p, x⟩]), answers := a.answers ++ [⟨p, x⟩]
          confirmed := confirmPorts c (a.answers ++ [⟨p, x⟩]) } ∧
        t.clip? id = some { c with copies := c.copies.map (skipCopy (a.answers ++ [⟨p, x⟩])) }) ∧
      (∀ c j, a.awaiting.filter (fun q => decide (q ≠ p)) = [] → a.cancelled = false → s.clip? id = some c →
        s.jobOf b = some j → (s.view b).sig = some j.sig → refusedCopy c (a.answers ++ [⟨p, x⟩]) = none →
        confirmPorts c (a.answers ++ [⟨p, x⟩]) = [] → c.length = 0 →
        ReadAtOnce s t b { c with copies := c.copies.map (skipCopy (a.answers ++ [⟨p, x⟩])) }
          (s.wire.erase (.holdAnswer p id x)) ∧
        (TablesOk s → s.job? c.job = some j → ∃ u, ReadLeaves s j { c with
            state := .reading, wait := none, attempts := c.attempts + 1, bytesRead := 0
            running := some ⟨BitVec.allOnes 64, 0⟩, copies := c.copies.map (skipCopy (a.answers ++ [⟨p, x⟩])) } 0#64 0
          (s.wire.erase (.holdAnswer p id x)) u ∧ PointTaken u t b u.wire)) ∧
      (∀ c j, a.awaiting.filter (fun q => decide (q ≠ p)) = [] → a.cancelled = false → s.clip? id = some c →
        s.jobOf b = some j → (s.view b).sig = some j.sig → refusedCopy c (a.answers ++ [⟨p, x⟩]) = none →
        confirmPorts c (a.answers ++ [⟨p, x⟩]) = [] → c.length ≠ 0 → a.heldOver = false ∨ id ∈ j.clips →
        (t.view b).adm = none ∧
        t.clip? id = some { c with
          state := .reading, wait := none, attempts := c.attempts + 1, bytesRead := 0
          running := some ⟨BitVec.allOnes 64, 0⟩, copies := c.copies.map (skipCopy (a.answers ++ [⟨p, x⟩])) } ∧
        t.wire = s.wire.erase (.holdAnswer p id x) ++ [Instr.bayReadWork b ⟨.clip id, c.length, c.runs, j.damage, []⟩] ∧
        t.loadState (.clip id) = ⟨BitVec.allOnes 64, 0⟩) ∧
      (∀ u, a.cancelled = true → u = s.wire.erase (.holdAnswer p id x) ++
          (match x with | .fits _ _ => [Instr.holdWithdrawal p id] | _ => []) →
        (a.awaiting.filter (fun q => decide (q ≠ p)) ≠ [] → t.wire = u) ∧
        (a.awaiting.filter (fun q => decide (q ≠ p)) = [] → PointTaken s t b u)))) ∧
  (∀ (p : Fin 4) (id : Nat) (x : ConfirmAnswer) (s : State), ∃ t, exec (.confirmationAnswer p id x) s = .next t ∧
    OnlyJobs s t ∧ t.jm.clips.map Clip.id = s.jm.clips.map Clip.id ∧
    (x = .notReady none ∨ (∀ b, s.awaits .confirming p id b = false) → t = s.arrive (.confirmationAnswer p id x)) ∧
    (∀ b a c j, x ≠ .notReady none → (s.view b).adm = some a → s.awaits .confirming p id b = true →
      (∀ b', b' ≠ b → s.awaits .confirming p id b' = false) → a.cancelled = false → s.clip? id = some c →
      s.jobOf b = some j →
      (a.awaiting.filter (fun q => decide (q ≠ p)) ≠ [] →
        t.clip? id = some (setCopyOn p (placeCopy x) c)) ∧
      (a.awaiting.filter (fun q => decide (q ≠ p)) = [] → c.length ≠ 0 → a.heldOver = false ∨ id ∈ j.clips →
        t.clip? id = some { setCopyOn p (placeCopy x) c with
          state := .reading, wait := none, attempts := c.attempts + 1, bytesRead := 0
          running := some ⟨BitVec.allOnes 64, 0⟩ } ∧
        Instr.bayReadWork b ⟨.clip id, c.length, c.runs, j.damage, []⟩ ∈ t.wire ∧ (t.view b).adm = none ∧
        t.loadState (.clip id) = ⟨BitVec.allOnes 64, 0⟩) ∧
      (a.awaiting.filter (fun q => decide (q ≠ p)) = [] → c.length = 0 →
        ReadAtOnce s t b (setCopyOn p (placeCopy x) c) (s.wire.erase (.confirmationAnswer p id x)) ∧
        (TablesOk s → s.job? c.job = some j → ∃ u, ReadLeaves s j { setCopyOn p (placeCopy x) c with
            state := .reading, wait := none, attempts := c.attempts + 1, bytesRead := 0
            running := some ⟨BitVec.allOnes 64, 0⟩ } 0#64 0 (s.wire.erase (.confirmationAnswer p id x)) u ∧
          PointTaken u t b u.wire))) ∧
    (∀ b a, x ≠ .notReady none → (s.view b).adm = some a → s.awaits .confirming p id b = true →
      (∀ b', b' ≠ b → s.awaits .confirming p id b' = false) → a.cancelled = true →
      (a.awaiting.filter (fun q => decide (q ≠ p)) ≠ [] → t.jm.clips = s.jm.clips ∧
        t.wire = s.wire.erase (.confirmationAnswer p id x)) ∧
      (a.awaiting.filter (fun q => decide (q ≠ p)) = [] → PointTaken s t b (s.wire.erase (.confirmationAnswer p id x)))))

/-- EXTENT_WRITE_COMPLETION, TRAILER_WRITE_COMPLETION and WRITE_FAILURE_REPORT: the last extent calls for the trailer,
where its copy's state awaits it, and is dropped else; a written trailer makes the copy WRITTEN and asks for its verify
under FULL; a write failure fails the copy with WRITE_ERROR, and ends the repair read of one that was REPAIRING, with
the discard and the word to its source. When the last copy of a LANDING clip that was not settled settles so, the clip
is decided. Where a trailer or a failure ends the last card-sourced repair outstanding for the bay, that is an admission
point: it is held over where an admission is in progress, and else taken (spelled out for the trailer under verify FULL,
for the failure of a LANDING clip's copy where it stays or its job has other clips left). That a read of the repair's
source which still runs at the trailer's end is ended is the model's reading (log 15), and so is it that the bay is told
of no clip of length 0 (log 45); that one which fails keeps its mismatch mark, and the order of the messages of a clip
that ends, is its choice (log 46, log 28). A required copy that an earlier read left FAILED stands in the way of no
admission, by the model's reading (log 52). -/
def Obligations.WriteReportsMoveCopies : Prop :=
  (∀ length : Nat, extentCount length = (length + 4194303) / 4194304) ∧
  (∀ (p : Fin 4) (id : Nat) (u : Purpose) (seq : Nat) (s : State), ∃ t,
    exec (.extentWriteCompletion p id u seq) s = .next t ∧ OnlyJobs s t ∧ t.jm = s.jm ∧
    (∀ c k j d pl, s.clip? id = some c → clipTerminal c = false → copyOn c p = some k → s.job? c.job = some j →
      c.digest = some d → k.placement = some pl →
      (u = .first ∧ k.state = .writing) ∨ (u = .repair ∧ k.state = .repairing) → seq + 1 = extentCount c.length →
      t.wire = s.wire.erase (.extentWriteCompletion p id u seq) ++
        [Instr.trailerAppend p id ⟨c.job, k.attempts, c.length, d, j.sig, c.damage, pl.start, c.label⟩]) ∧
    (∀ c, s.clip? id = some c → (∀ k, copyOn c p = some k → ¬ ((u = .first ∧ k.state = .writing) ∨
        (u = .repair ∧ k.state = .repairing))) → t = s.arrive (.extentWriteCompletion p id u seq)) ∧
    ((∀ c, s.clip? id = some c → clipTerminal c = true ∨ seq + 1 ≠ extentCount c.length) →
      t = s.arrive (.extentWriteCompletion p id u seq))) ∧
  (∀ (p : Fin 4) (id : Nat) (s : State), ∃ t, exec (.trailerWriteCompletion p id) s = .next t ∧ OnlyJobs s t ∧
    t.jm.clips.map Clip.id = s.jm.clips.map Clip.id ∧
    (∀ c k, s.clip? id = some c → c.state = .landing ∨ c.state = .reading → copyOn c p = some k →
      k.state = .writing ∨ k.state = .repairing → k.port = p →
      (∃ c', t.clip? id = some c' ∧ copyOn c' p = some { k with state := .written, repair := none }) ∧
      (s.verifyOfClip c = .full → (∀ r, k.repair = some r → r.reading = false) →
        t.clip? id = some (setCopyOn p (fun x => { x with state := .written, repair := none }) c) ∧
        ∀ i, i ≠ id → t.clip? i = s.clip? i) ∧
      (∀ pl, s.verifyOfClip c = .full → k.placement = some pl → (∀ r, k.repair = some r → r.reading = false) →
        t.wire = s.wire.erase (.trailerWriteCompletion p id) ++
          [Instr.verifyAppend p ⟨id, c.length, c.digest.getD 0#64, pl.start, pl.dataUnits, none⟩]) ∧
      (∀ r pl b, s.verifyOfClip c = .full → k.placement = some pl → k.repair = some r → r.reading = true →
        s.bayOfClip c = some b →
        s.wire.erase (.trailerWriteCompletion p id) ++ repairEnd b id k ++
          [Instr.verifyAppend p ⟨id, c.length, c.digest.getD 0#64, pl.start, pl.dataUnits, none⟩] <+: t.wire) ∧
      (∀ r pl j u, s.verifyOfClip c = .full → k.placement = some pl → k.repair = some r → r.reading = true →
        r.source = .card → TablesOk s → s.job? c.job = some j → (s.view j.bay).repairs ≠ [] → otherRepairs s j id p = [] →
        u = ({ noRepairs s j with wire := s.wire.erase (.trailerWriteCompletion p id) ++ repairEnd j.bay id k ++
            [Instr.verifyAppend p ⟨id, c.length, c.digest.getD 0#64, pl.start, pl.dataUnits, none⟩] } : State).modClip id
          (fun _ => setCopyOn p (fun x => { x with state := .written, repair := none }) c) → PointFollows u t j.bay) ∧
      (∀ j, s.job? c.job = some j → j.verify = .off → c.state = .landing → k.repair = none →
        (∀ x ∈ c.copies, x.port ≠ p → copySettled .off x = true) →
        ClipDecided s t j c (setCopyOn p (fun x => { x with state := .written, repair := none }) c).copies)) ∧
    ((∀ c k, s.clip? id = some c → copyOn c p = some k → k.state ≠ .writing ∧ k.state ≠ .repairing) →
      t = s.arrive (.trailerWriteCompletion p id))) ∧
  (∀ (p : Fin 4) (id : Nat) (s : State), ∃ t, exec (.writeFailureReport p id) s = .next t ∧ OnlyJobs s t ∧
    t.jm.clips.map Clip.id = s.jm.clips.map Clip.id ∧
    (∀ c k, s.clip? id = some c → c.state = .landing ∨ c.state = .reading → copyOn c p = some k →
      k.state = .writing ∨ k.state = .repairing →
      (∃ c', t.clip? id = some c' ∧
        copyOn c' p = some { k with state := .failed, cause := some .writeError, repair := none }) ∧
      (∀ b, s.bayOfClip c = some b → k.port = p →
        s.wire.erase (.writeFailureReport p id) ++ repairEnd b id k <+: t.wire) ∧
      (∀ r j, c.state = .landing → k.state = .repairing → k.repair = some r → TablesOk s → s.job? c.job = some j →
        (r.source ≠ .card ∨ (s.view j.bay).repairs = [] ∨ otherRepairs s j id p ≠ [] →
          (t.view j.bay).adm = (s.view j.bay).adm) ∧
        (r.source = .card → (s.view j.bay).repairs ≠ [] → otherRepairs s j id p = [] →
          LastRepairFails s t j c k .writeError (s.wire.erase (.writeFailureReport p id)))) ∧
      (∀ j, s.job? c.job = some j → c.state = .landing →
        k.repair = none ∨ (s.jobOf j.bay = some j ∧ OthersEnded s j id) →
        (∀ x ∈ c.copies, x.port ≠ p → copySettled j.verify x = true) →
        ClipDecided s t j c
          (setCopyOn p (fun x => { x with state := .failed, cause := some .writeError, repair := none }) c).copies)) ∧
    ((∀ c k, s.clip? id = some c → copyOn c p = some k → k.state ≠ .writing ∧ k.state ≠ .repairing) →
      t = s.arrive (.writeFailureReport p id)))

/-- VERIFY_START, VERIFY_DIGEST_REPORT and VERIFY_COMPLETION: a WRITTEN copy is VERIFYING, takes its verify digest, and
is VERIFIED when digest and trailer pass; else it is repaired with write attempts 1, from the source that is chosen, or,
when the clip is of length 0, by its trailer alone, and FAILED with 2. When the last copy of a LANDING clip that was not
settled settles so, the clip is SAFE, PARTIAL or FAILED. How the job manager sees that a sibling's port may serve is the
model's reading (log 14). That reports on an earlier read do not count for a read from the card is the model's reading
(log 51). -/
def Obligations.VerifyReportsMoveCopies : Prop :=
  (∀ (p : Fin 4) (id : Nat) (s : State), ∃ t, exec (.verifyStart p id) s = .next t ∧ OnlyJobs s t ∧
    t.jm.jobs = s.jm.jobs ∧ t.jm.views = s.jm.views ∧
    (∀ c k, s.clip? id = some c → clipTerminal c = false → copyOn c p = some k → k.state = .written →
      t.clip? id = some (setCopyOn p (fun x => { x with state := .verifying }) c)) ∧
    (∀ i, i ≠ id → t.clip? i = s.clip? i) ∧
    ((∀ c k, s.clip? id = some c → copyOn c p = some k → k.state ≠ .written) → t = s.arrive (.verifyStart p id))) ∧
  (∀ (p : Fin 4) (id : Nat) (d : Option Digest) (s : State), ∃ t, exec (.verifyDigestReport p id d) s = .next t ∧
    OnlyJobs s t ∧ t.jm.jobs = s.jm.jobs ∧ t.jm.views = s.jm.views ∧
    (∀ c k, s.clip? id = some c → clipTerminal c = false → copyOn c p = some k → k.state = .verifying →
      t.clip? id = some (setCopyOn p (fun x => { x with digest := d }) c)) ∧
    (∀ i, i ≠ id → t.clip? i = s.clip? i) ∧
    ((∀ c k, s.clip? id = some c → copyOn c p = some k → k.state ≠ .verifying) →
      t = s.arrive (.verifyDigestReport p id d))) ∧
  (∀ (p : Fin 4) (id : Nat) (passed : Bool) (s : State), ∃ t, exec (.verifyCompletion p id passed) s = .next t ∧
    OnlyJobs s t ∧ t.jm.clips.map Clip.id = s.jm.clips.map Clip.id ∧
    (∀ c k, s.clip? id = some c → clipTerminal c = false → copyOn c p = some k → k.state = .verifying → k.port = p →
      (passed = true → k.digest.isSome = true → k.digest = c.digest →
        ∃ c', t.clip? id = some c' ∧ copyOn c' p = some { k with state := .verified }) ∧
      (passed = false ∨ k.digest = none ∨ k.digest ≠ c.digest → k.attempts ≠ 1 →
        ∃ c', t.clip? id = some c' ∧
          copyOn c' p = some { k with state := .failed, cause := some .verifyMismatch, repair := none }) ∧
      (passed = false ∨ k.digest = none ∨ k.digest ≠ c.digest → k.attempts = 1 →
        ∃ c' k', t.clip? id = some c' ∧ copyOn c' p = some k' ∧ k'.attempts = 2 ∧
          (k'.state = .repairing ∨ (k'.state = .failed ∧ k'.cause = some .noRepairSource))) ∧
      (∀ j, s.job? c.job = some j → passed = false ∨ k.digest = none ∨ k.digest ≠ c.digest → k.attempts = 1 →
        c.length ≠ 0 → ∃ src, Chosen s ((s.view j.bay).sig = some j.sig) c p false src ∧
          SourceGiven t j c { k with attempts := 2 } false src ∧
          (src = .none → NoSourceDecides s t j c { k with attempts := 2 })) ∧
      (passed = false ∨ k.digest = none ∨ k.digest ≠ c.digest → k.attempts = 1 → c.length = 0 →
        (∃ c', t.clip? id = some c' ∧ copyOn c' p = some { k with
          state := .repairing, attempts := 2, repair := some ⟨.none, false, none, false⟩ }) ∧
        ∀ j d pl, s.job? c.job = some j → c.digest = some d → k.placement = some pl →
          t.wire = s.wire.erase (.verifyCompletion p id passed) ++
            [Instr.trailerAppend p id ⟨c.job, 2, 0, d, j.sig, c.damage, pl.start, c.label⟩]) ∧
      (∀ j, s.job? c.job = some j → j.verify = .full → c.state = .landing →
        (∀ x ∈ c.copies, x.port ≠ p → copySettled .full x = true) →
        (passed = true → k.digest.isSome = true → k.digest = c.digest →
          ClipDecided s t j c (setCopyOn p (fun x => { x with state := .verified }) c).copies) ∧
        (passed = false ∨ k.digest = none ∨ k.digest ≠ c.digest → k.attempts ≠ 1 →
          ClipDecided s t j c (setCopyOn p (fun x =>
            { x with state := .failed, cause := some .verifyMismatch, repair := none }) c).copies))) ∧
    ((∀ c k, s.clip? id = some c → copyOn c p = some k → k.state ≠ .verifying) →
      t = s.arrive (.verifyCompletion p id passed)))

/-- The six reports of ports: an area installed, a drive returned and room freed are admission points, held over where
an admission is in progress; where none is, each begins admission when its conditions hold: clips in their order, the
first one FAILED with SOURCE_LOST at its fourth start and the next one tried, else enquired for at the ports of its
PENDING copies, or READING when it has none. A drive lost and a port's fault end the sibling reads from it, and their
source is chosen anew; a grace expiry and a fault fail the copies there, and end the repair read of one that is
REPAIRING; where that was the last card-sourced one of its bay, it is an admission point. The LANDING clip whose last
unsettled copy settles so, or by the lack of a source, is decided. That the bay is told of no clip of length 0 is the
model's reading (log 45), and that one which fails keeps its mismatch mark, and the order of what it sends, its choice
(log 46, log 28). A room report that names an absent or terminal clip is dropped. A copy whose source's read has
completed chooses anew as well (R148; log 15). How the job manager sees that a sibling's port may serve is the model's
reading (log 14). A required copy that an earlier read left FAILED stands in the way of no admission, by the model's
reading (log 52). That reports on an earlier read do not count for a read from the card is the model's reading (log 51).
-/
def Obligations.PortReportsReachClips : Prop :=
  (∀ (p : Fin 4) (m : Instr) (s : State), m = .areaInstalledReport p ∨ m = .driveReturnReport p →
    ∃ t, exec m s = .next t ∧ OnlyJobs s t ∧ t.jm.clips.map Clip.id = s.jm.clips.map Clip.id ∧
    ((∀ b, s.bayWaitsFor p b = false) → t = s.arrive m) ∧
    (∀ b a, s.bayWaitsFor p b = true → (∀ b', b' ≠ b → s.bayWaitsFor p b' = false) → (s.view b).adm = some a →
      (t.view b).adm = some { a with heldOver := true }) ∧
    (∀ b, s.bayWaitsFor p b = true → (∀ b', b' ≠ b → s.bayWaitsFor p b' = false) → (s.view b).adm = none →
      PointTaken s t b (s.wire.erase m))) ∧
  (∀ (s : State) (p : Fin 4) (b : Fin 8), s.bayWaitsFor p b = true ↔ ∃ j, s.jobOf b = some j ∧ ∃ i ∈ j.clips, ∃ c,
    s.clip? i = some c ∧ c.state = .waiting ∧ ∃ k ∈ c.copies, k.port = p ∧ k.state = .pending) ∧
  (∀ (c : Clip), pendingPorts c = (c.copies.filter (fun k => decide (k.state = .pending))).map Copy.port) ∧
  (∀ (p : Fin 4) (id : Nat) (s : State), ∃ t, exec (.roomFreedReport p id) s = .next t ∧ OnlyJobs s t ∧
    t.jm.clips.map Clip.id = s.jm.clips.map Clip.id ∧
    ((∀ c, s.clip? id = some c → clipTerminal c = true) ∨ (∀ b, s.bayWaitsFor p b = false) →
      t = s.arrive (.roomFreedReport p id)) ∧
    (∀ c b, s.clip? id = some c → clipTerminal c = false → s.bayOfClip c ≠ some b → s.bayWaitsFor p b = true →
      (∀ b', b' ≠ b → s.bayWaitsFor p b' = false ∨ s.bayOfClip c = some b') →
      (∀ a, (s.view b).adm = some a → (t.view b).adm = some { a with heldOver := true }) ∧
      ((s.view b).adm = none → PointTaken s t b (s.wire.erase (.roomFreedReport p id)))) ∧
    (∀ c, s.clip? id = some c → clipTerminal c = false →
      (∀ b, s.bayWaitsFor p b = false ∨ s.bayOfClip c = some b) → t = s.arrive (.roomFreedReport p id))) ∧
  (∀ (p : Fin 4) (s : State), ∃ t, exec (.driveLossReport p) s = .next t ∧ OnlyJobs s t ∧
    t.jm.clips.map Clip.id = s.jm.clips.map Clip.id ∧
    ((∀ c ∈ s.jm.clips, ∀ k ∈ c.copies, readsFrom p k = false) → t = s.arrive (.driveLossReport p)) ∧
    (∀ id c k q, s.clip? id = some c → copyOn c q = some k → readsFrom p k = true →
      Instr.siblingCancel p id q ∈ t.wire ∧ Instr.repairDiscard id q ∈ t.wire) ∧
    (∀ id c k r q j, (s.port p).state ≠ .ready → s.clip? id = some c → copyOn c q = some k → k.state = .repairing →
      k.repair = some r → r.source = .port p → (∀ x ∈ c.copies, x.port ≠ q → readsFrom p x = false) →
      s.job? c.job = some j → ∃ src, Chosen s ((s.view j.bay).sig = some j.sig) c q r.cardExcluded src ∧
        SourceGiven t j c k r.cardExcluded src ∧ (src = .none → k.port = q → NoSourceDecides s t j c k))) ∧
  (∀ (p : Fin 4) (k : Copy), readsFrom p k = true ↔
    k.state = .repairing ∧ ∃ r, k.repair = some r ∧ r.source = .port p) ∧
  (∀ (p : Fin 4) (s : State), ∃ t u, exec (.graceExpiryReport p) s = .next t ∧ exec (.portFaultReport p) s = .next u ∧
    OnlyJobs s t ∧ OnlyJobs s u ∧ t.jm.clips.map Clip.id = s.jm.clips.map Clip.id ∧
    u.jm.clips.map Clip.id = s.jm.clips.map Clip.id ∧
    (∀ id c k, s.clip? id = some c → c.state = .landing ∨ c.state = .reading → copyOn c p = some k →
      k.state = .writing ∨ k.state = .verifying ∨ k.state = .repairing ∨
        (k.state = .written ∧ s.verifyOfClip c = .full) →
      (∃ c', t.clip? id = some c' ∧
        copyOn c' p = some { k with state := .failed, cause := some .portLost, repair := none }) ∧
      (∃ c', u.clip? id = some c' ∧
        copyOn c' p = some { k with state := .failed, cause := some .portFault, repair := none }) ∧
      (∀ b, s.bayOfClip c = some b → k.port = p → repairEnd b id k <:+: t.wire ∧ repairEnd b id k <:+: u.wire) ∧
      ∀ j, TablesOk s → c.state = .landing → s.job? c.job = some j → k.port = p →
        (∀ x ∈ c.copies, x.port ≠ p → copySettled j.verify x = true) →
        OthersEnded s j id ∨ ((s.view j.bay).repairs = [] ∧ ∀ i ∈ j.clips, i ≠ id → ∀ x, s.clip? i = some x →
          ∀ y ∈ x.copies, y.port ≠ p ∧ readsFrom p y = false) →
        ClipDecided s t j c (setCopyOn p (fun x =>
          { x with state := .failed, cause := some .portLost, repair := none }) c).copies ∧
        ClipDecided s u j c (setCopyOn p (fun x =>
          { x with state := .failed, cause := some .portFault, repair := none }) c).copies) ∧
    (∀ id c k r j, s.clip? id = some c → c.state = .landing → copyOn c p = some k → k.state = .repairing →
      k.repair = some r → r.source = .card → TablesOk s → s.job? c.job = some j → (s.view j.bay).repairs ≠ [] →
      otherRepairs s j id p = [] → (∀ i x, i ≠ id → s.clip? i = some x → ∀ y ∈ x.copies, y.port ≠ p) →
      (∀ x ∈ s.jm.clips, ∀ y ∈ x.copies, readsFrom p y = false) →
      LastRepairFails s t j c k .portLost (s.wire.erase (.graceExpiryReport p)) ∧
        LastRepairFails s u j c k .portFault (s.wire.erase (.portFaultReport p))) ∧
    (∀ id c k r q j, (s.port p).state ≠ .ready → s.clip? id = some c → c.state = .landing → copyOn c q = some k →
      k.state = .repairing → k.repair = some r → r.source = .port p → (∀ x ∈ c.copies, x.port ≠ q → readsFrom p x = false) →
      (∀ x ∈ c.copies, x.port = p → x.state = .verified) → s.job? c.job = some j →
      Instr.siblingCancel p id q ∈ u.wire ∧ Instr.repairDiscard id q ∈ u.wire ∧
      ∃ src, Chosen s ((s.view j.bay).sig = some j.sig) c q r.cardExcluded src ∧ SourceGiven u j c k r.cardExcluded src ∧
        (src = .none → k.port = q → NoSourceDecides s u j c k)))

/-! ## Ports: holds, placements, queues -/

/-- HOLD_ENQUIRY, HOLD_CONFIRMATION and HOLD_WITHDRAWAL: room is held where the footprint fits in C − R beside F and the
holds; a confirmation places the run at F, or gives a void hold's cause; a withdrawal of a hold that refused room is
told. PLACEMENT_CLOSE and RUN_ABANDONMENT: the open placement leaves the list; an abandonment adds its footprint to the
abandoned units, and neither moves F. -/
def Obligations.HoldsAndPlacements : Prop :=
  (∀ (p : Fin 4) (id length : Nat) (s : State), ∃ t, exec (.holdEnquiry p id length) s = .next t ∧ OnlyPort p s t ∧
    t.fresh = s.fresh ∧
    (∀ a fp, (s.port p).state = .ready → (s.port p).area = some a →
      fp = ceilDiv length (a.unit * a.blockSize) + 1 →
      (a.fill + heldUnits (s.port p).holds + fp ≤ a.length / a.unit - a.reserve →
        t.port p = { s.port p with holds := (s.port p).holds ++ [⟨id, fp, false, none⟩] } ∧
        t.wire = s.wire.erase (.holdEnquiry p id length) ++ [Instr.holdAnswer p id (.fits fp (fp - 1))]) ∧
      (a.length / a.unit - a.reserve < a.fill + heldUnits (s.port p).holds + fp →
        t.port p = { s.port p with
          holds := (s.port p).holds.map (fun h => if h.void.isNone then { h with marked := true } else h) } ∧
        t.wire = s.wire.erase (.holdEnquiry p id length) ++ [Instr.holdAnswer p id .noRoom])) ∧
    ((s.port p).state ≠ .ready → t.port p = s.port p ∧
      t.wire = s.wire.erase (.holdEnquiry p id length) ++ [Instr.holdAnswer p id .notReady])) ∧
  (∀ (p : Fin 4) (id : Nat) (s : State), ∃ t, exec (.holdConfirmation p id) s = .next t ∧ OnlyPort p s t ∧
    t.fresh = s.fresh ∧
    ((∀ h ∈ (s.port p).holds, h.clip ≠ id) → t.port p = s.port p ∧
      t.wire = s.wire.erase (.holdConfirmation p id) ++ [Instr.confirmationAnswer p id (.notReady none)]) ∧
    (∀ h x, (s.port p).holds.find? (fun h => h.clip == id) = some h → h.void = some x →
      t.port p = { s.port p with holds := (s.port p).holds.filter (fun h => h.clip != id) } ∧
      t.wire = s.wire.erase (.holdConfirmation p id) ++ [Instr.confirmationAnswer p id (.notReady (some x))]) ∧
    (∀ h a, (s.port p).holds.find? (fun h => h.clip == id) = some h → h.void = none → (s.port p).area = some a →
      t.port p = { s.port p with
        area := some { a with fill := a.fill + h.footprint, placements := a.placements + 1 }
        holds := (s.port p).holds.filter (fun h => h.clip != id)
        openPl := (s.port p).openPl ++ [⟨id, a.start + a.fill * a.unit, h.footprint, false⟩] } ∧
      t.wire = s.wire.erase (.holdConfirmation p id) ++
        [Instr.confirmationAnswer p id (.placed ⟨a.start + a.fill * a.unit, h.footprint, h.footprint - 1⟩)])) ∧
  (∀ (p : Fin 4) (id : Nat) (s : State), ∃ t, exec (.holdWithdrawal p id) s = .next t ∧ OnlyPort p s t ∧
    t.fresh = s.fresh ∧ t.port p = { s.port p with holds := (s.port p).holds.filter (fun h => h.clip != id) } ∧
    t.wire = s.wire.erase (.holdWithdrawal p id) ++
      (if ((s.port p).holds.find? (fun h => h.clip == id)).any Hold.marked then [Instr.roomFreedReport p id] else [])) ∧
  (∀ (p : Fin 4) (id : Nat) (s : State), ∃ t, exec (.placementClose p id) s = .next t ∧ OnlyPort p s t ∧
    t.fresh = s.fresh ∧ t.wire = s.wire.erase (.placementClose p id) ∧
    t.port p = { s.port p with openPl := (s.port p).openPl.filter (fun o => o.clip != id) }) ∧
  (∀ (p : Fin 4) (id : Nat) (s : State), ∃ t, exec (.runAbandonment p id) s = .next t ∧ OnlyPort p s t ∧
    t.fresh = s.fresh ∧ t.wire = s.wire.erase (.runAbandonment p id) ∧
    (∀ o, (s.port p).openPl.find? (fun o => o.clip == id) = some o →
      t.port p = { s.port p with
        area := (s.port p).area.map (fun a => { a with abandoned := a.abandoned + o.footprint })
        openPl := (s.port p).openPl.filter (fun o => o.clip != id) }) ∧
    ((∀ o ∈ (s.port p).openPl, o.clip ≠ id) → t.port p = s.port p))

/-- EXTENT_APPEND, TRAILER_APPEND, EXTENT_REMOVAL and TRAILER_REMOVAL: entries join the write queue at its tail where the
port holds the clip's open run and has not given it up; otherwise the extent is released and the trailer dropped; removals
take their entry out: the write of the entry in progress is abandoned, with no release and no report, and the write of
another entry goes on. An idle READY port starts writing an entry at its place in the run, the write side alone taking the
chunk in the sharing record; what any port does with its link once the entry is there is given. That an extent entry keeps
its run's start with it, and is started where the run is no longer open, is the model's (log 37). How the link is given
while the verify side has work is the model's reading in three points: no chunk is started while that side's claim is out,
an engine that awaits an acknowledgment is not ready, and a sibling entry's claim counts as no chunk before the grant (log
26). The trailer record is spelled out byte by byte. -/
def Obligations.WriteQueueTakesEntries : Prop :=
  (∀ (x : Port) (clip : Nat), (takesCopy x clip = true ↔
      x.area.isSome = true ∧ ∃ o, openOf x clip = some o ∧ o.givenUp = false) ∧
    ∀ o, openOf x clip = some o ↔ ∃ before after, x.openPl = before ++ o :: after ∧ o.clip = clip ∧
      ∀ y ∈ before, y.clip ≠ clip) ∧
  (∀ (p : Fin 4) (i : Nat) (c : ClaimId) (n : Nat) (s : State), ∃ t, exec (.extentAppend p i c n) s = .next t ∧
    OnlyPort p s t ∧
    (takesCopy (s.port p) c.clip = false → t.port p = s.port p ∧
      t.wire = s.wire.erase (.extentAppend p i c n) ++ [Instr.extentRelease p [(i, c)]]) ∧
    (takesCopy (s.port p) c.clip = true →
      ∃ o, openOf (s.port p) c.clip = some o ∧
      portCore (t.port p) = { portCore (s.port p) with writeQ := (s.port p).writeQ ++ [.extent i c n o.start] } ∧
      ∃ sent, t.wire = s.wire.erase (.extentAppend p i c n) ++ sent ∧
        LinkGiven t p { s.port p with writeQ := (s.port p).writeQ ++ [.extent i c n o.start] } sent) ∧
    (∀ a o, takesCopy (s.port p) c.clip = true → (s.port p).state = .ready → (s.port p).writeQ = [] →
      (s.port p).verifyQ = [] → (s.port p).write = none → (s.port p).read = none → (s.port p).engine.claim = none →
      (s.port p).area = some a → openOf (s.port p) c.clip = some o →
      (t.port p).write = some ⟨1, o.start + c.seq * (4194304 / a.blockSize),
        padTo a.blockSize (Memory.readBytes s.pool.mem (i * 4194304) n)⟩ ∧
      (t.port p).share = ⟨.write, if (s.port p).share.side = .write then (s.port p).share.taken + 1 else 1⟩)) ∧
  (∀ (p : Fin 4) (id : Nat) (f : TrailerFields) (s : State), ∃ t, exec (.trailerAppend p id f) s = .next t ∧
    OnlyPort p s t ∧
    (takesCopy (s.port p) id = false → t = s.arrive (.trailerAppend p id f)) ∧
    (takesCopy (s.port p) id = true →
      portCore (t.port p) = { portCore (s.port p) with writeQ := (s.port p).writeQ ++ [.trailer id f] } ∧
      ∃ sent, t.wire = s.wire.erase (.trailerAppend p id f) ++ sent ∧
        LinkGiven t p { s.port p with writeQ := (s.port p).writeQ ++ [.trailer id f] } sent) ∧
    (∀ a, takesCopy (s.port p) id = true → (s.port p).state = .ready → (s.port p).writeQ = [] →
      (s.port p).verifyQ = [] → (s.port p).write = none → (s.port p).read = none → (s.port p).engine.claim = none →
      (s.port p).area = some a →
      (t.port p).write = some ⟨1, f.runStart + ceilDiv f.length (a.unit * a.blockSize) * a.unit,
        padTo a.blockSize (trailerRecord p id f)⟩ ∧
      (t.port p).share = ⟨.write, if (s.port p).share.side = .write then (s.port p).share.taken + 1 else 1⟩)) ∧
  (∀ (p : Fin 4) (i : Nat) (c : ClaimId) (s : State), ∃ t, exec (.extentRemoval p i c) s = .next t ∧ OnlyPort p s t ∧
    portCore (t.port p) =
      { portCore (s.port p) with writeQ := (s.port p).writeQ.filter (fun e => !isExtent i c e) } ∧
    WriteRemoved s t p (.extentRemoval p i c) (isExtent i c)) ∧
  (∀ (p : Fin 4) (id : Nat) (s : State), ∃ t, exec (.trailerRemoval p id) s = .next t ∧ OnlyPort p s t ∧
    portCore (t.port p) = { portCore (s.port p) with writeQ := (s.port p).writeQ.filter (fun e => !isTrailer id e) } ∧
    WriteRemoved s t p (.trailerRemoval p id) (isTrailer id)) ∧
  (∀ (i : Nat) (c : ClaimId) (e : WriteEntry), isExtent i c e = true ↔ ∃ n r, e = .extent i c n r) ∧
  (∀ (id : Nat) (e : WriteEntry), isTrailer id e = true ↔ ∃ f, e = .trailer id f) ∧
  ∀ (p : Fin 4) (id : Nat) (f : TrailerFields) (m : List Byte), TrailerFits id f → m = trailerRecord p id f →
    m.length = 512 ∧ m.take 8 = [0x45#8, 0x5A#8, 0x4F#8, 0x43#8, 0x38#8, 0x34#8, 0x54#8, 0x52#8] ∧ fieldAt m 8 2 = 1 ∧
      fieldAt m 10 1 = f.job ∧ fieldAt m 11 1 = p.val ∧ fieldAt m 12 2 = id ∧ fieldAt m 14 1 = f.attempt ∧
      fieldAt m 15 1 = f.damage.length ∧ fieldAt m 16 8 = f.length ∧ fieldAt m 24 8 = f.digest.toNat ∧
      (m.drop 32).take 16 = f.sig.serial ∧ fieldAt m 48 4 = f.sig.capacity ∧
      (∀ i, i < 16 → fieldAt m (52 + 4 * i) 4 = f.damage[i]?.getD 0) ∧ fieldAt m 116 8 = f.runStart ∧
      fieldAt m 124 1 = f.label.length ∧ (m.drop 125).take 48 = f.label ++ List.replicate (48 - f.label.length) 0#8 ∧
      (m.drop 173).take 331 = List.replicate 331 0#8 ∧ fieldAt m 504 8 = (digestOf (m.take 504)).toNat

/-- VERIFY_APPEND, SIBLING_APPEND, VERIFY_REMOVAL and SIBLING_CANCEL: entries join the verify queue at its tail where the
port holds the clip's open run, a sibling entry only in READY; removals and cancels take their entries out: the read of
the entry in progress is abandoned and nothing of it reported, and the read of another entry goes on. The claim of one in
progress is counted as one whose answer is awaited no more (log 44), and at a cancel the engine gives up the extent, or
the place among the waiting requests, that it has for it, where no discard is due (log 18). On a free link an IDLE engine
starts the entry at the head: a verify entry is reported, and its first chunk read, a sibling entry claims its first
extent, which does not count as a chunk before the grant (log 26). After an append, and at the end of a write, the link is
given by the sharing record, and where both sides are ready, the engine IDLE or on its way through an entry, by the plan's
ratio; that nothing is started while a claim is out, and that an engine which awaits an acknowledgment is not ready, is
the model's reading (log 26), and so is it that a write entry is started where its run is no longer open, at the place it
keeps (log 37). -/
def Obligations.VerifyQueueTakesEntries : Prop :=
  (∀ (x : Port) (clip : Nat), (takesCopy x clip = true ↔
      x.area.isSome = true ∧ ∃ o, openOf x clip = some o ∧ o.givenUp = false) ∧
    ∀ o, openOf x clip = some o ↔ ∃ before after, x.openPl = before ++ o :: after ∧ o.clip = clip ∧
      ∀ y ∈ before, y.clip ≠ clip) ∧
  (∀ (p : Fin 4) (e : VerifyEntry) (s : State), ∃ t, exec (.verifyAppend p e) s = .next t ∧ OnlyPort p s t ∧
    (takesCopy (s.port p) e.clip = false → t = s.arrive (.verifyAppend p e)) ∧
    (takesCopy (s.port p) e.clip = true →
      portCore (t.port p) = { portCore (s.port p) with verifyQ := (s.port p).verifyQ ++ [e] } ∧
      ∃ sent, t.wire = s.wire.erase (.verifyAppend p e) ++ sent ∧
        LinkGiven t p { s.port p with verifyQ := (s.port p).verifyQ ++ [e] } sent) ∧
    (∀ a, takesCopy (s.port p) e.clip = true → (s.port p).state = .ready → (s.port p).writeQ = [] →
      (s.port p).verifyQ = [] → (s.port p).write = none → (s.port p).read = none → (s.port p).engine = Engine.reset →
      (s.port p).area = some a → e.repairPort = none →
      (t.port p).engine = { Engine.reset with state := .reading, unit := some ⟨BitVec.allOnes 64, 0⟩ } ∧
      (t.port p).share = ⟨.verify, if (s.port p).share.side = .verify then (s.port p).share.taken + 1 else 1⟩ ∧
      (e.length ≠ 0 → t.wire = s.wire.erase (.verifyAppend p e) ++ [Instr.verifyStart p e.clip] ∧
        (t.port p).read = some ⟨.data, e.runStart, ceilDiv (min 4194304 e.length) a.blockSize, false⟩) ∧
      (e.length = 0 → t.wire = s.wire.erase (.verifyAppend p e) ++
          [Instr.verifyStart p e.clip, .verifyDigestReport p e.clip (some 0#64)] ∧
        (t.port p).read = some ⟨.trailer, e.runStart + e.dataUnits * a.unit, 1, false⟩))) ∧
  (∀ (p : Fin 4) (e : VerifyEntry) (s : State), ∃ t, exec (.siblingAppend p e) s = .next t ∧ OnlyPort p s t ∧
    (takesCopy (s.port p) e.clip = false ∨ (s.port p).state ≠ .ready → t = s.arrive (.siblingAppend p e)) ∧
    (takesCopy (s.port p) e.clip = true → (s.port p).state = .ready →
      portCore (t.port p) = { portCore (s.port p) with verifyQ := (s.port p).verifyQ ++ [e] } ∧
      ∃ sent, t.wire = s.wire.erase (.siblingAppend p e) ++ sent ∧
        LinkGiven t p { s.port p with verifyQ := (s.port p).verifyQ ++ [e] } sent) ∧
    (∀ rp c, takesCopy (s.port p) e.clip = true → (s.port p).state = .ready → (s.port p).writeQ = [] →
      (s.port p).verifyQ = [] → (s.port p).write = none → (s.port p).read = none → (s.port p).engine = Engine.reset →
      e.repairPort = some rp → c = ⟨e.clip, .repair, some rp, 0⟩ →
      (t.port p).engine =
        { Engine.reset with state := .reading, unit := some ⟨BitVec.allOnes 64, 0⟩, claim := some c } ∧
      (t.port p).share = (s.port p).share ∧ (t.port p).read = none ∧
      t.wire = s.wire.erase (.siblingAppend p e) ++ [Instr.extentClaim (.engine p) c])) ∧
  (∀ (p : Fin 4) (id : Nat) (s : State), ∃ t, exec (.verifyRemoval p id) s = .next t ∧ OnlyPort p s t ∧
    portCore (t.port p) = { portCore (s.port p) with
      verifyQ := (s.port p).verifyQ.filter (fun e => !(e.clip == id && e.repairPort.isNone))
      unawaited := (t.port p).unawaited } ∧
    (t.port p).unawaited = (s.port p).unawaited ++
      (if (s.port p).engine.state ≠ .idle ∧
          (s.port p).verifyQ.head?.any (fun e => e.clip == id && e.repairPort.isNone) = true
        then (s.port p).engine.claim.toList else []) ∧
    VerifyRemoved s t p (.verifyRemoval p id) (fun e => e.clip == id && e.repairPort.isNone)) ∧
  (∀ (p : Fin 4) (id : Nat) (rp : Fin 4) (s : State), ∃ t, exec (.siblingCancel p id rp) s = .next t ∧
    (∀ runs, runs = ((s.port p).engine.state ≠ .idle ∧
        (s.port p).verifyQ.head?.any (fun e => e.clip == id && decide (e.repairPort = some rp)) = true) →
      (¬ runs → OnlyPort p s t) ∧
      (runs → Giving (s.engineGiven p ++ enginePlaces p (s.port p))
        (fun u => OnlyPort p s u ∧ s.wire.erase (.siblingCancel p id rp) <+: u.wire) t)) ∧
    portCore (t.port p) = { portCore (s.port p) with
      verifyQ := (s.port p).verifyQ.filter (fun e => !(e.clip == id && decide (e.repairPort = some rp)))
      unawaited := (t.port p).unawaited } ∧
    (t.port p).unawaited = (s.port p).unawaited ++
      (if (s.port p).engine.state ≠ .idle ∧
          (s.port p).verifyQ.head?.any (fun e => e.clip == id && decide (e.repairPort = some rp)) = true
        then (s.port p).engine.claim.toList else []) ∧
    VerifyRemoved s t p (.siblingCancel p id rp) (fun e => e.clip == id && decide (e.repairPort = some rp))) ∧
  (∀ (p : Fin 4) (s : State) (g : Given), g ∈ s.engineGiven p ↔ ∃ e rest i rp, (s.port p).verifyQ = e :: rest ∧
    (s.port p).engine.extent = some i ∧ e.repairPort = some rp ∧
    ∃ aside, g = ⟨.engine p, aside, ⟨e.clip, .repair, some rp, (s.port p).engine.chunk⟩, some i⟩ ∧
      aside = (if ∃ x, extentAt s.pool i = some x ∧ x.aside = some (.engine p) then some (.engine p) else none)) ∧
  (∀ (p : Fin 4) (x : Port) (g : Given), g ∈ enginePlaces p x ↔ ∃ e rest rp, x.verifyQ = e :: rest ∧
    e.repairPort = some rp ∧ x.engine.state = .waiting ∧
    g = ⟨.engine p, none, ⟨e.clip, .repair, some rp, x.engine.chunk⟩, none⟩) ∧
  (∀ (p : Fin 4) (s : State) (w : DriveWrite) (e : WriteEntry) (rest : List WriteEntry), (s.port p).write = some w →
    (s.port p).writeQ = e :: rest → ∃ t sent, exec (.writeCompletion ⟨p, false⟩) s = .next t ∧
      t.wire = s.wire ++ (match e with
        | .extent i c _ _ => [Instr.extentRelease p [(i, c)], .extentWriteCompletion p c.clip c.purpose c.seq]
        | .trailer id _ => [Instr.trailerWriteCompletion p id]) ++ sent ∧
      LinkGiven t p { s.port p with write := none, writeQ := rest } sent)

/-- SIBLING_OFFER, WAIT_REMOVED of an engine's request and SIBLING_COMPLETION_ACK: a waiting engine reads into the offered
extent; one told that its read is abandoned drops the entry; an acknowledged read reports its last extent, unless it gave
no value, and its entry ends. The model's choices: a word of removal and an acknowledgment which are not awaited are
dropped (log 31); the link is given as log 26 reads it, an engine that awaits an acknowledgment not being ready, and a
write entry is started where its run is no longer open, at the place it keeps (log 37); the extent of an offer for another
entry is given back where no discard is due (log 18); an engine whose claim is still out takes the offer that has
overtaken its answer "wait" (log 35), and that answer is then awaited no more (log 44); the extent of a read that gave no
value is given back at its acknowledgment where no discard is due (log 18). -/
def Obligations.SiblingReadsGoOn : Prop :=
  (∀ (x : Port) (c : ClaimId), headClaims x c = true ↔ ∃ e rest rp, x.verifyQ = e :: rest ∧ e.repairPort = some rp ∧
    c = ⟨e.clip, .repair, some rp, x.engine.chunk⟩) ∧
  (∀ length k : Nat, extentLength length k = min 4194304 (length - k * 4194304)) ∧
  (∀ (p : Fin 4) (i : Nat) (c : ClaimId) (s : State), ∃ t, exec (.siblingOffer p i c) s = .next t ∧
    (headClaims (s.port p) c = true → (s.port p).engine.state = .waiting ∨ (s.port p).engine.claim = some c →
      OnlyPort p s t ∧ portCore (t.port p) = { portCore (s.port p) with
        unawaited := (s.port p).unawaited ++ (s.port p).engine.claim.toList } ∧
      (t.port p).engine = { (s.port p).engine with state := .reading, claim := none, extent := some i } ∧
      ∃ sent, t.wire = s.wire.erase (.siblingOffer p i c) ++ sent ∧ LinkGiven t p { s.port p with
        engine := { (s.port p).engine with state := .reading, claim := none, extent := some i }
        unawaited := (s.port p).unawaited ++ (s.port p).engine.claim.toList } sent) ∧
    (headClaims (s.port p) c = false ∨ ((s.port p).engine.state ≠ .waiting ∧ (s.port p).engine.claim ≠ some c) →
      GivenBack (s.arrive (.siblingOffer p i c)) t (some (.engine p)) (.engine p) c (some i))) ∧
  (∀ (p : Fin 4) (c : ClaimId) (s : State), ∃ t, exec (.waitRemoved (.engine p) c) s = .next t ∧ OnlyPort p s t ∧
    (∀ e rest, (s.port p).engine.state = .waiting → (s.port p).verifyQ = e :: rest → e.clip = c.clip →
      e.repairPort = c.repairPort →
      portCore (t.port p) = { portCore (s.port p) with
        verifyQ := rest, unawaited := (s.port p).unawaited ++ (s.port p).engine.claim.toList }) ∧
    ((s.port p).engine.state ≠ .waiting → t = s.arrive (.waitRemoved (.engine p) c))) ∧
  (∀ (p : Fin 4) (id : Nat) (rp : Fin 4) (s : State), ∃ t, exec (.siblingCompletionAck p id rp) s = .next t ∧
    ((s.port p).engine.noValue = false → OnlyPort p s t) ∧
    (∀ e rest, (s.port p).verifyQ = e :: rest → (s.port p).engine.ack = true → e.clip = id → e.repairPort = some rp →
      portCore (t.port p) = { portCore (s.port p) with
        verifyQ := rest, unawaited := (s.port p).unawaited ++ (s.port p).engine.claim.toList } ∧
      (∀ i, (s.port p).engine.extent = some i → (s.port p).engine.noValue = false →
        .extentComplete i ⟨id, .repair, some rp, (s.port p).engine.chunk⟩
          (extentLength e.length (s.port p).engine.chunk) ∈ t.wire) ∧
      ((s.port p).engine.noValue = true → Giving (s.engineGiven p)
        (fun u => OnlyPort p s u ∧ s.wire.erase (.siblingCompletionAck p id rp) <+: u.wire) t)) ∧
    ((s.port p).engine.ack = false ∨
        (∀ e rest, (s.port p).verifyQ = e :: rest → e.clip ≠ id ∨ e.repairPort ≠ some rp) →
      t = s.arrive (.siblingCompletionAck p id rp)))

/-! ## Ports: drives -/

/-- DRIVE_CONNECTED, DRIVE_IDENTIFIED and IDENT_TIMER_EXPIRY: a DETACHED or LOST port identifies the drive it finds, with
the timer at 5 seconds; a valid identity attaches the drive, or returns the lost one; another drive, and no valid
identity, set their flags. A drive that returns finds its queues and its tally, and the two engines go on with the entries
at their heads. In that the model reads the spec so that a sibling entry at the head claims its extent first, the claim
holding the link and counting as no chunk, and that an engine which awaits an acknowledgment is not ready (log 26), and
that a write entry is started where its run is no longer open, at the place it keeps (log 37). The notice of return
carries what was left on the grace timer, which is a free value (log 3). An answer or an expiry of an identification that
has ended is dropped, whatever the port does now (how it is told from the other is the model's, log 24). A serial of
another length counts as no valid identity (log 23); an identification in progress is not started again (log 29). -/
def Obligations.DrivesAreIdentified : Prop :=
  (∀ (p : Fin 4) (answer : Option DriveId) (s : State), exec (.driveIdentified ⟨p, true⟩ answer) s = .next s ∧
    exec (.identTimerExpiry ⟨p, true⟩) s = .next s) ∧
  (∀ (p : Fin 4) (s : State), ∃ t, exec (.driveConnected p) s = .next t ∧ OnlyPort p s t ∧ t.wire = s.wire ∧
    t.port p = { s.port p with
      drivePresent := true
      ident := if ((s.port p).state = .detached ∨ (s.port p).state = .lost) ∧ (s.port p).power = .on ∧
          (s.port p).ident = none ∧ (s.port p).unidentified = false ∧ (s.port p).otherDrive = false then some 5
        else (s.port p).ident }) ∧
  (∀ (p : Fin 4) (answer : Option DriveId) (s : State), ∃ t, exec (.driveIdentified ⟨p, false⟩ answer) s = .next t ∧
    OnlyPort p s t ∧ ((s.port p).ident = none → t = s) ∧
    (∀ d, (s.port p).ident.isSome = true → answer = some d → d.serial.length = 20 →
      d.blockSize = 512 ∨ d.blockSize = 4096 → 1 ≤ d.capacity → d.capacity ≤ 281474976710655 →
      ((s.port p).state = .detached →
        t.port p = { s.port p with state := .attached, identity := some d, ident := none } ∧
        t.wire = s.wire ++ [Instr.noticeQueued (.port p (.attach (some d)) .attached)]) ∧
      ((s.port p).state = .lost → (s.port p).identity = some d → (t.port p).state = .ready ∧ (t.port p).ident = none ∧
        (t.port p).graceTimer = none ∧ (t.port p).area = (s.port p).area ∧ (t.port p).holds = (s.port p).holds ∧
        (t.port p).openPl = (s.port p).openPl ∧ (t.port p).writeQ = (s.port p).writeQ ∧ Instr.driveReturnReport p ∈ t.wire ∧
        (t.port p).verifyQ = (s.port p).verifyQ ∧ (t.port p).tally = (s.port p).tally ∧
        (∀ g, (s.port p).graceTimer = some g →
          ∃ left, left ≤ g ∧ Instr.noticeQueued (.port p (.returned left) .ready) ∈ t.wire) ∧
        ∃ left sent, left ≤ (s.port p).graceTimer.getD 0 ∧
          t.wire = s.wire ++ [Instr.noticeQueued (.port p (.returned left) .ready), .driveReturnReport p] ++ sent ∧
          LinkGiven t p { s.port p with state := .ready, ident := none, graceTimer := none } sent) ∧
      ((s.port p).state = .lost → (s.port p).identity ≠ some d →
        t = s.setPort p { s.port p with ident := none, otherDrive := true })) ∧
    ((s.port p).ident.isSome = true → (∀ d, answer = some d → d.serial.length ≠ 20 ∨
        (d.blockSize ≠ 512 ∧ d.blockSize ≠ 4096) ∨ d.capacity < 1 ∨ 281474976710655 < d.capacity) →
      exec (.driveIdentified ⟨p, false⟩ answer) s = exec (.identTimerExpiry ⟨p, false⟩) s)) ∧
  (∀ (p : Fin 4) (s : State), ∃ t, exec (.identTimerExpiry ⟨p, false⟩) s = .next t ∧ OnlyPort p s t ∧
    ((s.port p).ident = none → t = s) ∧
    ((s.port p).ident.isSome = true → (s.port p).state = .detached →
      t.port p = { s.port p with ident := none, unidentified := true } ∧
      t.wire = s.wire ++ [Instr.noticeQueued (.port p (.attach none) .detached)]) ∧
    ((s.port p).ident.isSome = true → (s.port p).state = .lost →
      t = s.setPort p { s.port p with ident := none, otherDrive := true }))

/-- DRIVE_LOSS and GRACE_TIMER_EXPIRY: a READY port is LOST with its area, queues (that its sibling entries stay in them
is the model's reading, log 27) and timer G; ATTACHED and FAULTED ports are DETACHED; a drive that still answers is then
identified. In DETACHED an identification in progress is abandoned, and begins anew where the drive still answers (log
29). A LOST port forgets that it has ignored another drive, and identifies the drive that still answers only when an
identification was in progress (log 29); when the grace of a LOST port ends, its area goes, its holds are void with
PORT_LOST, its queues are emptied and their extents released, and it is DETACHED, with the notice of grace expiry, and
identifies a drive that is there. A claim that the verify engine has out is counted as one whose answer is awaited no more
(log 44), and at the loss the engine gives up its extent where no discard is due (log 18). -/
def Obligations.LostDrivesHaveGrace : Prop :=
  (∀ (p : Fin 4) (connected : Bool) (s : State), ∃ t, exec (.driveLoss p connected) s = .next t ∧
    ((s.port p).state ≠ .ready → OnlyPort p s t) ∧
    ((s.port p).state = .ready → Giving (s.engineGiven p) (fun u => OnlyPort p s u ∧ u.wire = s.wire ++
      [Instr.driveLossReport p, .noticeQueued (.port p (.lost (s.port p).grace) .lost)]) t) ∧
    ((s.port p).state = .ready ∨ (s.port p).state = .attached ∨ (s.port p).state = .faulted →
      (t.port p).ident = (if connected = true ∧ (s.port p).power = .on ∧ (s.port p).ident = none ∧
          (s.port p).unidentified = false ∧ (s.port p).otherDrive = false then some 5 else (s.port p).ident) ∧
        (t.port p).unidentified = (connected && (s.port p).unidentified) ∧
        (t.port p).otherDrive = (s.port p).otherDrive) ∧
    t.fresh = s.fresh ∧ (t.port p).drivePresent = connected ∧ (t.port p).area = (s.port p).area ∧
    (t.port p).holds = (s.port p).holds ∧ (t.port p).openPl = (s.port p).openPl ∧
    (t.port p).writeQ = (s.port p).writeQ ∧ (t.port p).verifyQ = (s.port p).verifyQ ∧
    (t.port p).tally = (s.port p).tally ∧ (t.port p).grace = (s.port p).grace ∧ (t.port p).power = (s.port p).power ∧
    ((s.port p).state = .ready → (t.port p).state = .lost ∧ (t.port p).graceTimer = some (s.port p).grace ∧
      (t.port p).identity = (s.port p).identity ∧ (t.port p).write = none ∧ (t.port p).read = none ∧
      (t.port p).engine = Engine.reset ∧
      (t.port p).unawaited = (s.port p).unawaited ++ (s.port p).engine.claim.toList ∧ Instr.driveLossReport p ∈ t.wire ∧
      Instr.noticeQueued (.port p (.lost (s.port p).grace) .lost) ∈ t.wire) ∧
    ((s.port p).state = .attached ∨ (s.port p).state = .faulted → (t.port p).state = .detached ∧
      (t.port p).identity = none ∧ t.wire = s.wire ++ [Instr.noticeQueued (.port p .detach .detached)]) ∧
    ((s.port p).state = .lost → (t.port p).state = .lost ∧ (t.port p).identity = (s.port p).identity ∧
      (t.port p).graceTimer = (s.port p).graceTimer ∧ t.wire = s.wire ∧ (t.port p).otherDrive = false ∧
      ((s.port p).ident = none ∨ connected = false → (t.port p).ident = none) ∧
      ((s.port p).ident.isSome = true → connected = true → (s.port p).power = .on → (s.port p).unidentified = false →
        (t.port p).ident = some 5)) ∧
    ((s.port p).state = .detached → t.port p = { s.port p with
      drivePresent := connected
      unidentified := connected && (s.port p).unidentified
      ident := if connected = true ∧ (s.port p).power = .on ∧ (s.port p).unidentified = false ∧
        (s.port p).otherDrive = false then some 5 else none }) ∧
    ((s.port p).state = .detached ∨ (s.port p).state = .off → (t.port p).state = (s.port p).state ∧
      t.wire = s.wire)) ∧
  (∀ (p : Fin 4) (s : State), ∃ t, exec (.graceTimerExpiry p) s = .next t ∧ OnlyPort p s t ∧ t.fresh = s.fresh ∧
    ((s.port p).state ≠ .lost ∨ (s.port p).graceTimer = none → t = s) ∧
    ((s.port p).state = .lost → (s.port p).graceTimer.isSome = true → (t.port p).state = .detached ∧
      (t.port p).area = none ∧ (t.port p).identity = none ∧ (t.port p).graceTimer = none ∧ (t.port p).openPl = [] ∧
      (t.port p).writeQ = [] ∧ (t.port p).verifyQ = [] ∧ (t.port p).write = none ∧
      (t.port p).engine = Engine.reset ∧
      (t.port p).unawaited = (s.port p).unawaited ++ (s.port p).engine.claim.toList ∧
      (t.port p).holds = (s.port p).holds.map (fun h => { h with void := some .portLost }) ∧
      (t.port p).tally = (s.port p).tally ∧ (t.port p).grace = (s.port p).grace ∧
      (t.port p).power = (s.port p).power ∧ (t.port p).drivePresent = (s.port p).drivePresent ∧
      Instr.graceExpiryReport p ∈ t.wire ∧ (t.port p).otherDrive = false ∧
      (t.port p).unidentified = (s.port p).unidentified ∧
      (t.port p).ident = (if (s.port p).power = .on ∧ (s.port p).drivePresent = true ∧ (s.port p).unidentified = false
        then some 5 else none) ∧
      (∀ a, (s.port p).area = some a → Instr.noticeQueued (.port p
        (.graceExpiry ⟨a.fill, a.abandoned, a.placements⟩) .detached) ∈ t.wire) ∧
      (∀ i c n r, .extent i c n r ∈ (s.port p).writeQ → Instr.extentRelease p (entryExtents (s.port p).writeQ) ∈ t.wire ∧
        (i, c) ∈ entryExtents (s.port p).writeQ)))

/-- WRITE_COMPLETION and WRITE_FAILURE: a late answer, one to an abandoned write, is dropped (how it is told from the
other is the model's, log 24); a write that succeeds ends its entry, releases the extent and is reported; the first
failure tries again; the second gives the copy up, takes its entries out, releases their extents, counts in the tally, and
is reported; the link is then given to the next chunk, or the third such loss faults the port, which releases every extent
left in its queue and tells of the fault with what the area held, in that order; that the verify engine gives up its
extent then, where no discard is due, is the model's reading (log 18). At the end of a write with no verify work the next
entry is started. Of the next chunk, that a claim which is out holds the link and an engine that awaits an acknowledgment
is not ready (log 26), and that a write entry is started where its run is no longer open, at the place it keeps (log 37),
are the model's readings. -/
def Obligations.WritesEndOrFail : Prop :=
  (∀ (p : Fin 4) (s : State), exec (.writeCompletion ⟨p, true⟩) s = .next s ∧
    exec (.writeFailure ⟨p, true⟩) s = .next s) ∧
  (∀ (p : Fin 4) (s : State), ∃ t, exec (.writeCompletion ⟨p, false⟩) s = .next t ∧ OnlyPort p s t ∧ t.fresh = s.fresh ∧
    ((s.port p).write = none → t = s) ∧
    (∀ w e rest, (s.port p).write = some w → (s.port p).writeQ = e :: rest →
      portCore (t.port p) = { portCore (s.port p) with writeQ := rest } ∧
      (∀ i c n r, e = .extent i c n r →
        s.wire ++ [Instr.extentRelease p [(i, c)], .extentWriteCompletion p c.clip c.purpose c.seq] <+: t.wire) ∧
      (∀ id f, e = .trailer id f → s.wire ++ [Instr.trailerWriteCompletion p id] <+: t.wire) ∧
      (∀ f more a, rest = f :: more → (s.port p).state = .ready → (s.port p).area = some a → (s.port p).verifyQ = [] →
        (s.port p).read = none → (s.port p).engine.claim = none →
        ∃ x, (t.port p).write = some x ∧ WriteOf s.pool.mem p a x f))) ∧
  (∀ (p : Fin 4) (s : State), ∃ t, exec (.writeFailure ⟨p, false⟩) s = .next t ∧ t.fresh = s.fresh ∧
    ((s.port p).write = none ∨ (s.port p).writeQ = [] → t = s) ∧
    (∀ w e rest, (s.port p).write = some w → (s.port p).writeQ = e :: rest →
      (w.tries ≤ 1 → t = s.setPort p { s.port p with write := some { w with tries := 2 } }) ∧
      (2 ≤ w.tries → (t.port p).tally = (s.port p).tally + 1 ∧ Instr.writeFailureReport p (entryClip e) ∈ t.wire ∧
        (∀ i c n r, .extent i c n r ∈ (s.port p).writeQ → c.clip = entryClip e →
          ∃ xs, Instr.extentRelease p xs ∈ t.wire ∧ (i, c) ∈ xs) ∧
        ((s.port p).tally + 1 < 3 → OnlyPort p s t ∧ portCore (t.port p) = portCore (withoutCopy (s.port p) (entryClip e)) ∧
          ∃ sent,
            t.wire = s.wire ++ releaseOf p (clipEntries (s.port p) (entryClip e)) ++
              .writeFailureReport p (entryClip e) :: sent ∧
            LinkGiven t p (withoutCopy (s.port p) (entryClip e)) sent) ∧
        (3 ≤ (s.port p).tally + 1 → (t.port p).state = .faulted ∧ (t.port p).identity = (s.port p).identity ∧
          (t.port p).grace = (s.port p).grace ∧ (t.port p).area = none ∧ (t.port p).openPl = [] ∧
          (t.port p).writeQ = [] ∧ (t.port p).verifyQ = [] ∧ (t.port p).write = none ∧
          (t.port p).holds = (s.port p).holds.map (fun h => { h with void := some .portFault }) ∧
          Instr.portFaultReport p ∈ t.wire ∧
          (∀ i c n r, .extent i c n r ∈ (s.port p).writeQ → ∃ xs, Instr.extentRelease p xs ∈ t.wire ∧ (i, c) ∈ xs) ∧
          Giving (s.engineGiven p) (fun u => OnlyPort p s u ∧ s.wire <+: u.wire ∧ Instr.portFaultReport p ∈ u.wire ∧
            ∀ a, (s.port p).area = some a →
            u.wire = s.wire ++ releaseOf p (clipEntries (s.port p) (entryClip e)) ++
              [.writeFailureReport p (entryClip e), .portFaultReport p] ++
              releaseOf p (withoutCopy (s.port p) (entryClip e)).writeQ ++
              [.noticeQueued (.port p (.fault ⟨a.fill, a.abandoned, a.placements⟩) .faulted)]) t))))

/-- VERIFY_CHUNK_READ, TRAILER_READ and SIBLING_CHUNK_READ: a read answered with an error is made once more and then
counts as unreadable; a chunk of data is fed to the digest unit, the last one reports the digest; the trailer's five
checks, which are spelled out, are reported and end the entry; a sibling chunk is placed in its extent and fed to the
unit. After each the link is given: to the next chunk at its place, to the trailer after the last one, to the claim of the
extent that a sibling read comes to next, or to the write side in its turn; that such a claim holds the link and counts as
no chunk before the grant, and that an engine which awaits an acknowledgment is not ready, is the model's reading (log
26), and so is it that a write entry is started where its run is no longer open, at the place it keeps (log 37). An answer
of another length than the blocks asked for counts as an error (log 23); that an answer with no read in progress is
dropped is the model's reading (log 24), and so is it that the digest unit takes a chunk in the step of its read (log 25),
and that a claim which is out at the end of a trailer's read is counted as one whose answer is awaited no more (log 44).
-/
def Obligations.VerifyReadsAreDigested : Prop :=
  (∀ length k : Nat, extentCount length = (length + 4194303) / 4194304 ∧
    extentLength length k = min 4194304 (length - k * 4194304)) ∧
  (∀ (d : DigestState) (bytes : List Byte), digestFeed d bytes = ⟨bytes.foldl digestByte d.reg, d.count + bytes.length⟩) ∧
  (∀ (e : VerifyEntry) (block : List Byte), trailerPasses e block = true ↔
    block.take 8 = [0x45#8, 0x5A#8, 0x4F#8, 0x43#8, 0x38#8, 0x34#8, 0x54#8, 0x52#8] ∧
    fieldAt (block.take 512) 12 2 = e.clip ∧ fieldAt (block.take 512) 16 8 = e.length ∧
    fieldAt (block.take 512) 24 8 = e.digest.toNat ∧
    fieldAt (block.take 512) 504 8 =
      ((block.take 504).foldl digestByte (BitVec.allOnes 64) ^^^ BitVec.allOnes 64).toNat) ∧
  (∀ (p : Fin 4) (answer : Option (List Byte)) (s : State), (s.port p).read = none →
    exec (.verifyChunkRead p answer) s = .next s ∧ exec (.trailerRead p answer) s = .next s ∧
    exec (.siblingChunkRead p answer) s = .next s) ∧
  (∀ (p : Fin 4) (answer : Option (List Byte)) (s : State) (r : DriveRead) (e : VerifyEntry) (rest : List VerifyEntry)
    (a : Area), (s.port p).read = some r → (s.port p).verifyQ = e :: rest → (s.port p).area = some a →
    r.kind = .data → (s.port p).engine.state = .reading → ∃ t, exec (.verifyChunkRead p answer) s = .next t ∧ OnlyPort p s t ∧
    portCore (t.port p) = portCore (s.port p) ∧
    (∀ data d u, answer = some data → data.length = r.count * a.blockSize → (s.port p).engine.unit = some d →
      u = digestFeed d (data.take (extentLength e.length (s.port p).engine.chunk)) →
      (t.port p).engine.unit = some u ∧ (t.port p).engine.chunk = (s.port p).engine.chunk + 1 ∧
      ∃ sent, t.wire = s.wire ++ (if extentCount e.length ≤ (s.port p).engine.chunk + 1 then
          [Instr.verifyDigestReport p e.clip (some (u.reg ^^^ BitVec.allOnes 64))] else []) ++ sent ∧
        LinkGiven t p { s.port p with
          read := none
          engine := { (s.port p).engine with unit := some u, chunk := (s.port p).engine.chunk + 1 } } sent) ∧
    ((∀ data, answer = some data → data.length ≠ r.count * a.blockSize) →
      (r.retried = false → t = s.setPort p { s.port p with read := some { r with retried := true } }) ∧
      (r.retried = true → (t.port p).engine.unreadable = true ∧
        ∃ sent, t.wire = s.wire ++ [Instr.verifyDigestReport p e.clip none] ++ sent ∧
          LinkGiven t p { s.port p with
            read := none, engine := { (s.port p).engine with unreadable := true } } sent))) ∧
  (∀ (p : Fin 4) (answer : Option (List Byte)) (s : State) (r : DriveRead) (e : VerifyEntry) (rest : List VerifyEntry)
    (a : Area), (s.port p).read = some r → (s.port p).verifyQ = e :: rest → (s.port p).area = some a →
    r.kind = .trailer → ∃ t, exec (.trailerRead p answer) s = .next t ∧ OnlyPort p s t ∧
    (∀ data, answer = some data → data.length = r.count * a.blockSize →
      portCore (t.port p) = { portCore (s.port p) with
        verifyQ := rest, unawaited := (s.port p).unawaited ++ (s.port p).engine.claim.toList } ∧
      ∃ sent, t.wire = s.wire ++ [Instr.verifyCompletion p e.clip (trailerPasses e data)] ++ sent ∧
        LinkGiven t p { s.port p with
          verifyQ := rest, read := none, engine := Engine.reset
          unawaited := (s.port p).unawaited ++ (s.port p).engine.claim.toList } sent) ∧
    ((∀ data, answer = some data → data.length ≠ r.count * a.blockSize) →
      (r.retried = false → t = s.setPort p { s.port p with read := some { r with retried := true } }) ∧
      (r.retried = true → portCore (t.port p) = { portCore (s.port p) with
          verifyQ := rest, unawaited := (s.port p).unawaited ++ (s.port p).engine.claim.toList } ∧
        ∃ sent, t.wire = s.wire ++ [Instr.verifyCompletion p e.clip false] ++ sent ∧
          LinkGiven t p { s.port p with
            verifyQ := rest, read := none, engine := Engine.reset
            unawaited := (s.port p).unawaited ++ (s.port p).engine.claim.toList } sent))) ∧
  (∀ (p : Fin 4) (answer : Option (List Byte)) (s : State) (r : DriveRead) (e : VerifyEntry) (rest : List VerifyEntry)
    (a : Area) (rp : Fin 4) (i : Nat), (s.port p).read = some r → (s.port p).verifyQ = e :: rest →
    (s.port p).area = some a → r.kind = .sibling → e.repairPort = some rp → (s.port p).engine.extent = some i →
    (s.port p).engine.state = .reading → ∃ t, exec (.siblingChunkRead p answer) s = .next t ∧ t.bays = s.bays ∧
    t.arb = s.arb ∧ t.jm = s.jm ∧
    t.lki = s.lki ∧ t.pending = s.pending ∧ (∀ q, q ≠ p → t.port q = s.port q) ∧
    portCore (t.port p) = portCore (s.port p) ∧
    (∀ data d u bytes claim, answer = some data → data.length = r.count * a.blockSize →
      (s.port p).engine.unit = some d → bytes = data.take (extentLength e.length (s.port p).engine.chunk) →
      u = digestFeed d bytes → claim = ⟨e.clip, .repair, some rp, (s.port p).engine.chunk⟩ →
      t.pool = poolPlace s.pool i claim 0 bytes ∧ (t.port p).engine.unit = some u ∧
      (extentCount e.length ≤ (s.port p).engine.chunk + 1 → (t.port p).engine.ack = true ∧
        ∃ sent, t.wire =
            s.wire ++ [Instr.siblingReadCompletion p e.clip rp (some (u.reg ^^^ BitVec.allOnes 64))] ++ sent ∧
          LinkGiven t p { s.port p with
            read := none, engine := { (s.port p).engine with unit := some u, ack := true } } sent) ∧
      ((s.port p).engine.chunk + 1 < extentCount e.length →
        ∃ sent, t.wire = s.wire ++ [Instr.extentComplete i claim bytes.length] ++ sent ∧
          LinkGiven t p { s.port p with
            read := none
            engine := { (s.port p).engine with
              unit := some u, extent := none, chunk := (s.port p).engine.chunk + 1 } } sent)) ∧
    ((∀ data, answer = some data → data.length ≠ r.count * a.blockSize) → t.pool = s.pool ∧
      (r.retried = false → t = s.setPort p { s.port p with read := some { r with retried := true } }) ∧
      (r.retried = true → (t.port p).engine.ack = true ∧ (t.port p).engine.noValue = true ∧
        ∃ sent, t.wire = s.wire ++ [Instr.siblingReadCompletion p e.clip rp none] ++ sent ∧
          LinkGiven t p { s.port p with
            read := none, engine := { (s.port p).engine with ack := true, noValue := true } } sent)))

/-! ## Invariants -/

/-- The state right after reset satisfies every invariant below. The reset state is the model's, with nothing seated or
connected (log 4, log 34). -/
def Obligations.ResetSatisfiesInvariants : Prop :=
  BaysOk State.reset ∧ PoolOk State.reset ∧ PortsOk State.reset ∧ LinkOk State.reset ∧ TablesOk State.reset

/-- Every step keeps every bay's record in agreement with itself: the lamp as the table says, OFF without power, the card
and the monitor with MOUNTED, the probe timer with PROBING, no lock and no CLEAR without a job, the health settings in
range; and the lanes with the plan: only lanes of the plan in force are held, none while a PLAN is being asked, and a bay
holds at most one. -/
def Obligations.StepsKeepBays : Prop := ∀ s t : State, BaysOk s → step s = .next t → BaysOk t

/-- Every step keeps the extents in the order of their indexes, every clip within the window, and the buffer memory in its
canonical form. -/
def Obligations.StepsKeepPool : Prop := ∀ s t : State, PoolOk s → step s = .next t → PoolOk t

/-- Every step keeps every port's record in agreement with itself: the area, the identity and the drive link with the port's
state, F and the holds within C − R, the grace setting and the tally in range. That the verify side holds the link while its
claim is out is the model's reading (log 26). -/
def Obligations.StepsKeepPorts : Prop := ∀ s t : State, PortsOk s → step s = .next t → PortsOk t

/-- Every step keeps the limits of the link interface: 128 notices, four card reads, nothing waiting while the link is
DOWN. The numbers of the card reads are the model's own (log 32). -/
def Obligations.StepsKeepLink : Prop := ∀ s t : State, LinkOk s → step s = .next t → LinkOk t

/-- Every step keeps the job table and the clip table: one job for a number and for a bay, at most 1024 clips, distinct ids in
1 to 65535, every clip once in the list of its job and in no other, a port once at most in a copy set. -/
def Obligations.StepsKeepTables : Prop := ∀ s t : State, TablesOk s → step s = .next t → TablesOk t
end

