-- ==== Sys2Proof/Laws/Memory.lean ====
section
/-! SUPPORT. The pool's buffer memory: what a read gives after a write, and that every operation keeps the canonical form. -/

namespace Sys2Proof.Machine

/-- Every address of a memory is above `a`. -/
theorem Memory.lt_of_wf_cons {b : Nat} {w : Byte} {t : Memory} (h : Memory.wf ((b, w) :: t)) : ∀ c ∈ t, b < c.1 := by
  intro c hc
  have : (b :: t.map Prod.fst).Pairwise (· < ·) := h.1
  exact (List.pairwise_cons.1 this).1 c.1 (List.mem_map_of_mem hc)

theorem Memory.wf_tail {b : Nat} {w : Byte} {t : Memory} (h : Memory.wf ((b, w) :: t)) : Memory.wf t :=
  ⟨(List.pairwise_cons.1 (show (b :: t.map Prod.fst).Pairwise (· < ·) from h.1)).2, fun c hc => h.2 c (List.mem_cons_of_mem _ hc)⟩

theorem Memory.wf_cons {b : Nat} {w : Byte} {t : Memory} (hb : ∀ c ∈ t, b < c.1) (hw : w ≠ Config.unwritten)
    (ht : Memory.wf t) : Memory.wf ((b, w) :: t) := by
  refine ⟨?_, ?_⟩
  · simp only [List.map_cons, List.pairwise_cons, List.mem_map]
    exact ⟨fun x ⟨c, hc, e⟩ => e ▸ hb c hc, ht.1⟩
  · intro c hc
    rcases List.mem_cons.1 hc with rfl | hc
    · exact hw
    · exact ht.2 c hc

theorem Memory.wf_nil : Memory.wf [] := ⟨by simp, by simp⟩

/-- A byte at an address below every listed one is unwritten. -/
theorem Memory.read_of_lt {m : Memory} {a : Nat} (h : ∀ c ∈ m, a < c.1) : Memory.read m a = Config.unwritten := by
  induction m with
  | nil => rfl
  | cons c t ih =>
    obtain ⟨b, w⟩ := c
    have hb : a < b := h (b, w) (by simp)
    rw [Memory.read, if_neg (by omega)]
    exact ih (fun c hc => h c (List.mem_cons_of_mem _ hc))

/-- The addresses of a memory after a write are the old ones and perhaps the written one. -/
theorem Memory.mem_write {m : Memory} {a : Nat} {v : Byte} {c : Host.Cell} (h : c ∈ Memory.write m a v) :
    c ∈ m ∨ c = (a, v) := by
  induction m with
  | nil =>
    by_cases hv : v = Config.unwritten <;> simp_all [Memory.write]
  | cons d t ih =>
    obtain ⟨b, w⟩ := d
    simp only [Memory.write] at h
    split_ifs at h <;> simp_all <;> tauto

/-- A write keeps the canonical form. -/
theorem Memory.write_wf {m : Memory} (h : Memory.wf m) (a : Nat) (v : Byte) : Memory.wf (Memory.write m a v) := by
  induction m with
  | nil =>
    by_cases hv : v = Config.unwritten
    · simpa only [Memory.write, if_pos hv] using Memory.wf_nil
    · simpa only [Memory.write, if_neg hv] using Memory.wf_cons (t := []) (by simp) hv Memory.wf_nil
  | cons d t ih =>
    obtain ⟨b, w⟩ := d
    have ht := Memory.wf_tail h
    have hb := Memory.lt_of_wf_cons h
    have hw : w ≠ Config.unwritten := h.2 (b, w) (by simp)
    simp only [Memory.write]
    split_ifs with h1 h2 h3 h4
    · exact h
    · exact Memory.wf_cons (by
        intro c hc
        rcases List.mem_cons.1 hc with rfl | hc
        · exact h1
        · exact lt_trans h1 (hb c hc)) h2 h
    · exact ht
    · exact Memory.wf_cons (h3 ▸ hb) h4 ht
    · refine Memory.wf_cons ?_ hw (ih ht)
      intro c hc
      rcases Memory.mem_write hc with hc | rfl
      · exact hb c hc
      · simp only; omega

/-- Writing bytes upward keeps the canonical form. -/
theorem Memory.writeBytes_wf {m : Memory} (h : Memory.wf m) (a : Nat) (bs : List Byte) :
    Memory.wf (Memory.writeBytes m a bs) := by
  induction bs generalizing m a with
  | nil => exact h
  | cons v t ih => exact ih (Memory.write_wf h a v) (a + 1)

/-- A byte reads as written. -/
theorem Memory.read_write_same {m : Memory} (h : Memory.wf m) (a : Nat) (v : Byte) :
    Memory.read (Memory.write m a v) a = v := by
  induction m with
  | nil => by_cases hv : v = Config.unwritten <;> simp [Memory.write, Memory.read, hv]
  | cons d t ih =>
    obtain ⟨b, w⟩ := d
    have ht := Memory.wf_tail h
    have hb := Memory.lt_of_wf_cons h
    simp only [Memory.write]
    split_ifs with h1 h2 h3 h4
    · rw [h2]
      exact Memory.read_of_lt (by
        intro c hc
        rcases List.mem_cons.1 hc with rfl | hc
        · exact h1
        · exact lt_trans h1 (hb c hc))
    · simp [Memory.read]
    · subst h3
      rw [h4]
      exact Memory.read_of_lt hb
    · simp [Memory.read]
    · rw [Memory.read, if_neg (by omega)]
      exact ih ht

/-- Every other byte reads as before. -/
theorem Memory.read_write_other {m : Memory} (h : Memory.wf m) {a b : Nat} (hab : b ≠ a) (v : Byte) :
    Memory.read (Memory.write m a v) b = Memory.read m b := by
  induction m with
  | nil => by_cases hv : v = Config.unwritten <;> simp [Memory.write, Memory.read, hv, Ne.symm hab]
  | cons d t ih =>
    obtain ⟨c, w⟩ := d
    have ht := Memory.wf_tail h
    have hb := Memory.lt_of_wf_cons h
    simp only [Memory.write]
    split_ifs with h1 h2 h3 h4
    · rfl
    · simp [Memory.read, Ne.symm hab]
    · subst h3
      simp [Memory.read, Ne.symm hab]
    · subst h3
      simp [Memory.read, Ne.symm hab]
    · simp only [Memory.read]
      rw [ih ht]

/-- Bytes below and above those written read as before. -/
theorem Memory.read_writeBytes_other {m : Memory} (h : Memory.wf m) (a : Nat) (bs : List Byte) {b : Nat}
    (hb : b < a ∨ a + bs.length ≤ b) : Memory.read (Memory.writeBytes m a bs) b = Memory.read m b := by
  induction bs generalizing m a with
  | nil => rfl
  | cons v t ih =>
    rw [Memory.writeBytes, ih (Memory.write_wf h a v) (a + 1) (by simp at hb ⊢; omega)]
    exact Memory.read_write_other h (by simp at hb; omega) v

/-- Bytes written read as written. -/
theorem Memory.read_writeBytes {m : Memory} (h : Memory.wf m) (a : Nat) (bs : List Byte) (k : Nat) (hk : k < bs.length) :
    Memory.read (Memory.writeBytes m a bs) (a + k) = bs[k] := by
  induction bs generalizing m a k with
  | nil => simp at hk
  | cons v t ih =>
    rw [Memory.writeBytes]
    cases k with
    | zero =>
      rw [Memory.read_writeBytes_other (Memory.write_wf h a v) (a + 1) t (by omega)]
      simpa using Memory.read_write_same h a v
    | succ k =>
      have := ih (Memory.write_wf h a v) (a + 1) k (by simpa using hk)
      rw [show a + (k + 1) = a + 1 + k by omega]
      simpa using this

/-- The bytes read back are the bytes written. -/
theorem Memory.readBytes_writeBytes {m : Memory} (h : Memory.wf m) (a : Nat) (bs : List Byte) :
    Memory.readBytes (Memory.writeBytes m a bs) a bs.length = bs := by
  induction bs generalizing m a with
  | nil => rfl
  | cons v t ih =>
    simp only [List.length_cons, Memory.readBytes, Memory.writeBytes]
    rw [ih (Memory.write_wf h a v) (a + 1),
      Memory.read_writeBytes_other (Memory.write_wf h a v) (a + 1) t (by omega), Memory.read_write_same h]

/-- A filler's bytes keep the canonical form. -/
theorem poolPlace_wf {p : Pool} (h : Memory.wf p.mem) (i : Nat) (c : ClaimId) (o : Nat) (bs : List Byte) :
    Memory.wf (poolPlace p i c o bs).mem := by
  unfold poolPlace
  split
  · split_ifs
    · exact Memory.writeBytes_wf h _ _
    · exact h
  · exact h

/-- Reset memory is in the canonical form. -/
theorem State.reset_mem_wf : Memory.wf State.reset.pool.mem := Memory.wf_nil

end Sys2Proof.Machine
end

