-- ==== Sys2Proof/Laws/State.lean ====
section
/-! SUPPORT. One lemma per field per record update, true by `rfl`, and what reading a record gives after writing one. -/

namespace Sys2Proof.Machine

/-! ## `setBay` -/

@[simp] theorem State.setBay_bays (s : State) (b : Fin 8) (x : Bay) : (s.setBay b x).bays = s.bays.set b x := rfl
@[simp] theorem State.setBay_arb (s : State) (b : Fin 8) (x : Bay) : (s.setBay b x).arb = s.arb := rfl
@[simp] theorem State.setBay_pool (s : State) (b : Fin 8) (x : Bay) : (s.setBay b x).pool = s.pool := rfl
@[simp] theorem State.setBay_ports (s : State) (b : Fin 8) (x : Bay) : (s.setBay b x).ports = s.ports := rfl
@[simp] theorem State.setBay_jm (s : State) (b : Fin 8) (x : Bay) : (s.setBay b x).jm = s.jm := rfl
@[simp] theorem State.setBay_lki (s : State) (b : Fin 8) (x : Bay) : (s.setBay b x).lki = s.lki := rfl
@[simp] theorem State.setBay_wire (s : State) (b : Fin 8) (x : Bay) : (s.setBay b x).wire = s.wire := rfl
@[simp] theorem State.setBay_fresh (s : State) (b : Fin 8) (x : Bay) : (s.setBay b x).fresh = s.fresh := rfl
@[simp] theorem State.setBay_pending (s : State) (b : Fin 8) (x : Bay) : (s.setBay b x).pending = s.pending := rfl

/-! ## `setLane` -/

@[simp] theorem State.setLane_bays (s : State) (n : Fin 4) (x : Lane) : (s.setLane n x).bays = s.bays := rfl
@[simp] theorem State.setLane_arb (s : State) (n : Fin 4) (x : Lane) :
    (s.setLane n x).arb = { s.arb with lanes := s.arb.lanes.set n x } := rfl
@[simp] theorem State.setLane_pool (s : State) (n : Fin 4) (x : Lane) : (s.setLane n x).pool = s.pool := rfl
@[simp] theorem State.setLane_ports (s : State) (n : Fin 4) (x : Lane) : (s.setLane n x).ports = s.ports := rfl
@[simp] theorem State.setLane_jm (s : State) (n : Fin 4) (x : Lane) : (s.setLane n x).jm = s.jm := rfl
@[simp] theorem State.setLane_lki (s : State) (n : Fin 4) (x : Lane) : (s.setLane n x).lki = s.lki := rfl
@[simp] theorem State.setLane_wire (s : State) (n : Fin 4) (x : Lane) : (s.setLane n x).wire = s.wire := rfl
@[simp] theorem State.setLane_fresh (s : State) (n : Fin 4) (x : Lane) : (s.setLane n x).fresh = s.fresh := rfl
@[simp] theorem State.setLane_pending (s : State) (n : Fin 4) (x : Lane) : (s.setLane n x).pending = s.pending := rfl

/-! ## `setUnawaited` -/

@[simp] theorem State.setUnawaited_bays (s : State) (ws : List Wait) : (s.setUnawaited ws).bays = s.bays := rfl
@[simp] theorem State.setUnawaited_pool (s : State) (ws : List Wait) : (s.setUnawaited ws).pool = s.pool := rfl
@[simp] theorem State.setUnawaited_ports (s : State) (ws : List Wait) : (s.setUnawaited ws).ports = s.ports := rfl
@[simp] theorem State.setUnawaited_jm (s : State) (ws : List Wait) : (s.setUnawaited ws).jm = s.jm := rfl
@[simp] theorem State.setUnawaited_lki (s : State) (ws : List Wait) : (s.setUnawaited ws).lki = s.lki := rfl
@[simp] theorem State.setUnawaited_wire (s : State) (ws : List Wait) : (s.setUnawaited ws).wire = s.wire := rfl
@[simp] theorem State.setUnawaited_fresh (s : State) (ws : List Wait) : (s.setUnawaited ws).fresh = s.fresh := rfl
@[simp] theorem State.setUnawaited_pending (s : State) (ws : List Wait) : (s.setUnawaited ws).pending = s.pending := rfl
@[simp] theorem State.setUnawaited_arb (s : State) (ws : List Wait) :
    (s.setUnawaited ws).arb = { s.arb with unawaited := ws } := rfl
@[simp] theorem State.setUnawaited_bay (s : State) (ws : List Wait) (a : Fin 8) :
    (s.setUnawaited ws).bay a = s.bay a := rfl
@[simp] theorem State.setUnawaited_lane (s : State) (ws : List Wait) (l : Fin 4) :
    (s.setUnawaited ws).lane l = s.lane l := rfl
@[simp] theorem State.setUnawaited_port (s : State) (ws : List Wait) (q : Fin 4) :
    (s.setUnawaited ws).port q = s.port q := rfl
@[simp] theorem State.setUnawaited_view (s : State) (ws : List Wait) (d : Fin 8) :
    (s.setUnawaited ws).view d = s.view d := rfl
@[simp] theorem State.setUnawaited_job? (s : State) (ws : List Wait) (j : Nat) :
    (s.setUnawaited ws).job? j = s.job? j := rfl
@[simp] theorem State.setUnawaited_clip? (s : State) (ws : List Wait) (j : Nat) :
    (s.setUnawaited ws).clip? j = s.clip? j := rfl
@[simp] theorem State.setUnawaited_jobOf (s : State) (ws : List Wait) (d : Fin 8) :
    (s.setUnawaited ws).jobOf d = s.jobOf d := rfl
@[simp] theorem State.setUnawaited_read? (s : State) (ws : List Wait) (j : Nat) :
    (s.setUnawaited ws).read? j = s.read? j := rfl

/-! ## `setPort` -/

@[simp] theorem State.setPort_bays (s : State) (p : Fin 4) (x : Port) : (s.setPort p x).bays = s.bays := rfl
@[simp] theorem State.setPort_arb (s : State) (p : Fin 4) (x : Port) : (s.setPort p x).arb = s.arb := rfl
@[simp] theorem State.setPort_pool (s : State) (p : Fin 4) (x : Port) : (s.setPort p x).pool = s.pool := rfl
@[simp] theorem State.setPort_ports (s : State) (p : Fin 4) (x : Port) :
    (s.setPort p x).ports = s.ports.set p x := rfl
@[simp] theorem State.setPort_jm (s : State) (p : Fin 4) (x : Port) : (s.setPort p x).jm = s.jm := rfl
@[simp] theorem State.setPort_lki (s : State) (p : Fin 4) (x : Port) : (s.setPort p x).lki = s.lki := rfl
@[simp] theorem State.setPort_wire (s : State) (p : Fin 4) (x : Port) : (s.setPort p x).wire = s.wire := rfl
@[simp] theorem State.setPort_fresh (s : State) (p : Fin 4) (x : Port) : (s.setPort p x).fresh = s.fresh := rfl
@[simp] theorem State.setPort_pending (s : State) (p : Fin 4) (x : Port) : (s.setPort p x).pending = s.pending := rfl

/-! ## `setView` -/

@[simp] theorem State.setView_bays (s : State) (b : Fin 8) (x : BayView) : (s.setView b x).bays = s.bays := rfl
@[simp] theorem State.setView_arb (s : State) (b : Fin 8) (x : BayView) : (s.setView b x).arb = s.arb := rfl
@[simp] theorem State.setView_pool (s : State) (b : Fin 8) (x : BayView) : (s.setView b x).pool = s.pool := rfl
@[simp] theorem State.setView_ports (s : State) (b : Fin 8) (x : BayView) : (s.setView b x).ports = s.ports := rfl
@[simp] theorem State.setView_jm (s : State) (b : Fin 8) (x : BayView) :
    (s.setView b x).jm = { s.jm with views := s.jm.views.set b x } := rfl
@[simp] theorem State.setView_lki (s : State) (b : Fin 8) (x : BayView) : (s.setView b x).lki = s.lki := rfl
@[simp] theorem State.setView_wire (s : State) (b : Fin 8) (x : BayView) : (s.setView b x).wire = s.wire := rfl
@[simp] theorem State.setView_fresh (s : State) (b : Fin 8) (x : BayView) : (s.setView b x).fresh = s.fresh := rfl
@[simp] theorem State.setView_pending (s : State) (b : Fin 8) (x : BayView) :
    (s.setView b x).pending = s.pending := rfl

/-! ## `setAdm` -/

@[simp] theorem State.setAdm_bays (s : State) (b : Fin 8) (v : Option Admission) : (s.setAdm b v).bays = s.bays := rfl
@[simp] theorem State.setAdm_arb (s : State) (b : Fin 8) (v : Option Admission) : (s.setAdm b v).arb = s.arb := rfl
@[simp] theorem State.setAdm_pool (s : State) (b : Fin 8) (v : Option Admission) : (s.setAdm b v).pool = s.pool := rfl
@[simp] theorem State.setAdm_ports (s : State) (b : Fin 8) (v : Option Admission) :
    (s.setAdm b v).ports = s.ports := rfl
@[simp] theorem State.setAdm_jm (s : State) (b : Fin 8) (v : Option Admission) :
    (s.setAdm b v).jm = { s.jm with views := s.jm.views.set b { s.view b with adm := v } } := rfl
@[simp] theorem State.setAdm_lki (s : State) (b : Fin 8) (v : Option Admission) : (s.setAdm b v).lki = s.lki := rfl
@[simp] theorem State.setAdm_wire (s : State) (b : Fin 8) (v : Option Admission) : (s.setAdm b v).wire = s.wire := rfl
@[simp] theorem State.setAdm_fresh (s : State) (b : Fin 8) (v : Option Admission) :
    (s.setAdm b v).fresh = s.fresh := rfl
@[simp] theorem State.setAdm_pending (s : State) (b : Fin 8) (v : Option Admission) :
    (s.setAdm b v).pending = s.pending := rfl

/-! ## `modJob` -/

@[simp] theorem State.modJob_bays (s : State) (id : Nat) (f : Job → Job) : (s.modJob id f).bays = s.bays := rfl
@[simp] theorem State.modJob_arb (s : State) (id : Nat) (f : Job → Job) : (s.modJob id f).arb = s.arb := rfl
@[simp] theorem State.modJob_pool (s : State) (id : Nat) (f : Job → Job) : (s.modJob id f).pool = s.pool := rfl
@[simp] theorem State.modJob_ports (s : State) (id : Nat) (f : Job → Job) : (s.modJob id f).ports = s.ports := rfl
@[simp] theorem State.modJob_jm (s : State) (id : Nat) (f : Job → Job) :
    (s.modJob id f).jm = { s.jm with jobs := s.jm.jobs.map (fun j => if j.id = id then f j else j) } := rfl
@[simp] theorem State.modJob_lki (s : State) (id : Nat) (f : Job → Job) : (s.modJob id f).lki = s.lki := rfl
@[simp] theorem State.modJob_wire (s : State) (id : Nat) (f : Job → Job) : (s.modJob id f).wire = s.wire := rfl
@[simp] theorem State.modJob_fresh (s : State) (id : Nat) (f : Job → Job) : (s.modJob id f).fresh = s.fresh := rfl
@[simp] theorem State.modJob_pending (s : State) (id : Nat) (f : Job → Job) :
    (s.modJob id f).pending = s.pending := rfl

/-! ## `modClip` -/

@[simp] theorem State.modClip_bays (s : State) (id : Nat) (f : Clip → Clip) : (s.modClip id f).bays = s.bays := rfl
@[simp] theorem State.modClip_arb (s : State) (id : Nat) (f : Clip → Clip) : (s.modClip id f).arb = s.arb := rfl
@[simp] theorem State.modClip_pool (s : State) (id : Nat) (f : Clip → Clip) : (s.modClip id f).pool = s.pool := rfl
@[simp] theorem State.modClip_ports (s : State) (id : Nat) (f : Clip → Clip) : (s.modClip id f).ports = s.ports := rfl
@[simp] theorem State.modClip_jm (s : State) (id : Nat) (f : Clip → Clip) :
    (s.modClip id f).jm = { s.jm with clips := s.jm.clips.map (fun c => if c.id = id then f c else c) } := rfl
@[simp] theorem State.modClip_lki (s : State) (id : Nat) (f : Clip → Clip) : (s.modClip id f).lki = s.lki := rfl
@[simp] theorem State.modClip_wire (s : State) (id : Nat) (f : Clip → Clip) : (s.modClip id f).wire = s.wire := rfl
@[simp] theorem State.modClip_fresh (s : State) (id : Nat) (f : Clip → Clip) : (s.modClip id f).fresh = s.fresh := rfl
@[simp] theorem State.modClip_pending (s : State) (id : Nat) (f : Clip → Clip) :
    (s.modClip id f).pending = s.pending := rfl

/-! ## `modCopy` -/

@[simp] theorem State.modCopy_bays (s : State) (id : Nat) (p : Fin 4) (f : Copy → Copy) :
    (s.modCopy id p f).bays = s.bays := rfl
@[simp] theorem State.modCopy_arb (s : State) (id : Nat) (p : Fin 4) (f : Copy → Copy) :
    (s.modCopy id p f).arb = s.arb := rfl
@[simp] theorem State.modCopy_pool (s : State) (id : Nat) (p : Fin 4) (f : Copy → Copy) :
    (s.modCopy id p f).pool = s.pool := rfl
@[simp] theorem State.modCopy_ports (s : State) (id : Nat) (p : Fin 4) (f : Copy → Copy) :
    (s.modCopy id p f).ports = s.ports := rfl
@[simp] theorem State.modCopy_jm (s : State) (id : Nat) (p : Fin 4) (f : Copy → Copy) :
    (s.modCopy id p f).jm = (s.modClip id (setCopyOn p f)).jm := rfl
@[simp] theorem State.modCopy_lki (s : State) (id : Nat) (p : Fin 4) (f : Copy → Copy) :
    (s.modCopy id p f).lki = s.lki := rfl
@[simp] theorem State.modCopy_wire (s : State) (id : Nat) (p : Fin 4) (f : Copy → Copy) :
    (s.modCopy id p f).wire = s.wire := rfl
@[simp] theorem State.modCopy_fresh (s : State) (id : Nat) (p : Fin 4) (f : Copy → Copy) :
    (s.modCopy id p f).fresh = s.fresh := rfl
@[simp] theorem State.modCopy_pending (s : State) (id : Nat) (p : Fin 4) (f : Copy → Copy) :
    (s.modCopy id p f).pending = s.pending := rfl

/-! ## `send` -/

@[simp] theorem State.send_bays (s : State) (m : Instr) : (s.send m).bays = s.bays := rfl
@[simp] theorem State.send_arb (s : State) (m : Instr) : (s.send m).arb = s.arb := rfl
@[simp] theorem State.send_pool (s : State) (m : Instr) : (s.send m).pool = s.pool := rfl
@[simp] theorem State.send_ports (s : State) (m : Instr) : (s.send m).ports = s.ports := rfl
@[simp] theorem State.send_jm (s : State) (m : Instr) : (s.send m).jm = s.jm := rfl
@[simp] theorem State.send_lki (s : State) (m : Instr) : (s.send m).lki = s.lki := rfl
@[simp] theorem State.send_wire (s : State) (m : Instr) : (s.send m).wire = s.wire ++ [m] := rfl
@[simp] theorem State.send_fresh (s : State) (m : Instr) : (s.send m).fresh = s.fresh := rfl
@[simp] theorem State.send_pending (s : State) (m : Instr) : (s.send m).pending = s.pending := rfl

/-! ## `sendAll` -/

@[simp] theorem State.sendAll_bays (s : State) (ms : List Instr) : (s.sendAll ms).bays = s.bays := rfl
@[simp] theorem State.sendAll_arb (s : State) (ms : List Instr) : (s.sendAll ms).arb = s.arb := rfl
@[simp] theorem State.sendAll_pool (s : State) (ms : List Instr) : (s.sendAll ms).pool = s.pool := rfl
@[simp] theorem State.sendAll_ports (s : State) (ms : List Instr) : (s.sendAll ms).ports = s.ports := rfl
@[simp] theorem State.sendAll_jm (s : State) (ms : List Instr) : (s.sendAll ms).jm = s.jm := rfl
@[simp] theorem State.sendAll_lki (s : State) (ms : List Instr) : (s.sendAll ms).lki = s.lki := rfl
@[simp] theorem State.sendAll_wire (s : State) (ms : List Instr) : (s.sendAll ms).wire = s.wire ++ ms := rfl
@[simp] theorem State.sendAll_fresh (s : State) (ms : List Instr) : (s.sendAll ms).fresh = s.fresh := rfl
@[simp] theorem State.sendAll_pending (s : State) (ms : List Instr) : (s.sendAll ms).pending = s.pending := rfl

/-! ## `arrive` -/

@[simp] theorem State.arrive_bays (s : State) (m : Instr) : (s.arrive m).bays = s.bays := rfl
@[simp] theorem State.arrive_arb (s : State) (m : Instr) : (s.arrive m).arb = s.arb := rfl
@[simp] theorem State.arrive_pool (s : State) (m : Instr) : (s.arrive m).pool = s.pool := rfl
@[simp] theorem State.arrive_ports (s : State) (m : Instr) : (s.arrive m).ports = s.ports := rfl
@[simp] theorem State.arrive_jm (s : State) (m : Instr) : (s.arrive m).jm = s.jm := rfl
@[simp] theorem State.arrive_lki (s : State) (m : Instr) : (s.arrive m).lki = s.lki := rfl
@[simp] theorem State.arrive_wire (s : State) (m : Instr) : (s.arrive m).wire = s.wire.erase m := rfl
@[simp] theorem State.arrive_fresh (s : State) (m : Instr) : (s.arrive m).fresh = s.fresh := rfl
@[simp] theorem State.arrive_pending (s : State) (m : Instr) : (s.arrive m).pending = s.pending := rfl

/-! ## `beginRead` and `forget` -/

@[simp] theorem State.beginRead_bays (s : State) (item : WorkItem) : (s.beginRead item).bays = s.bays := rfl
@[simp] theorem State.beginRead_arb (s : State) (item : WorkItem) : (s.beginRead item).arb = s.arb := rfl
@[simp] theorem State.beginRead_pool (s : State) (item : WorkItem) : (s.beginRead item).pool = s.pool := rfl
@[simp] theorem State.beginRead_ports (s : State) (item : WorkItem) : (s.beginRead item).ports = s.ports := rfl
@[simp] theorem State.beginRead_lki (s : State) (item : WorkItem) : (s.beginRead item).lki = s.lki := rfl
@[simp] theorem State.beginRead_wire (s : State) (item : WorkItem) : (s.beginRead item).wire = s.wire := rfl
@[simp] theorem State.beginRead_fresh (s : State) (item : WorkItem) : (s.beginRead item).fresh = s.fresh := rfl
@[simp] theorem State.beginRead_pending (s : State) (item : WorkItem) : (s.beginRead item).pending = s.pending := rfl
@[simp] theorem State.beginRead_jm (s : State) (item : WorkItem) : (s.beginRead item).jm = { s.jm with
    late := s.jm.late.filter (fun m => !reportsOn item m) ++ s.wire.filter (reportsOn item) } := rfl
@[simp] theorem State.forget_bays (s : State) (m : Instr) : (s.forget m).bays = s.bays := rfl
@[simp] theorem State.forget_arb (s : State) (m : Instr) : (s.forget m).arb = s.arb := rfl
@[simp] theorem State.forget_pool (s : State) (m : Instr) : (s.forget m).pool = s.pool := rfl
@[simp] theorem State.forget_ports (s : State) (m : Instr) : (s.forget m).ports = s.ports := rfl
@[simp] theorem State.forget_lki (s : State) (m : Instr) : (s.forget m).lki = s.lki := rfl
@[simp] theorem State.forget_wire (s : State) (m : Instr) : (s.forget m).wire = s.wire := rfl
@[simp] theorem State.forget_fresh (s : State) (m : Instr) : (s.forget m).fresh = s.fresh := rfl
@[simp] theorem State.forget_pending (s : State) (m : Instr) : (s.forget m).pending = s.pending := rfl
@[simp] theorem State.forget_jm (s : State) (m : Instr) : (s.forget m).jm = { s.jm with late := s.jm.late.erase m } := rfl

/-! ## `notify` -/

@[simp] theorem State.notify_bays (s : State) (n : Notice) : (s.notify n).bays = s.bays := rfl
@[simp] theorem State.notify_arb (s : State) (n : Notice) : (s.notify n).arb = s.arb := rfl
@[simp] theorem State.notify_pool (s : State) (n : Notice) : (s.notify n).pool = s.pool := rfl
@[simp] theorem State.notify_ports (s : State) (n : Notice) : (s.notify n).ports = s.ports := rfl
@[simp] theorem State.notify_jm (s : State) (n : Notice) : (s.notify n).jm = s.jm := rfl
@[simp] theorem State.notify_lki (s : State) (n : Notice) : (s.notify n).lki = s.lki := rfl
@[simp] theorem State.notify_wire (s : State) (n : Notice) : (s.notify n).wire = s.wire ++ [.noticeQueued n] := rfl
@[simp] theorem State.notify_fresh (s : State) (n : Notice) : (s.notify n).fresh = s.fresh := rfl
@[simp] theorem State.notify_pending (s : State) (n : Notice) : (s.notify n).pending = s.pending := rfl

/-! ## `bayNotice` -/

@[simp] theorem State.bayNotice_bays (s : State) (b : Fin 8) (e : BayEvent) : (s.bayNotice b e).bays = s.bays := rfl
@[simp] theorem State.bayNotice_arb (s : State) (b : Fin 8) (e : BayEvent) : (s.bayNotice b e).arb = s.arb := rfl
@[simp] theorem State.bayNotice_pool (s : State) (b : Fin 8) (e : BayEvent) : (s.bayNotice b e).pool = s.pool := rfl
@[simp] theorem State.bayNotice_ports (s : State) (b : Fin 8) (e : BayEvent) :
    (s.bayNotice b e).ports = s.ports := rfl
@[simp] theorem State.bayNotice_jm (s : State) (b : Fin 8) (e : BayEvent) : (s.bayNotice b e).jm = s.jm := rfl
@[simp] theorem State.bayNotice_lki (s : State) (b : Fin 8) (e : BayEvent) : (s.bayNotice b e).lki = s.lki := rfl
@[simp] theorem State.bayNotice_wire (s : State) (b : Fin 8) (e : BayEvent) :
    (s.bayNotice b e).wire = s.wire ++ [.noticeQueued (.bay b e (s.bay b).state (s.bay b).lock)] := rfl
@[simp] theorem State.bayNotice_fresh (s : State) (b : Fin 8) (e : BayEvent) :
    (s.bayNotice b e).fresh = s.fresh := rfl
@[simp] theorem State.bayNotice_pending (s : State) (b : Fin 8) (e : BayEvent) :
    (s.bayNotice b e).pending = s.pending := rfl

/-! ## `portNotice` -/

@[simp] theorem State.portNotice_bays (s : State) (p : Fin 4) (e : PortEvent) :
    (s.portNotice p e).bays = s.bays := rfl
@[simp] theorem State.portNotice_arb (s : State) (p : Fin 4) (e : PortEvent) : (s.portNotice p e).arb = s.arb := rfl
@[simp] theorem State.portNotice_pool (s : State) (p : Fin 4) (e : PortEvent) :
    (s.portNotice p e).pool = s.pool := rfl
@[simp] theorem State.portNotice_ports (s : State) (p : Fin 4) (e : PortEvent) :
    (s.portNotice p e).ports = s.ports := rfl
@[simp] theorem State.portNotice_jm (s : State) (p : Fin 4) (e : PortEvent) : (s.portNotice p e).jm = s.jm := rfl
@[simp] theorem State.portNotice_lki (s : State) (p : Fin 4) (e : PortEvent) : (s.portNotice p e).lki = s.lki := rfl
@[simp] theorem State.portNotice_wire (s : State) (p : Fin 4) (e : PortEvent) :
    (s.portNotice p e).wire = s.wire ++ [.noticeQueued (.port p e (s.port p).state)] := rfl
@[simp] theorem State.portNotice_fresh (s : State) (p : Fin 4) (e : PortEvent) :
    (s.portNotice p e).fresh = s.fresh := rfl
@[simp] theorem State.portNotice_pending (s : State) (p : Fin 4) (e : PortEvent) :
    (s.portNotice p e).pending = s.pending := rfl

/-! ## `lampSet` -/

@[simp] theorem State.lampSet_bays (s : State) (b : Fin 8) :
    (s.lampSet b).bays = s.bays.set b { s.bay b with lamp := lampOf (s.bay b) } := rfl
@[simp] theorem State.lampSet_arb (s : State) (b : Fin 8) : (s.lampSet b).arb = s.arb := rfl
@[simp] theorem State.lampSet_pool (s : State) (b : Fin 8) : (s.lampSet b).pool = s.pool := rfl
@[simp] theorem State.lampSet_ports (s : State) (b : Fin 8) : (s.lampSet b).ports = s.ports := rfl
@[simp] theorem State.lampSet_jm (s : State) (b : Fin 8) : (s.lampSet b).jm = s.jm := rfl
@[simp] theorem State.lampSet_lki (s : State) (b : Fin 8) : (s.lampSet b).lki = s.lki := rfl
@[simp] theorem State.lampSet_wire (s : State) (b : Fin 8) : (s.lampSet b).wire = s.wire := rfl
@[simp] theorem State.lampSet_fresh (s : State) (b : Fin 8) : (s.lampSet b).fresh = s.fresh := rfl
@[simp] theorem State.lampSet_pending (s : State) (b : Fin 8) : (s.lampSet b).pending = s.pending := rfl

/-! ## `joinReady` -/

@[simp] theorem State.joinReady_bays (s : State) (r : ReadyReply) : (s.joinReady r).bays = s.bays := rfl
@[simp] theorem State.joinReady_arb (s : State) (r : ReadyReply) : (s.joinReady r).arb = s.arb := rfl
@[simp] theorem State.joinReady_pool (s : State) (r : ReadyReply) : (s.joinReady r).pool = s.pool := rfl
@[simp] theorem State.joinReady_ports (s : State) (r : ReadyReply) : (s.joinReady r).ports = s.ports := rfl
@[simp] theorem State.joinReady_jm (s : State) (r : ReadyReply) : (s.joinReady r).jm = s.jm := rfl
@[simp] theorem State.joinReady_lki (s : State) (r : ReadyReply) :
    (s.joinReady r).lki = { s.lki with ready := s.lki.ready ++ [r] } := rfl
@[simp] theorem State.joinReady_wire (s : State) (r : ReadyReply) : (s.joinReady r).wire = s.wire := rfl
@[simp] theorem State.joinReady_fresh (s : State) (r : ReadyReply) : (s.joinReady r).fresh = s.fresh := rfl
@[simp] theorem State.joinReady_pending (s : State) (r : ReadyReply) : (s.joinReady r).pending = s.pending := rfl

/-! ## `spend` -/

@[simp] theorem State.spend_bays (s : State) : (s.spend).bays = s.bays := rfl
@[simp] theorem State.spend_arb (s : State) : (s.spend).arb = s.arb := rfl
@[simp] theorem State.spend_pool (s : State) : (s.spend).pool = s.pool := rfl
@[simp] theorem State.spend_ports (s : State) : (s.spend).ports = s.ports := rfl
@[simp] theorem State.spend_jm (s : State) : (s.spend).jm = s.jm := rfl
@[simp] theorem State.spend_lki (s : State) : (s.spend).lki = s.lki := rfl
@[simp] theorem State.spend_wire (s : State) : (s.spend).wire = s.wire := rfl
@[simp] theorem State.spend_fresh (s : State) : (s.spend).fresh = s.fresh + 1 := rfl
@[simp] theorem State.spend_pending (s : State) : (s.spend).pending = s.pending := rfl

/-! ## `place` -/

@[simp] theorem State.place_bays (s : State) (i : Nat) (c : ClaimId) (o : Nat) (bs : List Byte) :
    (s.place i c o bs).bays = s.bays := rfl
@[simp] theorem State.place_arb (s : State) (i : Nat) (c : ClaimId) (o : Nat) (bs : List Byte) :
    (s.place i c o bs).arb = s.arb := rfl
@[simp] theorem State.place_pool (s : State) (i : Nat) (c : ClaimId) (o : Nat) (bs : List Byte) :
    (s.place i c o bs).pool = poolPlace s.pool i c o bs := rfl
@[simp] theorem State.place_ports (s : State) (i : Nat) (c : ClaimId) (o : Nat) (bs : List Byte) :
    (s.place i c o bs).ports = s.ports := rfl
@[simp] theorem State.place_jm (s : State) (i : Nat) (c : ClaimId) (o : Nat) (bs : List Byte) :
    (s.place i c o bs).jm = s.jm := rfl
@[simp] theorem State.place_lki (s : State) (i : Nat) (c : ClaimId) (o : Nat) (bs : List Byte) :
    (s.place i c o bs).lki = s.lki := rfl
@[simp] theorem State.place_wire (s : State) (i : Nat) (c : ClaimId) (o : Nat) (bs : List Byte) :
    (s.place i c o bs).wire = s.wire := rfl
@[simp] theorem State.place_fresh (s : State) (i : Nat) (c : ClaimId) (o : Nat) (bs : List Byte) :
    (s.place i c o bs).fresh = s.fresh := rfl
@[simp] theorem State.place_pending (s : State) (i : Nat) (c : ClaimId) (o : Nat) (bs : List Byte) :
    (s.place i c o bs).pending = s.pending := rfl

/-! ## Reading a record after writing one -/

@[simp] theorem State.bay_setBay (s : State) (b : Fin 8) (x : Bay) : (s.setBay b x).bay b = x := by
  simp [State.bay, State.setBay]

@[simp] theorem State.bay_setBay_ne (s : State) (b c : Fin 8) (x : Bay) (h : c ≠ b) : (s.setBay b x).bay c = s.bay c := by
  have h' : (b : Nat) ≠ c := fun e => h (Fin.ext e.symm)
  simp [State.bay, State.setBay, h']

@[simp] theorem State.lane_setLane (s : State) (n : Fin 4) (x : Lane) : (s.setLane n x).lane n = x := by
  simp [State.lane, State.setLane]

@[simp] theorem State.lane_setLane_ne (s : State) (n m : Fin 4) (x : Lane) (h : m ≠ n) :
    (s.setLane n x).lane m = s.lane m := by
  have h' : (n : Nat) ≠ m := fun e => h (Fin.ext e.symm)
  simp [State.lane, State.setLane, h']

@[simp] theorem State.port_setPort (s : State) (p : Fin 4) (x : Port) : (s.setPort p x).port p = x := by
  simp [State.port, State.setPort]

@[simp] theorem State.port_setPort_ne (s : State) (p q : Fin 4) (x : Port) (h : q ≠ p) :
    (s.setPort p x).port q = s.port q := by
  have h' : (p : Nat) ≠ q := fun e => h (Fin.ext e.symm)
  simp [State.port, State.setPort, h']

@[simp] theorem State.view_setView (s : State) (b : Fin 8) (x : BayView) : (s.setView b x).view b = x := by
  simp [State.view, State.setView]

@[simp] theorem State.view_setView_ne (s : State) (b c : Fin 8) (x : BayView) (h : c ≠ b) :
    (s.setView b x).view c = s.view c := by
  have h' : (b : Nat) ≠ c := fun e => h (Fin.ext e.symm)
  simp [State.view, State.setView, h']

/-- A record read only looks at its own block. -/
theorem State.bay_of_bays {s t : State} (h : t.bays = s.bays) (b : Fin 8) : t.bay b = s.bay b := by
  simp only [State.bay, h]

/-- A record read only looks at its own block. -/
theorem State.port_of_ports {s t : State} (h : t.ports = s.ports) (p : Fin 4) : t.port p = s.port p := by
  simp only [State.port, h]

/-- A record read only looks at its own block. -/
theorem State.lane_of_arb {s t : State} (h : t.arb = s.arb) (n : Fin 4) : t.lane n = s.lane n := by
  simp only [State.lane, h]

/-- A record read only looks at its own block. -/
theorem State.view_of_jm {s t : State} (h : t.jm = s.jm) (b : Fin 8) : t.view b = s.view b := by
  simp only [State.view, h]

/-! ## `bay` after updates of other blocks -/

@[simp] theorem State.setLane_bay (s : State) (n : Fin 4) (x : Lane) (a : Fin 8) :
    (s.setLane n x).bay a = s.bay a := rfl
@[simp] theorem State.setPort_bay (s : State) (p : Fin 4) (x : Port) (a : Fin 8) :
    (s.setPort p x).bay a = s.bay a := rfl
@[simp] theorem State.setView_bay (s : State) (b : Fin 8) (x : BayView) (a : Fin 8) :
    (s.setView b x).bay a = s.bay a := rfl
@[simp] theorem State.setAdm_bay (s : State) (b : Fin 8) (v : Option Admission) (a : Fin 8) :
    (s.setAdm b v).bay a = s.bay a := rfl
@[simp] theorem State.modJob_bay (s : State) (id : Nat) (f : Job → Job) (a : Fin 8) :
    (s.modJob id f).bay a = s.bay a := rfl
@[simp] theorem State.modClip_bay (s : State) (id : Nat) (f : Clip → Clip) (a : Fin 8) :
    (s.modClip id f).bay a = s.bay a := rfl
@[simp] theorem State.modCopy_bay (s : State) (id : Nat) (p : Fin 4) (f : Copy → Copy) (a : Fin 8) :
    (s.modCopy id p f).bay a = s.bay a := rfl
@[simp] theorem State.send_bay (s : State) (m : Instr) (a : Fin 8) : (s.send m).bay a = s.bay a := rfl
@[simp] theorem State.sendAll_bay (s : State) (ms : List Instr) (a : Fin 8) : (s.sendAll ms).bay a = s.bay a := rfl
@[simp] theorem State.arrive_bay (s : State) (m : Instr) (a : Fin 8) : (s.arrive m).bay a = s.bay a := rfl
@[simp] theorem State.notify_bay (s : State) (n : Notice) (a : Fin 8) : (s.notify n).bay a = s.bay a := rfl
@[simp] theorem State.bayNotice_bay (s : State) (b : Fin 8) (e : BayEvent) (a : Fin 8) :
    (s.bayNotice b e).bay a = s.bay a := rfl
@[simp] theorem State.portNotice_bay (s : State) (p : Fin 4) (e : PortEvent) (a : Fin 8) :
    (s.portNotice p e).bay a = s.bay a := rfl
@[simp] theorem State.joinReady_bay (s : State) (r : ReadyReply) (a : Fin 8) : (s.joinReady r).bay a = s.bay a := rfl
@[simp] theorem State.spend_bay (s : State) (a : Fin 8) : (s.spend).bay a = s.bay a := rfl
@[simp] theorem State.place_bay (s : State) (i : Nat) (c : ClaimId) (o : Nat) (bs : List Byte) (a : Fin 8) :
    (s.place i c o bs).bay a = s.bay a := rfl

/-! ## `port` after updates of other blocks -/

@[simp] theorem State.setBay_port (s : State) (b : Fin 8) (x : Bay) (q : Fin 4) :
    (s.setBay b x).port q = s.port q := rfl
@[simp] theorem State.setLane_port (s : State) (n : Fin 4) (x : Lane) (q : Fin 4) :
    (s.setLane n x).port q = s.port q := rfl
@[simp] theorem State.setView_port (s : State) (b : Fin 8) (x : BayView) (q : Fin 4) :
    (s.setView b x).port q = s.port q := rfl
@[simp] theorem State.setAdm_port (s : State) (b : Fin 8) (v : Option Admission) (q : Fin 4) :
    (s.setAdm b v).port q = s.port q := rfl
@[simp] theorem State.modJob_port (s : State) (id : Nat) (f : Job → Job) (q : Fin 4) :
    (s.modJob id f).port q = s.port q := rfl
@[simp] theorem State.modClip_port (s : State) (id : Nat) (f : Clip → Clip) (q : Fin 4) :
    (s.modClip id f).port q = s.port q := rfl
@[simp] theorem State.modCopy_port (s : State) (id : Nat) (p : Fin 4) (f : Copy → Copy) (q : Fin 4) :
    (s.modCopy id p f).port q = s.port q := rfl
@[simp] theorem State.send_port (s : State) (m : Instr) (q : Fin 4) : (s.send m).port q = s.port q := rfl
@[simp] theorem State.sendAll_port (s : State) (ms : List Instr) (q : Fin 4) : (s.sendAll ms).port q = s.port q := rfl
@[simp] theorem State.arrive_port (s : State) (m : Instr) (q : Fin 4) : (s.arrive m).port q = s.port q := rfl
@[simp] theorem State.notify_port (s : State) (n : Notice) (q : Fin 4) : (s.notify n).port q = s.port q := rfl
@[simp] theorem State.bayNotice_port (s : State) (b : Fin 8) (e : BayEvent) (q : Fin 4) :
    (s.bayNotice b e).port q = s.port q := rfl
@[simp] theorem State.portNotice_port (s : State) (p : Fin 4) (e : PortEvent) (q : Fin 4) :
    (s.portNotice p e).port q = s.port q := rfl
@[simp] theorem State.lampSet_port (s : State) (b : Fin 8) (q : Fin 4) : (s.lampSet b).port q = s.port q := rfl
@[simp] theorem State.joinReady_port (s : State) (r : ReadyReply) (q : Fin 4) :
    (s.joinReady r).port q = s.port q := rfl
@[simp] theorem State.spend_port (s : State) (q : Fin 4) : (s.spend).port q = s.port q := rfl
@[simp] theorem State.place_port (s : State) (i : Nat) (c : ClaimId) (o : Nat) (bs : List Byte) (q : Fin 4) :
    (s.place i c o bs).port q = s.port q := rfl

/-! ## `lane` after updates of other blocks -/

@[simp] theorem State.setBay_lane (s : State) (b : Fin 8) (x : Bay) (l : Fin 4) :
    (s.setBay b x).lane l = s.lane l := rfl
@[simp] theorem State.setPort_lane (s : State) (p : Fin 4) (x : Port) (l : Fin 4) :
    (s.setPort p x).lane l = s.lane l := rfl
@[simp] theorem State.setView_lane (s : State) (b : Fin 8) (x : BayView) (l : Fin 4) :
    (s.setView b x).lane l = s.lane l := rfl
@[simp] theorem State.setAdm_lane (s : State) (b : Fin 8) (v : Option Admission) (l : Fin 4) :
    (s.setAdm b v).lane l = s.lane l := rfl
@[simp] theorem State.modJob_lane (s : State) (id : Nat) (f : Job → Job) (l : Fin 4) :
    (s.modJob id f).lane l = s.lane l := rfl
@[simp] theorem State.modClip_lane (s : State) (id : Nat) (f : Clip → Clip) (l : Fin 4) :
    (s.modClip id f).lane l = s.lane l := rfl
@[simp] theorem State.modCopy_lane (s : State) (id : Nat) (p : Fin 4) (f : Copy → Copy) (l : Fin 4) :
    (s.modCopy id p f).lane l = s.lane l := rfl
@[simp] theorem State.send_lane (s : State) (m : Instr) (l : Fin 4) : (s.send m).lane l = s.lane l := rfl
@[simp] theorem State.sendAll_lane (s : State) (ms : List Instr) (l : Fin 4) : (s.sendAll ms).lane l = s.lane l := rfl
@[simp] theorem State.arrive_lane (s : State) (m : Instr) (l : Fin 4) : (s.arrive m).lane l = s.lane l := rfl
@[simp] theorem State.notify_lane (s : State) (n : Notice) (l : Fin 4) : (s.notify n).lane l = s.lane l := rfl
@[simp] theorem State.bayNotice_lane (s : State) (b : Fin 8) (e : BayEvent) (l : Fin 4) :
    (s.bayNotice b e).lane l = s.lane l := rfl
@[simp] theorem State.portNotice_lane (s : State) (p : Fin 4) (e : PortEvent) (l : Fin 4) :
    (s.portNotice p e).lane l = s.lane l := rfl
@[simp] theorem State.lampSet_lane (s : State) (b : Fin 8) (l : Fin 4) : (s.lampSet b).lane l = s.lane l := rfl
@[simp] theorem State.joinReady_lane (s : State) (r : ReadyReply) (l : Fin 4) :
    (s.joinReady r).lane l = s.lane l := rfl
@[simp] theorem State.spend_lane (s : State) (l : Fin 4) : (s.spend).lane l = s.lane l := rfl
@[simp] theorem State.place_lane (s : State) (i : Nat) (c : ClaimId) (o : Nat) (bs : List Byte) (l : Fin 4) :
    (s.place i c o bs).lane l = s.lane l := rfl

/-! ## `view` after updates of other blocks -/

@[simp] theorem State.setBay_view (s : State) (b : Fin 8) (x : Bay) (d : Fin 8) :
    (s.setBay b x).view d = s.view d := rfl
@[simp] theorem State.setLane_view (s : State) (n : Fin 4) (x : Lane) (d : Fin 8) :
    (s.setLane n x).view d = s.view d := rfl
@[simp] theorem State.setPort_view (s : State) (p : Fin 4) (x : Port) (d : Fin 8) :
    (s.setPort p x).view d = s.view d := rfl
@[simp] theorem State.send_view (s : State) (m : Instr) (d : Fin 8) : (s.send m).view d = s.view d := rfl
@[simp] theorem State.sendAll_view (s : State) (ms : List Instr) (d : Fin 8) : (s.sendAll ms).view d = s.view d := rfl
@[simp] theorem State.arrive_view (s : State) (m : Instr) (d : Fin 8) : (s.arrive m).view d = s.view d := rfl
@[simp] theorem State.notify_view (s : State) (n : Notice) (d : Fin 8) : (s.notify n).view d = s.view d := rfl
@[simp] theorem State.bayNotice_view (s : State) (b : Fin 8) (e : BayEvent) (d : Fin 8) :
    (s.bayNotice b e).view d = s.view d := rfl
@[simp] theorem State.portNotice_view (s : State) (p : Fin 4) (e : PortEvent) (d : Fin 8) :
    (s.portNotice p e).view d = s.view d := rfl
@[simp] theorem State.lampSet_view (s : State) (b : Fin 8) (d : Fin 8) : (s.lampSet b).view d = s.view d := rfl
@[simp] theorem State.joinReady_view (s : State) (r : ReadyReply) (d : Fin 8) :
    (s.joinReady r).view d = s.view d := rfl
@[simp] theorem State.spend_view (s : State) (d : Fin 8) : (s.spend).view d = s.view d := rfl
@[simp] theorem State.place_view (s : State) (i : Nat) (c : ClaimId) (o : Nat) (bs : List Byte) (d : Fin 8) :
    (s.place i c o bs).view d = s.view d := rfl

/-! ## `job?` after updates of other blocks -/

@[simp] theorem State.setBay_job? (s : State) (b : Fin 8) (x : Bay) (j : Nat) :
    (s.setBay b x).job? j = s.job? j := rfl
@[simp] theorem State.setLane_job? (s : State) (n : Fin 4) (x : Lane) (j : Nat) :
    (s.setLane n x).job? j = s.job? j := rfl
@[simp] theorem State.setPort_job? (s : State) (p : Fin 4) (x : Port) (j : Nat) :
    (s.setPort p x).job? j = s.job? j := rfl
@[simp] theorem State.send_job? (s : State) (m : Instr) (j : Nat) : (s.send m).job? j = s.job? j := rfl
@[simp] theorem State.sendAll_job? (s : State) (ms : List Instr) (j : Nat) : (s.sendAll ms).job? j = s.job? j := rfl
@[simp] theorem State.arrive_job? (s : State) (m : Instr) (j : Nat) : (s.arrive m).job? j = s.job? j := rfl
@[simp] theorem State.notify_job? (s : State) (n : Notice) (j : Nat) : (s.notify n).job? j = s.job? j := rfl
@[simp] theorem State.bayNotice_job? (s : State) (b : Fin 8) (e : BayEvent) (j : Nat) :
    (s.bayNotice b e).job? j = s.job? j := rfl
@[simp] theorem State.portNotice_job? (s : State) (p : Fin 4) (e : PortEvent) (j : Nat) :
    (s.portNotice p e).job? j = s.job? j := rfl
@[simp] theorem State.lampSet_job? (s : State) (b : Fin 8) (j : Nat) : (s.lampSet b).job? j = s.job? j := rfl
@[simp] theorem State.joinReady_job? (s : State) (r : ReadyReply) (j : Nat) : (s.joinReady r).job? j = s.job? j := rfl
@[simp] theorem State.spend_job? (s : State) (j : Nat) : (s.spend).job? j = s.job? j := rfl
@[simp] theorem State.place_job? (s : State) (i : Nat) (c : ClaimId) (o : Nat) (bs : List Byte) (j : Nat) :
    (s.place i c o bs).job? j = s.job? j := rfl

/-! ## `clip?` after updates of other blocks -/

@[simp] theorem State.setBay_clip? (s : State) (b : Fin 8) (x : Bay) (j : Nat) :
    (s.setBay b x).clip? j = s.clip? j := rfl
@[simp] theorem State.setLane_clip? (s : State) (n : Fin 4) (x : Lane) (j : Nat) :
    (s.setLane n x).clip? j = s.clip? j := rfl
@[simp] theorem State.setPort_clip? (s : State) (p : Fin 4) (x : Port) (j : Nat) :
    (s.setPort p x).clip? j = s.clip? j := rfl
@[simp] theorem State.send_clip? (s : State) (m : Instr) (j : Nat) : (s.send m).clip? j = s.clip? j := rfl
@[simp] theorem State.sendAll_clip? (s : State) (ms : List Instr) (j : Nat) :
    (s.sendAll ms).clip? j = s.clip? j := rfl
@[simp] theorem State.arrive_clip? (s : State) (m : Instr) (j : Nat) : (s.arrive m).clip? j = s.clip? j := rfl
@[simp] theorem State.notify_clip? (s : State) (n : Notice) (j : Nat) : (s.notify n).clip? j = s.clip? j := rfl
@[simp] theorem State.bayNotice_clip? (s : State) (b : Fin 8) (e : BayEvent) (j : Nat) :
    (s.bayNotice b e).clip? j = s.clip? j := rfl
@[simp] theorem State.portNotice_clip? (s : State) (p : Fin 4) (e : PortEvent) (j : Nat) :
    (s.portNotice p e).clip? j = s.clip? j := rfl
@[simp] theorem State.lampSet_clip? (s : State) (b : Fin 8) (j : Nat) : (s.lampSet b).clip? j = s.clip? j := rfl
@[simp] theorem State.joinReady_clip? (s : State) (r : ReadyReply) (j : Nat) :
    (s.joinReady r).clip? j = s.clip? j := rfl
@[simp] theorem State.spend_clip? (s : State) (j : Nat) : (s.spend).clip? j = s.clip? j := rfl
@[simp] theorem State.place_clip? (s : State) (i : Nat) (c : ClaimId) (o : Nat) (bs : List Byte) (j : Nat) :
    (s.place i c o bs).clip? j = s.clip? j := rfl

/-! ## `jobOf` after updates of other blocks -/

@[simp] theorem State.setBay_jobOf (s : State) (b : Fin 8) (x : Bay) (d : Fin 8) :
    (s.setBay b x).jobOf d = s.jobOf d := rfl
@[simp] theorem State.setLane_jobOf (s : State) (n : Fin 4) (x : Lane) (d : Fin 8) :
    (s.setLane n x).jobOf d = s.jobOf d := rfl
@[simp] theorem State.setPort_jobOf (s : State) (p : Fin 4) (x : Port) (d : Fin 8) :
    (s.setPort p x).jobOf d = s.jobOf d := rfl
@[simp] theorem State.send_jobOf (s : State) (m : Instr) (d : Fin 8) : (s.send m).jobOf d = s.jobOf d := rfl
@[simp] theorem State.sendAll_jobOf (s : State) (ms : List Instr) (d : Fin 8) :
    (s.sendAll ms).jobOf d = s.jobOf d := rfl
@[simp] theorem State.arrive_jobOf (s : State) (m : Instr) (d : Fin 8) : (s.arrive m).jobOf d = s.jobOf d := rfl
@[simp] theorem State.notify_jobOf (s : State) (n : Notice) (d : Fin 8) : (s.notify n).jobOf d = s.jobOf d := rfl
@[simp] theorem State.bayNotice_jobOf (s : State) (b : Fin 8) (e : BayEvent) (d : Fin 8) :
    (s.bayNotice b e).jobOf d = s.jobOf d := rfl
@[simp] theorem State.portNotice_jobOf (s : State) (p : Fin 4) (e : PortEvent) (d : Fin 8) :
    (s.portNotice p e).jobOf d = s.jobOf d := rfl
@[simp] theorem State.lampSet_jobOf (s : State) (b : Fin 8) (d : Fin 8) : (s.lampSet b).jobOf d = s.jobOf d := rfl
@[simp] theorem State.joinReady_jobOf (s : State) (r : ReadyReply) (d : Fin 8) :
    (s.joinReady r).jobOf d = s.jobOf d := rfl
@[simp] theorem State.spend_jobOf (s : State) (d : Fin 8) : (s.spend).jobOf d = s.jobOf d := rfl
@[simp] theorem State.place_jobOf (s : State) (i : Nat) (c : ClaimId) (o : Nat) (bs : List Byte) (d : Fin 8) :
    (s.place i c o bs).jobOf d = s.jobOf d := rfl

/-! ## `read?` after updates of other blocks -/

@[simp] theorem State.setBay_read? (s : State) (b : Fin 8) (x : Bay) (j : Nat) :
    (s.setBay b x).read? j = s.read? j := rfl
@[simp] theorem State.setLane_read? (s : State) (n : Fin 4) (x : Lane) (j : Nat) :
    (s.setLane n x).read? j = s.read? j := rfl
@[simp] theorem State.setPort_read? (s : State) (p : Fin 4) (x : Port) (j : Nat) :
    (s.setPort p x).read? j = s.read? j := rfl
@[simp] theorem State.setView_read? (s : State) (b : Fin 8) (x : BayView) (j : Nat) :
    (s.setView b x).read? j = s.read? j := rfl
@[simp] theorem State.setAdm_read? (s : State) (b : Fin 8) (v : Option Admission) (j : Nat) :
    (s.setAdm b v).read? j = s.read? j := rfl
@[simp] theorem State.modJob_read? (s : State) (id : Nat) (f : Job → Job) (j : Nat) :
    (s.modJob id f).read? j = s.read? j := rfl
@[simp] theorem State.modClip_read? (s : State) (id : Nat) (f : Clip → Clip) (j : Nat) :
    (s.modClip id f).read? j = s.read? j := rfl
@[simp] theorem State.modCopy_read? (s : State) (id : Nat) (p : Fin 4) (f : Copy → Copy) (j : Nat) :
    (s.modCopy id p f).read? j = s.read? j := rfl
@[simp] theorem State.send_read? (s : State) (m : Instr) (j : Nat) : (s.send m).read? j = s.read? j := rfl
@[simp] theorem State.sendAll_read? (s : State) (ms : List Instr) (j : Nat) :
    (s.sendAll ms).read? j = s.read? j := rfl
@[simp] theorem State.arrive_read? (s : State) (m : Instr) (j : Nat) : (s.arrive m).read? j = s.read? j := rfl
@[simp] theorem State.notify_read? (s : State) (n : Notice) (j : Nat) : (s.notify n).read? j = s.read? j := rfl
@[simp] theorem State.bayNotice_read? (s : State) (b : Fin 8) (e : BayEvent) (j : Nat) :
    (s.bayNotice b e).read? j = s.read? j := rfl
@[simp] theorem State.portNotice_read? (s : State) (p : Fin 4) (e : PortEvent) (j : Nat) :
    (s.portNotice p e).read? j = s.read? j := rfl
@[simp] theorem State.lampSet_read? (s : State) (b : Fin 8) (j : Nat) : (s.lampSet b).read? j = s.read? j := rfl
@[simp] theorem State.spend_read? (s : State) (j : Nat) : (s.spend).read? j = s.read? j := rfl
@[simp] theorem State.place_read? (s : State) (i : Nat) (c : ClaimId) (o : Nat) (bs : List Byte) (j : Nat) :
    (s.place i c o bs).read? j = s.read? j := rfl

end Sys2Proof.Machine
end

