-- ==== Sys2Proof/Laws/Pool.lean ====
section
/-! SUPPORT. What the staging pool's operations leave unchanged, one lemma for each operation. -/

namespace Sys2Proof.Machine

theorem State.offerOne_frame {s t : State} (h : s.offerOne = some t) :
    t.bays = s.bays ∧ t.arb = s.arb ∧ t.ports = s.ports ∧ t.jm = s.jm ∧ t.lki = s.lki ∧ t.fresh = s.fresh ∧
      t.pending = s.pending ∧ t.pool.mem = s.pool.mem ∧ t.pool.window = s.pool.window ∧ s.wire <+: t.wire := by
  unfold State.offerOne at h
  split at h
  · cases h
    exact ⟨rfl, rfl, rfl, rfl, rfl, rfl, rfl, rfl, rfl, ⟨_, rfl⟩⟩
  · cases h

theorem State.offers_frame (n : Nat) (s : State) :
    (State.offers n s).bays = s.bays ∧ (State.offers n s).arb = s.arb ∧ (State.offers n s).ports = s.ports ∧
      (State.offers n s).jm = s.jm ∧ (State.offers n s).lki = s.lki ∧ (State.offers n s).fresh = s.fresh ∧
      (State.offers n s).pending = s.pending ∧ (State.offers n s).pool.mem = s.pool.mem ∧
      (State.offers n s).pool.window = s.pool.window ∧ s.wire <+: (State.offers n s).wire := by
  induction n generalizing s with
  | zero => exact ⟨rfl, rfl, rfl, rfl, rfl, rfl, rfl, rfl, rfl, List.prefix_refl _⟩
  | succ n ih =>
    unfold State.offers
    split
    · rename_i t ht
      obtain ⟨a1, a2, a3, a4, a5, a6, a7, a8, a9, a10⟩ := State.offerOne_frame ht
      obtain ⟨b1, b2, b3, b4, b5, b6, b7, b8, b9, b10⟩ := ih t
      exact ⟨b1.trans a1, b2.trans a2, b3.trans a3, b4.trans a4, b5.trans a5, b6.trans a6, b7.trans a7, b8.trans a8,
        b9.trans a9, a10.trans b10⟩
    · exact ⟨rfl, rfl, rfl, rfl, rfl, rfl, rfl, rfl, rfl, List.prefix_refl _⟩

/-- A round of offers changes the extents, the waiting requests and what is in transit only. -/
@[simp] theorem State.offerRound_frame (s : State) :
    s.offerRound.bays = s.bays ∧ s.offerRound.arb = s.arb ∧ s.offerRound.ports = s.ports ∧ s.offerRound.jm = s.jm ∧
      s.offerRound.lki = s.lki ∧ s.offerRound.fresh = s.fresh ∧ s.offerRound.pending = s.pending ∧
      s.offerRound.pool.mem = s.pool.mem ∧ s.offerRound.pool.window = s.pool.window := by
  obtain ⟨a1, a2, a3, a4, a5, a6, a7, a8, a9, a10⟩ := State.offers_frame s.pool.waits.length s
  exact ⟨a1, a2, a3, a4, a5, a6, a7, a8, a9⟩

theorem State.offerRound_wire (s : State) : s.wire <+: s.offerRound.wire :=
  (State.offers_frame s.pool.waits.length s).2.2.2.2.2.2.2.2.2

/-- A round of offers sends offers and nothing else. -/
theorem State.offers_wire (n : Nat) (s : State) : ∃ ms, (State.offers n s).wire = s.wire ++ ms ∧
    ∀ m ∈ ms, (∃ b c, m = .poolOffer b c) ∨ ∃ p i c, m = .siblingOffer p i c := by
  induction n generalizing s with
  | zero => exact ⟨[], (List.append_nil _).symm, by simp⟩
  | succ n ih =>
    unfold State.offers
    split
    · rename_i t ht
      obtain ⟨ms, hms, hm⟩ := ih t
      unfold State.offerOne at ht
      split at ht
      · rename_i i w _ _
        cases ht
        refine ⟨offerMessage w i :: ms, by simpa using hms, ?_⟩
        intro m hmem
        rcases List.mem_cons.1 hmem with rfl | hmem
        · unfold offerMessage
          split
          · exact .inl ⟨_, _, rfl⟩
          · exact .inr ⟨_, _, _, rfl⟩
        · exact hm m hmem
      · cases ht
    · exact ⟨[], (List.append_nil _).symm, by simp⟩

theorem State.offerRound_offers (s : State) : ∃ ms, s.offerRound.wire = s.wire ++ ms ∧
    ∀ m ∈ ms, (∃ b c, m = .poolOffer b c) ∨ ∃ p i c, m = .siblingOffer p i c :=
  State.offers_wire _ s

theorem State.offerOne_waits {s t : State} (h : s.offerOne = some t) : t.pool.waits.length + 1 = s.pool.waits.length := by
  unfold State.offerOne at h
  split at h
  · rename_i i w hi hw
    cases h
    have hm : w ∈ s.pool.waits := by
      have h1 := List.mem_of_find?_eq_some hw
      simp only [orderedWaits, waitsOfLane, waitsOfPort, List.mem_append, List.mem_flatMap, List.mem_filter] at h1
      rcases h1 with ⟨_, _, h2, _⟩ | ⟨_, _, h2, _⟩ <;> exact h2
    have := List.length_erase_of_mem hm
    have := List.length_pos_of_mem hm
    show (s.pool.waits.erase w).length + 1 = _
    omega
  · cases h

theorem State.offers_end (n : Nat) (s : State) (h : s.pool.waits.length ≤ n) :
    nextWait (State.offers n s).pool = none ∨ lowestFree (State.offers n s).pool = none := by
  induction n generalizing s with
  | zero =>
    have : s.pool.waits = [] := List.length_eq_zero_iff.1 (Nat.le_zero.1 h)
    exact .inl (by simp [State.offers, nextWait, orderedWaits, waitsOfLane, waitsOfPort, this])
  | succ n ih =>
    unfold State.offers
    split
    · rename_i t ht
      have := State.offerOne_waits ht
      exact ih t (by omega)
    · rename_i hn
      unfold State.offerOne at hn
      split at hn
      · cases hn
      · rename_i hx
        rcases hf : lowestFree s.pool with _ | i
        · exact .inr rfl
        · rcases hw : nextWait s.pool with _ | w
          · exact .inl rfl
          · exact (hx i w hf hw).elim

/-- A round ends when no request is below the window or no extent is FREE (R82). -/
theorem State.offerRound_end (s : State) : nextWait s.offerRound.pool = none ∨ lowestFree s.offerRound.pool = none :=
  State.offers_end _ s (le_refl _)

/-- The order of the waiting requests, by their places. -/
theorem orderedWaits_eq (ws : List Wait) :
    orderedWaits ws = (List.range 8).flatMap (fun k => ws.filter (fun v => roundPlace v.requester == k)) := by
  have hl : ∀ n : Fin 4, waitsOfLane ws n = ws.filter (fun v => roundPlace v.requester == n.val) := by
    intro n
    refine List.filter_congr fun v _ => ?_
    cases v.requester with
    | lane m b => exact Bool.eq_iff_iff.2 (by simp [roundPlace, Fin.ext_iff])
    | engine q => simp [roundPlace]; omega
  have hp : ∀ n : Fin 4, waitsOfPort ws n = ws.filter (fun v => roundPlace v.requester == 4 + n.val) := by
    intro n
    refine List.filter_congr fun v _ => ?_
    cases v.requester with
    | lane m b => simp [roundPlace]; omega
    | engine q => exact Bool.eq_iff_iff.2 (by simp [roundPlace, Fin.ext_iff])
  have hr : List.range 8 = [0, 1, 2, 3, 4, 5, 6, 7] := rfl
  have hf : List.finRange 4 = [0, 1, 2, 3] := by decide
  simp only [orderedWaits, hr, hf, List.flatMap_cons, List.flatMap_nil, hl, hp, List.append_assoc, List.append_nil]
  rfl

/-- The request that a round serves next. -/
theorem nextWait_iff (p : Pool) (w : Wait) : nextWait p = some w ↔ FirstServed p w := by
  have hb : ∀ clip, belowWindow p clip = true ↔ (p.extents.filter (fun e => e.2.claim.clip == clip)).length < p.window :=
    fun _ => decide_eq_true_iff
  simp only [nextWait, List.find?_eq_some_iff_append, orderedWaits_eq, FirstServed, Bool.not_eq_true', hb,
    ← Bool.not_eq_true, Nat.not_lt]
  constructor
  · rintro ⟨h, before, after, e, hb⟩
    exact ⟨before, after, e, h, hb⟩
  · rintro ⟨before, after, e, h, hb⟩
    exact ⟨h, before, after, e, hb⟩

theorem State.offers_round (n : Nat) (s : State) (h : s.pool.waits.length ≤ n) : OfferRound s (State.offers n s) := by
  induction n generalizing s with
  | zero =>
    have e := State.offers_end 0 s h
    refine .ends s (e.symm.imp id fun hw w hs => ?_)
    rw [State.offers, (nextWait_iff _ w).2 hs] at hw
    cases hw
  | succ n ih =>
    unfold State.offers
    split
    · rename_i t ht
      have hl := State.offerOne_waits ht
      unfold State.offerOne at ht
      split at ht
      · rename_i i w hi hw
        cases ht
        exact .offer s _ i w hi ((nextWait_iff _ w).1 hw) (ih _ (Nat.le_of_succ_le_succ (hl.trans_le h)))
      · cases ht
    · rename_i hn
      refine .ends s ?_
      rcases hf : lowestFree s.pool with _ | i
      · exact .inl rfl
      · refine .inr fun w hw => ?_
        unfold State.offerOne at hn
        rw [hf, (nextWait_iff _ w).2 hw] at hn
        cases hn

/-- A round of offers is one as R82 words it. -/
theorem State.offerRound_round (s : State) : OfferRound s s.offerRound := State.offers_round _ s (le_refl _)

/-- Without waiting requests a round offers nothing. -/
theorem State.offerRound_of_noWaits (s : State) (h : s.pool.waits = []) : s.offerRound = s := by
  simp [State.offerRound, h, State.offers]

@[simp] theorem State.discard_frame (s : State) (hit : ClaimId → Bool) :
    (s.discard hit).bays = s.bays ∧ (s.discard hit).arb = s.arb ∧ (s.discard hit).ports = s.ports ∧
      (s.discard hit).jm = s.jm ∧ (s.discard hit).lki = s.lki ∧ (s.discard hit).fresh = s.fresh ∧
      (s.discard hit).pending = s.pending ∧ (s.discard hit).pool.mem = s.pool.mem ∧
      (s.discard hit).pool.window = s.pool.window := by
  simp [State.discard]

/-- A filler's bytes leave the requests and the window as they are. -/
@[simp] theorem poolPlace_frame (p : Pool) (i : Nat) (c : ClaimId) (o : Nat) (bs : List Byte) :
    (poolPlace p i c o bs).waits = p.waits ∧ (poolPlace p i c o bs).window = p.window := by
  unfold poolPlace
  repeat' split
  all_goals simp

/-- A release leaves the requests, the window and the buffer memory as they are. -/
@[simp] theorem releaseOne_frame (q : Fin 4) (p : Pool) (x : Nat × ClaimId) :
    (releaseOne q p x).waits = p.waits ∧ (releaseOne q p x).window = p.window ∧ (releaseOne q p x).mem = p.mem := by
  unfold releaseOne
  repeat' split
  all_goals simp

end Sys2Proof.Machine
end

