-- ==== Sys2Proof/Laws/GiveBack.lean ====
section
/-! SUPPORT. Everything that the answer to a claim no longer awaited can do (R80; log 18). -/

namespace Sys2Proof.Machine

@[simp] theorem State.giveBack_frame (s : State) (a : Option SetAside) (r : Requester) (c : ClaimId) (index : Option Nat) :
    (s.giveBack a r c index).bays = s.bays ∧ (s.giveBack a r c index).arb = s.arb ∧
      (s.giveBack a r c index).ports = s.ports ∧ (s.giveBack a r c index).jm = s.jm ∧
      (s.giveBack a r c index).lki = s.lki ∧ (s.giveBack a r c index).fresh = s.fresh ∧
      (s.giveBack a r c index).pending = s.pending ∧ (s.giveBack a r c index).pool.mem = s.pool.mem ∧
      (s.giveBack a r c index).pool.window = s.pool.window := by
  unfold State.giveBack
  repeat' split
  all_goals simp

/-- What a filler gives up adds offers to what is in transit, and nothing else. -/
theorem State.giveBack_wire (s : State) (a : Option SetAside) (r : Requester) (c : ClaimId) (index : Option Nat) :
    OffersFollow s (s.giveBack a r c index) := by
  have h : OffersFollow s s := ⟨[], (List.append_nil _).symm, by simp⟩
  unfold State.giveBack
  split
  · exact h
  · split
    · rename_i i
      split
      · exact State.offerRound_offers ({ s with pool := { s.pool with extents := dropExtent s.pool.extents i } } : State)
      · exact h
    · split <;> exact h

theorem State.giveBack_spec (s : State) (a : Option SetAside) (r : Requester) (c : ClaimId) (index : Option Nat) :
    GivenBack s (s.giveBack a r c index) a r c index := by
  refine ⟨fun h => by simp [State.giveBack, h], fun h => ⟨fun hi => ⟨fun hw => ?_, fun hw => ?_⟩, fun i hi => ?_⟩⟩
  · simp [State.giveBack, h, hi, State.stillWaits, hw]
  · simp [State.giveBack, h, hi, State.stillWaits, Nat.not_lt.mpr hw]
  refine ⟨fun hf => by simp [State.giveBack, h, hi, hf], fun hf => ?_⟩
  have e : s.giveBack a r c index =
      ({ s with pool := { s.pool with extents := dropExtent s.pool.extents i } } : State).offerRound := by
    simp [State.giveBack, h, hi, hf]
  refine ⟨by simp, by simp, by simp, by simp, by simp, by simp, by simp, by simp, ?_, fun hw => ?_, ?_, ?_⟩
  · rw [e]
    exact State.offerRound_offers ({ s with pool := { s.pool with extents := dropExtent s.pool.extents i } } : State)
  · have e' := State.offerRound_of_noWaits
      ({ s with pool := { s.pool with extents := dropExtent s.pool.extents i } } : State) hw
    rw [e, e']
    exact ⟨rfl, rfl⟩
  · rw [e]
    exact State.offerRound_round _
  · rw [e]
    exact State.offerRound_end _

@[simp] theorem State.giveBackAll_frame (s : State) (gs : List Given) :
    (s.giveBackAll gs).bays = s.bays ∧ (s.giveBackAll gs).arb = s.arb ∧ (s.giveBackAll gs).ports = s.ports ∧
      (s.giveBackAll gs).jm = s.jm ∧ (s.giveBackAll gs).lki = s.lki ∧ (s.giveBackAll gs).fresh = s.fresh ∧
      (s.giveBackAll gs).pending = s.pending ∧ (s.giveBackAll gs).pool.mem = s.pool.mem ∧
      (s.giveBackAll gs).pool.window = s.pool.window := by
  induction gs generalizing s with
  | nil => simp [State.giveBackAll]
  | cons g gs ih =>
    have h := ih (s.giveBack g.aside g.requester g.claim g.index)
    simpa [State.giveBackAll] using h

@[simp] theorem State.giveBackAll_nil (s : State) : s.giveBackAll [] = s := rfl

theorem State.giveBackAll_wire (s : State) (gs : List Given) : OffersFollow s (s.giveBackAll gs) := by
  induction gs generalizing s with
  | nil => exact ⟨[], (List.append_nil _).symm, by simp⟩
  | cons g gs ih =>
    obtain ⟨m1, h1, k1⟩ := s.giveBack_wire g.aside g.requester g.claim g.index
    obtain ⟨m2, h2, k2⟩ := ih (s.giveBack g.aside g.requester g.claim g.index)
    refine ⟨m1 ++ m2, ?_, fun m hm => (List.mem_append.1 hm).elim (k1 m) (k2 m)⟩
    rw [← List.append_assoc, ← h1]
    exact h2

/-- What a filler gives up is given back one after another, each as `giveBack` says. -/
theorem State.giveBackAll_spec (s : State) (gs : List Given) : AllGivenBack gs s (s.giveBackAll gs) := by
  induction gs generalizing s with
  | nil => rfl
  | cons g gs ih => exact ⟨_, State.giveBack_spec s g.aside g.requester g.claim g.index, ih _⟩

/-- A command that ends with a giving up has the `Giving` of what the rest of it leaves. -/
theorem State.giveBackAll_giving (s : State) (gs : List Given) (P : State → Prop) (h : P s) : Giving gs P (s.giveBackAll gs) :=
  ⟨s, h, s.giveBackAll_spec gs⟩

/-! ## What a filler has of the pool -/

theorem mem_laneGiven (n : Fin 4) (l : Lane) (g : Given) :
    g ∈ laneGiven n l ↔ ∃ b item d i, l.holder = some (.work b item) ∧ l.unit = some d ∧ l.extent = some i ∧
      g = ⟨.lane n b, none, claimOf item d.count, some i⟩ := by
  unfold laneGiven
  constructor
  · intro h
    split at h
    · rename_i b item d i hh hu he
      exact ⟨b, item, d, i, hh, hu, he, List.mem_singleton.1 h⟩
    · cases h
  · rintro ⟨b, item, d, i, hh, hu, he, rfl⟩
    simp [hh, hu, he]

theorem mem_bayPlaces (p : Pool) (b : Fin 8) (item : WorkItem) (g : Given) :
    g ∈ bayPlaces p b item ↔ ∃ w ∈ p.waits, ∃ n, w.requester = .lane n b ∧ itemOf w.claim = item ∧
      g = ⟨w.requester, none, w.claim, none⟩ := by
  have hb : ∀ r, servesBay b r = true ↔ ∃ n, r = .lane n b := by
    intro r
    cases r <;> simp [servesBay]
  simp only [bayPlaces, List.mem_map, List.mem_filter, Bool.and_eq_true, decide_eq_true_eq, hb]
  constructor
  · rintro ⟨w, ⟨hw, ⟨n, hn⟩, hi⟩, rfl⟩
    exact ⟨w, hw, n, hn, hi, rfl⟩
  · rintro ⟨w, hw, n, hn, hi, rfl⟩
    exact ⟨w, ⟨hw, ⟨n, hn⟩, hi⟩, rfl⟩

theorem State.mem_engineGiven (s : State) (p : Fin 4) (g : Given) :
    g ∈ s.engineGiven p ↔ ∃ e rest i rp, (s.port p).verifyQ = e :: rest ∧ (s.port p).engine.extent = some i ∧
      e.repairPort = some rp ∧ g = ⟨.engine p, engineAside s.pool p i, siblingClaim e rp (s.port p).engine.chunk, some i⟩ := by
  unfold State.engineGiven
  constructor
  · intro h
    split at h
    · rename_i e rest i hq hi
      split at h
      · rename_i rp hr
        exact ⟨e, rest, i, rp, hq, hi, hr, List.mem_singleton.1 h⟩
      · cases h
    · cases h
  · rintro ⟨e, rest, i, rp, hq, hi, hr, rfl⟩
    simp [hq, hi, hr]

end Sys2Proof.Machine
end

