-- ==== Sys2Proof/Laws/Link.lean ====
section
/-! SUPPORT. What the link interface's operations leave unchanged, and what they do to the record of replies. -/

namespace Sys2Proof.Machine

/-! ## One act of the link interface -/

/-- A frame sent changes the link interface and the count of free values only; the reply log, the request in hand and the
transfers that wait to be taken stand. -/
theorem State.sendOne_spec {s t : State} (h : s.sendOne = some t) :
    t.bays = s.bays ∧ t.arb = s.arb ∧ t.pool = s.pool ∧ t.ports = s.ports ∧ t.jm = s.jm ∧ t.wire = s.wire ∧
      t.pending = s.pending ∧ t.replyLog = s.replyLog ∧ t.lki.receive = s.lki.receive ∧ t.lki.up = s.lki.up ∧
      t.lki.inHand = s.lki.inHand ∧ t.lki.notices.length ≤ s.lki.notices.length ∧
      t.lki.reads.length ≤ s.lki.reads.length ∧ t.lki.freshStart = s.lki.freshStart ∧
      t.lki.droppedMark = s.lki.droppedMark ∧ t.noticeLog = s.noticeLog := by
  unfold State.sendOne at h
  split at h
  · rename_i r rest hr
    cases h
    refine ⟨rfl, rfl, rfl, rfl, rfl, rfl, rfl, ?_, rfl, rfl, rfl, le_refl _, ?_, rfl, rfl, ?_⟩
    · simp [State.replyLog, hr]
    · simp only [dropRead]
      split
      · exact le_refl _
      · exact List.length_filter_le _ _
    · simp [State.noticeLog]
  · rename_i hr
    split at h
    · rename_i n rest hn
      cases h
      refine ⟨rfl, rfl, rfl, rfl, rfl, rfl, rfl, ?_, rfl, rfl, rfl, ?_, le_refl _, rfl, rfl, ?_⟩
      · simp [State.replyLog, hr]
      · simp [hn]
      · simp [State.noticeLog, hn]
    · exact absurd h (by simp)

/-- A transfer taken changes the link interface and what is in transit only; the reply log grows at its end at most. -/
theorem State.takeTransfer_spec (s : State) (x : List Byte) :
    (s.takeTransfer x).bays = s.bays ∧ (s.takeTransfer x).arb = s.arb ∧ (s.takeTransfer x).pool = s.pool ∧
      (s.takeTransfer x).ports = s.ports ∧ (s.takeTransfer x).jm = s.jm ∧ s.wire <+: (s.takeTransfer x).wire ∧
      (s.takeTransfer x).pending = s.pending ∧ s.replyLog <+: (s.takeTransfer x).replyLog ∧
      (s.takeTransfer x).lki.receive = s.lki.receive ∧ (s.takeTransfer x).lki.up = s.lki.up ∧
      (s.takeTransfer x).lki.notices = s.lki.notices ∧ (s.takeTransfer x).lki.reads = s.lki.reads ∧
      (s.takeTransfer x).lki.freshStart = s.lki.freshStart ∧
      (s.takeTransfer x).lki.droppedMark = s.lki.droppedMark ∧ (s.takeTransfer x).noticeLog = s.noticeLog ∧
      ∀ k n, handOrphan s.lki k n = false → handOrphan (s.takeTransfer x).lki k n = false := by
  unfold State.takeTransfer
  split
  · refine ⟨rfl, rfl, rfl, rfl, rfl, List.prefix_refl _, rfl, ?_, rfl, rfl, rfl, rfl, rfl, rfl, rfl, fun _ _ h => h⟩
    simp [State.replyLog]
  · exact ⟨rfl, rfl, rfl, rfl, rfl, ⟨_, rfl⟩, rfl, List.prefix_refl _, rfl, rfl, rfl, rfl, rfl, rfl, rfl,
      fun _ _ _ => by simp [handOrphan]⟩

/-- What holds between a state and the state after the link interface has acted: the other blocks stand, messages only
join those in transit, and replies only join the log. -/
def LinkOnly (s t : State) : Prop :=
  t.bays = s.bays ∧ t.arb = s.arb ∧ t.pool = s.pool ∧ t.ports = s.ports ∧ t.jm = s.jm ∧ s.wire <+: t.wire ∧
    t.pending = s.pending ∧ s.replyLog <+: t.replyLog ∧ t.lki.notices.length ≤ s.lki.notices.length ∧
    t.lki.reads.length ≤ s.lki.reads.length ∧ t.lki.up = s.lki.up ∧ t.lki.freshStart = s.lki.freshStart ∧
    t.lki.droppedMark = s.lki.droppedMark ∧ t.noticeLog = s.noticeLog ∧
    ∀ k n, handOrphan s.lki k n = false → handOrphan t.lki k n = false

theorem LinkOnly.refl (s : State) : LinkOnly s s :=
  ⟨rfl, rfl, rfl, rfl, rfl, List.prefix_refl _, rfl, List.prefix_refl _, le_refl _, le_refl _, rfl, rfl, rfl, rfl, fun _ _ h => h⟩

theorem LinkOnly.trans {s t u : State} (h : LinkOnly s t) (k : LinkOnly t u) : LinkOnly s u := by
  obtain ⟨a1, a2, a3, a4, a5, a6, a7, a8, a9, a10, a11, a12, a13, a14, a15⟩ := h
  obtain ⟨b1, b2, b3, b4, b5, b6, b7, b8, b9, b10, b11, b12, b13, b14, b15⟩ := k
  exact ⟨b1.trans a1, b2.trans a2, b3.trans a3, b4.trans a4, b5.trans a5, a6.trans b6, b7.trans a7, a8.trans b8,
    b9.trans a9, b10.trans a10, b11.trans a11, b12.trans a12, b13.trans a13, b14.trans a14,
    fun k n h => b15 k n (a15 k n h)⟩

theorem State.linkAct_spec {s t : State} (h : s.linkAct = some t) :
    LinkOnly s t ∧ (s.lki.receive = [] → t.lki.receive = [] ∧ t.replyLog = s.replyLog) := by
  unfold State.linkAct at h
  by_cases hup : s.lki.up = false
  · simp [hup] at h
  · rw [if_neg hup] at h
    split at h
    · rename_i u hu
      cases h
      by_cases hw : s.lki.inWaiting = 0
      · simp [hw] at hu
      rw [if_neg hw] at hu
      obtain ⟨a1, a2, a3, a4, a5, a6, a7, a8, a9, a10, a11, a12, a13, a14, a15, a16⟩ := State.sendOne_spec hu
      exact ⟨⟨a1, a2, a3, a4, a5, ⟨[], by simp [a6]⟩, a7, ⟨[], (List.append_nil _).trans a8.symm⟩, a12, a13, a10, a14, a15, a16,
        fun k n h => by simpa only [handOrphan, a11] using h⟩,
        fun hr => ⟨a9.trans hr, a8⟩⟩
    · split at h
      · rename_i x rest hr
        by_cases hm : mayTakeRequest s.lki = true
        swap
        · simp [hm] at h
        rw [if_pos hm] at h
        cases h
        obtain ⟨a1, a2, a3, a4, a5, a6, a7, a8, a9, a10, a11, a12, a13, a14, a15, a16⟩ :=
          State.takeTransfer_spec { s with lki := { s.lki with receive := rest } } x
        exact ⟨⟨a1, a2, a3, a4, a5, a6, a7, a8, by rw [a11], by rw [a12], a10, a13, a14, a15, a16⟩,
          fun e => by rw [hr] at e; simp at e⟩
      · simp at h

theorem State.linkActs_spec (n : Nat) (s : State) :
    LinkOnly s (State.linkActs n s) ∧ (s.lki.receive = [] → (State.linkActs n s).replyLog = s.replyLog) := by
  induction n generalizing s with
  | zero => exact ⟨LinkOnly.refl s, fun _ => rfl⟩
  | succ n ih =>
    unfold State.linkActs
    split
    · rename_i t ht
      obtain ⟨h1, h2⟩ := State.linkAct_spec ht
      exact ⟨h1.trans (ih t).1, fun hr => ((ih t).2 (h2 hr).1).trans (h2 hr).2⟩
    · exact ⟨LinkOnly.refl s, fun _ => rfl⟩

/-- While the host asks for no transfer, nothing is sent. -/
theorem State.linkActs_unasked (n : Nat) (s : State) (h : s.lki.inWaiting = 0) :
    (State.linkActs n s).lki.sent = s.lki.sent ∧ (State.linkActs n s).lki.notices = s.lki.notices ∧
      (State.linkActs n s).lki.reads = s.lki.reads ∧ (State.linkActs n s).lki.inWaiting = 0 := by
  induction n generalizing s with
  | zero => exact ⟨rfl, rfl, rfl, h⟩
  | succ n ih =>
    unfold State.linkActs
    split
    · rename_i t ht
      have key : t.lki.sent = s.lki.sent ∧ t.lki.notices = s.lki.notices ∧ t.lki.reads = s.lki.reads ∧
          t.lki.inWaiting = 0 := by
        unfold State.linkAct at ht
        by_cases hup : s.lki.up = false
        · simp [hup] at ht
        · rw [if_neg hup] at ht
          simp only [h, if_true] at ht
          split at ht
          · rename_i x rest hr
            by_cases hm : mayTakeRequest s.lki = true
            swap
            · simp [hm] at ht
            rw [if_pos hm] at ht
            cases ht
            unfold State.takeTransfer
            split <;> exact ⟨rfl, rfl, rfl, rfl⟩
          · simp at ht
      obtain ⟨a1, a2, a3, a4⟩ := key
      obtain ⟨b1, b2, b3, b4⟩ := ih t a4
      exact ⟨b1.trans a1, b2.trans a2, b3.trans a3, b4⟩
    · exact ⟨rfl, rfl, rfl, h⟩

/-- Everything that settling the link can do. -/
theorem State.linkSettle_spec (s : State) : LinkOnly s s.linkSettle := (State.linkActs_spec _ s).1

/-- With no transfer of the host waiting to be taken, settling the link adds no reply. -/
theorem State.linkSettle_replyLog (s : State) (h : s.lki.receive = []) : s.linkSettle.replyLog = s.replyLog :=
  (State.linkActs_spec _ s).2 h

@[simp] theorem State.linkSettle_bays (s : State) : s.linkSettle.bays = s.bays := s.linkSettle_spec.1
@[simp] theorem State.linkSettle_arb (s : State) : s.linkSettle.arb = s.arb := s.linkSettle_spec.2.1
@[simp] theorem State.linkSettle_pool (s : State) : s.linkSettle.pool = s.pool := s.linkSettle_spec.2.2.1
@[simp] theorem State.linkSettle_ports (s : State) : s.linkSettle.ports = s.ports := s.linkSettle_spec.2.2.2.1
@[simp] theorem State.linkSettle_jm (s : State) : s.linkSettle.jm = s.jm := s.linkSettle_spec.2.2.2.2.1
@[simp] theorem State.linkSettle_pending (s : State) : s.linkSettle.pending = s.pending := s.linkSettle_spec.2.2.2.2.2.2.1
theorem State.linkSettle_wire (s : State) : s.wire <+: s.linkSettle.wire := s.linkSettle_spec.2.2.2.2.2.1

/-! ## Replies -/

theorem State.dropHand_spec (s : State) (k n : Nat) :
    LinkOnly s (s.dropHand k n) ∧ (s.dropHand k n).replyLog = s.replyLog ∧
      (s.dropHand k n).lki.receive = s.lki.receive ∧ (s.dropHand k n).lki.reads = s.lki.reads ∧
      (s.dropHand k n).wire = s.wire := by
  unfold State.dropHand
  split_ifs
  · exact ⟨⟨rfl, rfl, rfl, rfl, rfl, List.prefix_refl _, rfl, List.prefix_refl _, le_refl _, le_refl _, rfl, rfl, rfl, rfl,
      fun _ _ _ => by simp [handOrphan]⟩,
      rfl, rfl, rfl, rfl⟩
  · exact ⟨LinkOnly.refl s, rfl, rfl, rfl, rfl⟩

theorem State.joinReady_spec (s : State) (r : ReadyReply) :
    LinkOnly s (s.joinReady r) ∧ (s.joinReady r).replyLog = s.replyLog ++ [r.reply] := by
  have h : (s.joinReady r).replyLog = s.replyLog ++ [r.reply] := by simp [State.replyLog]
  exact ⟨⟨rfl, rfl, rfl, rfl, rfl, List.prefix_refl _, rfl, ⟨_, h.symm⟩, le_refl _, le_refl _, rfl, rfl, rfl,
    rfl, fun _ _ h => h⟩, h⟩

/-- Everything that a reply can do. -/
theorem State.answer_spec (s : State) (k n : Nat) (c : ReplyCode) (b : ReplyBody) : LinkOnly s (s.answer k n c b) := by
  unfold State.answer
  split_ifs
  · exact (s.dropHand_spec k n).1.trans (State.linkSettle_spec _)
  · exact ((s.dropHand_spec k n).1.trans (State.joinReady_spec _ _).1).trans (State.linkSettle_spec _)

/-- The reply of a request whose link has not been reset joins the log. -/
theorem State.answer_replyLog (s : State) (k n : Nat) (c : ReplyCode) (b : ReplyBody)
    (h : handOrphan s.lki k n = false) : s.replyLog ++ [⟨k, n, c, b⟩] <+: (s.answer k n c b).replyLog := by
  unfold State.answer
  rw [if_neg (by simp [h])]
  have h1 := (State.joinReady_spec (s.dropHand k n) ⟨none, ⟨k, n, c, b⟩⟩).2
  rw [(s.dropHand_spec k n).2.1] at h1
  rw [← h1]
  exact (State.linkSettle_spec _).2.2.2.2.2.2.2.1

/-- The same as the statements say it. -/
theorem State.answer_replies (s : State) (k n : Nat) (c : ReplyCode) (b : ReplyBody) :
    Replies s (s.answer k n c b) ⟨k, n, c, b⟩ :=
  fun h => ⟨[], by simpa using s.answer_replyLog k n c b h⟩

/-- A reply after work that itself only adds replies. -/
theorem Replies.of_le {s u t : State} {r : Reply} (h : s.replyLog <+: u.replyLog)
    (ho : ∀ k n, handOrphan s.lki k n = false → handOrphan u.lki k n = false) (hr : Replies u t r) : Replies s t r := by
  intro hs
  obtain ⟨m, hm⟩ := hr (ho _ _ hs)
  obtain ⟨x, hx⟩ := h
  exact ⟨x ++ m, by rw [← List.append_assoc s.replyLog x m, hx]; exact hm⟩

/-- A reply after work that leaves the link interface as it is. -/
theorem Replies.of_lki {s u t : State} {r : Reply} (h : u.lki = s.lki) (hr : Replies u t r) : Replies s t r :=
  Replies.of_le (by simp [State.replyLog, h]) (fun _ _ => by simp [h]) hr

/-- And nothing else joins it when no transfer waits to be taken. -/
theorem State.answer_replyLog_eq (s : State) (k n : Nat) (c : ReplyCode) (b : ReplyBody)
    (h : handOrphan s.lki k n = false) (hr : s.lki.receive = []) :
    (s.answer k n c b).replyLog = s.replyLog ++ [⟨k, n, c, b⟩] := by
  unfold State.answer
  rw [if_neg (by simp [h]), State.linkSettle_replyLog, (State.joinReady_spec _ _).2, (s.dropHand_spec k n).2.1]
  simpa using (s.dropHand_spec k n).2.2.1.trans hr

/-- After a link reset the reply is discarded. -/
theorem State.answer_orphan (s : State) (k n : Nat) (c : ReplyCode) (b : ReplyBody)
    (h : handOrphan s.lki k n = true) : s.answer k n c b = (s.dropHand k n).linkSettle := by
  unfold State.answer
  rw [if_pos h]

@[simp] theorem State.answer_bays (s : State) (k n : Nat) (c : ReplyCode) (b : ReplyBody) :
    (s.answer k n c b).bays = s.bays := (s.answer_spec k n c b).1
@[simp] theorem State.answer_arb (s : State) (k n : Nat) (c : ReplyCode) (b : ReplyBody) :
    (s.answer k n c b).arb = s.arb := (s.answer_spec k n c b).2.1
@[simp] theorem State.answer_pool (s : State) (k n : Nat) (c : ReplyCode) (b : ReplyBody) :
    (s.answer k n c b).pool = s.pool := (s.answer_spec k n c b).2.2.1
@[simp] theorem State.answer_ports (s : State) (k n : Nat) (c : ReplyCode) (b : ReplyBody) :
    (s.answer k n c b).ports = s.ports := (s.answer_spec k n c b).2.2.2.1
@[simp] theorem State.answer_jm (s : State) (k n : Nat) (c : ReplyCode) (b : ReplyBody) :
    (s.answer k n c b).jm = s.jm := (s.answer_spec k n c b).2.2.2.2.1
@[simp] theorem State.answer_pending (s : State) (k n : Nat) (c : ReplyCode) (b : ReplyBody) :
    (s.answer k n c b).pending = s.pending := (s.answer_spec k n c b).2.2.2.2.2.2.1
theorem State.answer_wire (s : State) (k n : Nat) (c : ReplyCode) (b : ReplyBody) :
    s.wire <+: (s.answer k n c b).wire := (s.answer_spec k n c b).2.2.2.2.2.1

/-- A refusal is a reply. -/
theorem State.refuse_spec (s : State) (k n : Nat) (c : ReplyCode) : LinkOnly s (s.refuse k n c) := s.answer_spec k n c _

@[simp] theorem State.refuse_bays (s : State) (k n : Nat) (c : ReplyCode) : (s.refuse k n c).bays = s.bays :=
  (s.refuse_spec k n c).1
@[simp] theorem State.refuse_arb (s : State) (k n : Nat) (c : ReplyCode) : (s.refuse k n c).arb = s.arb :=
  (s.refuse_spec k n c).2.1
@[simp] theorem State.refuse_pool (s : State) (k n : Nat) (c : ReplyCode) : (s.refuse k n c).pool = s.pool :=
  (s.refuse_spec k n c).2.2.1
@[simp] theorem State.refuse_ports (s : State) (k n : Nat) (c : ReplyCode) : (s.refuse k n c).ports = s.ports :=
  (s.refuse_spec k n c).2.2.2.1
@[simp] theorem State.refuse_jm (s : State) (k n : Nat) (c : ReplyCode) : (s.refuse k n c).jm = s.jm :=
  (s.refuse_spec k n c).2.2.2.2.1
@[simp] theorem State.refuse_pending (s : State) (k n : Nat) (c : ReplyCode) : (s.refuse k n c).pending = s.pending :=
  (s.refuse_spec k n c).2.2.2.2.2.2.1
theorem State.refuse_wire (s : State) (k n : Nat) (c : ReplyCode) : s.wire <+: (s.refuse k n c).wire :=
  (s.refuse_spec k n c).2.2.2.2.2.1

/-- Everything that the end of a host card read can do. -/
theorem State.endRead_spec (s : State) (i : Nat) (c : ReplyCode) (b : ReplyBody) : LinkOnly s (s.endRead i c b) := by
  unfold State.endRead
  split
  · exact LinkOnly.refl s
  · split_ifs
    · refine ⟨rfl, rfl, rfl, rfl, rfl, List.prefix_refl _, rfl, List.prefix_refl _, le_refl _, ?_, rfl, rfl, rfl, rfl, fun _ _ h => h⟩
      simp only [dropRead]
      exact List.length_filter_le _ _
    · exact (State.joinReady_spec _ _).1.trans (State.linkSettle_spec _)

/-- The reply of a host card read that no link reset has taken joins the log with the tag of its request. -/
theorem State.endRead_replyLog (s : State) (i : Nat) (c : ReplyCode) (b : ReplyBody) (r : CardRead)
    (h : s.read? i = some r) (ho : r.orphan = false) :
    s.replyLog ++ [⟨kindCardRead, r.tag, c, b⟩] <+: (s.endRead i c b).replyLog := by
  unfold State.endRead
  simp only [h, ho]
  have h1 := (State.joinReady_spec s ⟨some i, ⟨kindCardRead, r.tag, c, b⟩⟩).2
  rw [← h1]
  exact (State.linkSettle_spec _).2.2.2.2.2.2.2.1

@[simp] theorem State.endRead_bays (s : State) (i : Nat) (c : ReplyCode) (b : ReplyBody) :
    (s.endRead i c b).bays = s.bays := (s.endRead_spec i c b).1
@[simp] theorem State.endRead_arb (s : State) (i : Nat) (c : ReplyCode) (b : ReplyBody) :
    (s.endRead i c b).arb = s.arb := (s.endRead_spec i c b).2.1
@[simp] theorem State.endRead_pool (s : State) (i : Nat) (c : ReplyCode) (b : ReplyBody) :
    (s.endRead i c b).pool = s.pool := (s.endRead_spec i c b).2.2.1
@[simp] theorem State.endRead_ports (s : State) (i : Nat) (c : ReplyCode) (b : ReplyBody) :
    (s.endRead i c b).ports = s.ports := (s.endRead_spec i c b).2.2.2.1
@[simp] theorem State.endRead_jm (s : State) (i : Nat) (c : ReplyCode) (b : ReplyBody) :
    (s.endRead i c b).jm = s.jm := (s.endRead_spec i c b).2.2.2.2.1
@[simp] theorem State.endRead_pending (s : State) (i : Nat) (c : ReplyCode) (b : ReplyBody) :
    (s.endRead i c b).pending = s.pending := (s.endRead_spec i c b).2.2.2.2.2.2.1
theorem State.endRead_wire (s : State) (i : Nat) (c : ReplyCode) (b : ReplyBody) :
    s.wire <+: (s.endRead i c b).wire := (s.endRead_spec i c b).2.2.2.2.2.1

end Sys2Proof.Machine
end

