-- ==== Sys2Proof/Laws/Lanes.lean ====
section
/-! SUPPORT. What the arbiter's, the lanes' and the bays' operations leave unchanged, one lemma for each operation. -/

namespace Sys2Proof.Machine

/-! ## Lanes and grants -/

@[simp] theorem State.freeLane_frame (s : State) (n : Fin 4) :
    (s.freeLane n).bays = s.bays ∧ (s.freeLane n).pool = s.pool ∧ (s.freeLane n).ports = s.ports ∧
      (s.freeLane n).jm = s.jm ∧ (s.freeLane n).lki = s.lki ∧ (s.freeLane n).fresh = s.fresh ∧
      (s.freeLane n).pending = s.pending := by
  simp [State.freeLane]

/-- What the return of a lane leaves of the lanes, and of the claims whose answers are awaited no more. -/
@[simp] theorem State.freeLane_lane (s : State) (n : Fin 4) :
    (s.freeLane n).lane n = Lane.reset ∧ (s.freeLane n).arb.unawaited = s.arb.unawaited ++ claimOut n (s.lane n) ∧
      (s.freeLane n).wire = s.wire := by
  simp [State.freeLane]

@[simp] theorem State.freeLane_others (s : State) (n m : Fin 4) (h : m ≠ n) : (s.freeLane n).lane m = s.lane m := by
  simp [State.freeLane, h]

@[simp] theorem State.claimNext_frame (s : State) (n : Fin 4) (b : Fin 8) (i : WorkItem) (k : Nat) :
    (s.claimNext n b i k).bays = s.bays ∧ (s.claimNext n b i k).pool = s.pool ∧
      (s.claimNext n b i k).ports = s.ports ∧ (s.claimNext n b i k).jm = s.jm ∧ (s.claimNext n b i k).lki = s.lki ∧
      (s.claimNext n b i k).fresh = s.fresh ∧ (s.claimNext n b i k).pending = s.pending := by
  simp [State.claimNext]

@[simp] theorem State.startTurn_frame (s : State) (n : Fin 4) (b : Fin 8) (i : WorkItem) :
    (s.startTurn n b i).pool = s.pool ∧ (s.startTurn n b i).ports = s.ports ∧ (s.startTurn n b i).jm = s.jm ∧
      (s.startTurn n b i).lki = s.lki ∧ (s.startTurn n b i).fresh = s.fresh ∧
      (s.startTurn n b i).pending = s.pending := by
  simp [State.startTurn]

@[simp] theorem State.grantHost_frame (s : State) (n : Fin 4) (r : CardRead) :
    (s.grantHost n r).pool = s.pool ∧ (s.grantHost n r).ports = s.ports ∧ (s.grantHost n r).jm = s.jm ∧
      (s.grantHost n r).pending = s.pending := by
  unfold State.grantHost
  repeat' split
  all_goals simp

theorem State.grantOne_frame {s t : State} (h : s.grantOne = some t) :
    t.pool = s.pool ∧ t.ports = s.ports ∧ t.jm = s.jm ∧ t.pending = s.pending := by
  unfold State.grantOne at h
  repeat' split at h
  all_goals first
    | (cases h; done)
    | (cases h; simp)

theorem State.grantUpTo_frame (k : Nat) (s : State) :
    (State.grantUpTo k s).pool = s.pool ∧ (State.grantUpTo k s).ports = s.ports ∧ (State.grantUpTo k s).jm = s.jm ∧
      (State.grantUpTo k s).pending = s.pending := by
  induction k generalizing s with
  | zero => exact ⟨rfl, rfl, rfl, rfl⟩
  | succ k ih =>
    unfold State.grantUpTo
    split
    · rename_i t ht
      obtain ⟨a1, a2, a3, a4⟩ := State.grantOne_frame ht
      obtain ⟨b1, b2, b3, b4⟩ := ih t
      exact ⟨b1.trans a1, b2.trans a2, b3.trans a3, b4.trans a4⟩
    · exact ⟨rfl, rfl, rfl, rfl⟩

@[simp] theorem State.grants_frame (s : State) :
    s.grants.pool = s.pool ∧ s.grants.ports = s.ports ∧ s.grants.jm = s.jm ∧ s.grants.pending = s.pending :=
  State.grantUpTo_frame _ s

@[simp] theorem State.returnLane_frame (s : State) (n : Fin 4) :
    (s.returnLane n).pool = s.pool ∧ (s.returnLane n).ports = s.ports ∧ (s.returnLane n).jm = s.jm ∧
      (s.returnLane n).pending = s.pending := by
  simp [State.returnLane]

@[simp] theorem State.shortenTurn_frame (s : State) (b : Fin 8) :
    (s.shortenTurn b).bays = s.bays ∧ (s.shortenTurn b).pool = s.pool ∧ (s.shortenTurn b).ports = s.ports ∧
      (s.shortenTurn b).jm = s.jm ∧ (s.shortenTurn b).lki = s.lki ∧ (s.shortenTurn b).wire = s.wire ∧
      (s.shortenTurn b).fresh = s.fresh ∧ (s.shortenTurn b).pending = s.pending := by
  unfold State.shortenTurn
  repeat' split
  all_goals simp

@[simp] theorem State.changeMode_frame (s : State) (b : Fin 8) (m : HealthMode) :
    (s.changeMode b m).pool = s.pool ∧ (s.changeMode b m).ports = s.ports ∧ (s.changeMode b m).jm = s.jm ∧
      (s.changeMode b m).lki = s.lki ∧ (s.changeMode b m).fresh = s.fresh ∧
      (s.changeMode b m).pending = s.pending := by
  unfold State.changeMode
  split <;> simp

@[simp] theorem State.retryEvent_frame (s : State) (b : Fin 8) :
    (s.retryEvent b).pool = s.pool ∧ (s.retryEvent b).ports = s.ports ∧ (s.retryEvent b).jm = s.jm ∧
      (s.retryEvent b).lki = s.lki ∧ (s.retryEvent b).fresh = s.fresh ∧ (s.retryEvent b).pending = s.pending := by
  unfold State.retryEvent
  dsimp only
  repeat' split
  all_goals simp

@[simp] theorem State.judgeFailure_frame (s : State) (b : Fin 8) :
    (s.judgeFailure b).1.pool = s.pool ∧ (s.judgeFailure b).1.ports = s.ports ∧ (s.judgeFailure b).1.jm = s.jm ∧
      (s.judgeFailure b).1.lki = s.lki ∧ (s.judgeFailure b).1.fresh = s.fresh ∧
      (s.judgeFailure b).1.pending = s.pending := by
  unfold State.judgeFailure
  dsimp only
  repeat' split
  all_goals simp

@[simp] theorem State.loseWork_frame (s : State) (b : Fin 8) (i : WorkItem) :
    (s.loseWork b i).arb = s.arb ∧ (s.loseWork b i).pool = s.pool ∧ (s.loseWork b i).ports = s.ports ∧
      (s.loseWork b i).jm = s.jm ∧ (s.loseWork b i).lki = s.lki ∧ (s.loseWork b i).wire = s.wire ∧
      (s.loseWork b i).fresh = s.fresh ∧ (s.loseWork b i).pending = s.pending := by
  simp [State.loseWork]

@[simp] theorem State.readEnds_frame (s : State) (n : Fin 4) (b : Fin 8) (w : WorkItem) (i : Nat) (c : ClaimId) (d : DigestState) :
    (s.readEnds n b w i c d).pool = s.pool ∧ (s.readEnds n b w i c d).ports = s.ports ∧
      (s.readEnds n b w i c d).jm = s.jm ∧ (s.readEnds n b w i c d).lki = s.lki ∧
      (s.readEnds n b w i c d).fresh = s.fresh ∧ (s.readEnds n b w i c d).pending = s.pending := by
  simp [State.readEnds]

@[simp] theorem State.extentEnds_frame (s : State) (n : Fin 4) (b : Fin 8) (w : WorkItem) (i : Nat) (c : ClaimId) (d : DigestState) :
    (s.extentEnds n b w i c d).pool = s.pool ∧ (s.extentEnds n b w i c d).ports = s.ports ∧
      (s.extentEnds n b w i c d).jm = s.jm ∧ (s.extentEnds n b w i c d).pending = s.pending := by
  unfold State.extentEnds
  dsimp only
  split <;> simp

@[simp] theorem State.takeBlock_frame (s : State) (n : Fin 4) (x : List Byte) :
    (s.takeBlock n x).ports = s.ports ∧ (s.takeBlock n x).jm = s.jm ∧ (s.takeBlock n x).pending = s.pending := by
  unfold State.takeBlock
  dsimp only
  repeat' split
  all_goals simp

theorem State.skipDamaged_frame (k : Nat) (s : State) (n : Fin 4) :
    (State.skipDamaged k s n).ports = s.ports ∧ (State.skipDamaged k s n).jm = s.jm ∧
      (State.skipDamaged k s n).pending = s.pending := by
  induction k generalizing s with
  | zero => exact ⟨rfl, rfl, rfl⟩
  | succ k ih =>
    unfold State.skipDamaged
    split
    · obtain ⟨b1, b2, b3⟩ := ih (s.takeBlock n zeroBlock)
      exact ⟨b1.trans (by simp), b2.trans (by simp), b3.trans (by simp)⟩
    · exact ⟨rfl, rfl, rfl⟩

@[simp] theorem State.skipZeros_frame (s : State) (n : Fin 4) :
    (s.skipZeros n).ports = s.ports ∧ (s.skipZeros n).jm = s.jm ∧ (s.skipZeros n).pending = s.pending :=
  State.skipDamaged_frame _ s n

@[simp] theorem State.mediaEnds_frame (s : State) (n : Fin 4) (b : Fin 8) (c : Nat) :
    (s.mediaEnds n b c).ports = s.ports ∧ (s.mediaEnds n b c).jm = s.jm ∧ (s.mediaEnds n b c).pending = s.pending := by
  simp [State.mediaEnds]

@[simp] theorem State.clipUncorrectable_frame (s : State) (n : Fin 4) (b : Fin 8) (w : ReadWork) (c k : Nat) :
    (s.clipUncorrectable n b w c k).ports = s.ports ∧ (s.clipUncorrectable n b w c k).jm = s.jm ∧
      (s.clipUncorrectable n b w c k).pending = s.pending := by
  unfold State.clipUncorrectable
  repeat' split
  all_goals simp

@[simp] theorem State.workUncorrectable_frame (s : State) (n : Fin 4) (b : Fin 8) (w : ReadWork) (k : Nat) :
    (s.workUncorrectable n b w k).ports = s.ports ∧ (s.workUncorrectable n b w k).jm = s.jm ∧
      (s.workUncorrectable n b w k).pending = s.pending := by
  unfold State.workUncorrectable
  split <;> simp

@[simp] theorem State.workFailed_frame (s : State) (n : Fin 4) (b : Fin 8) (w : ReadWork) (k : Nat) :
    (s.workFailed n b w k).ports = s.ports ∧ (s.workFailed n b w k).jm = s.jm ∧
      (s.workFailed n b w k).pending = s.pending := by
  have h := State.judgeFailure_frame s b
  unfold State.workFailed
  split <;> simp_all

@[simp] theorem State.hostEnds_frame (s : State) (n : Fin 4) (r : HostRead) (c : ReplyCode) (k : Nat) :
    (s.hostEnds n r c k).pool = s.pool ∧ (s.hostEnds n r c k).ports = s.ports ∧ (s.hostEnds n r c k).jm = s.jm ∧
      (s.hostEnds n r c k).pending = s.pending := by
  simp [State.hostEnds]

@[simp] theorem State.hostBlock_frame (s : State) (n : Fin 4) (r : HostRead) (x : List Byte) :
    (s.hostBlock n r x).pool = s.pool ∧ (s.hostBlock n r x).ports = s.ports ∧ (s.hostBlock n r x).jm = s.jm ∧
      (s.hostBlock n r x).pending = s.pending := by
  unfold State.hostBlock
  dsimp only
  split <;> simp

@[simp] theorem State.hostFailed_frame (s : State) (n : Fin 4) (r : HostRead) :
    (s.hostFailed n r).pool = s.pool ∧ (s.hostFailed n r).ports = s.ports ∧ (s.hostFailed n r).jm = s.jm ∧
      (s.hostFailed n r).pending = s.pending := by
  have h := State.judgeFailure_frame s r.bay
  unfold State.hostFailed
  split <;> simp_all

/-! ## Bays -/

@[simp] theorem State.startProbe_frame (s : State) (b : Fin 8) :
    (s.startProbe b).arb = s.arb ∧ (s.startProbe b).pool = s.pool ∧ (s.startProbe b).ports = s.ports ∧
      (s.startProbe b).jm = s.jm ∧ (s.startProbe b).lki = s.lki ∧ (s.startProbe b).fresh = s.fresh ∧
      (s.startProbe b).pending = s.pending := by
  simp [State.startProbe]

@[simp] theorem State.mountCard_frame (s : State) (b : Fin 8) (g : CardSig) :
    (s.mountCard b g).pool = s.pool ∧ (s.mountCard b g).ports = s.ports ∧ (s.mountCard b g).jm = s.jm ∧
      (s.mountCard b g).pending = s.pending := by
  simp [State.mountCard]

@[simp] theorem State.probeFails_frame (s : State) (b : Fin 8) :
    (s.probeFails b).arb = s.arb ∧ (s.probeFails b).pool = s.pool ∧ (s.probeFails b).ports = s.ports ∧
      (s.probeFails b).jm = s.jm ∧ (s.probeFails b).lki = s.lki ∧ (s.probeFails b).fresh = s.fresh ∧
      (s.probeFails b).pending = s.pending := by
  simp [State.probeFails]

@[simp] theorem State.cardGone_frame (s : State) (b : Fin 8) (x : BayState) :
    (s.cardGone b x).arb = s.arb ∧ (s.cardGone b x).pool = s.pool ∧ (s.cardGone b x).ports = s.ports ∧
      (s.cardGone b x).jm = s.jm ∧ (s.cardGone b x).lki = s.lki ∧ (s.cardGone b x).fresh = s.fresh ∧
      (s.cardGone b x).pending = s.pending := by
  simp [State.cardGone]

@[simp] theorem State.loseLane_frame (s : State) (b : Fin 8) :
    (s.loseLane b).bays = s.bays ∧ (s.loseLane b).pool = s.pool ∧ (s.loseLane b).ports = s.ports ∧
      (s.loseLane b).jm = s.jm ∧ (s.loseLane b).pending = s.pending := by
  unfold State.loseLane
  repeat' split
  all_goals simp

@[simp] theorem State.loseCard_frame (s : State) (b : Fin 8) (x : BayState) :
    (s.loseCard b x).pool = s.pool ∧ (s.loseCard b x).ports = s.ports ∧ (s.loseCard b x).jm = s.jm ∧
      (s.loseCard b x).pending = s.pending := by
  simp [State.loseCard]

@[simp] theorem State.cardLost_frame (s : State) (b : Fin 8) (x : Bool) :
    (s.cardLost b x).pool = s.pool ∧ (s.cardLost b x).ports = s.ports ∧ (s.cardLost b x).jm = s.jm ∧
      (s.cardLost b x).pending = s.pending := by
  unfold State.cardLost
  split <;> simp

@[simp] theorem State.losesCard_frame (s : State) (b : Fin 8) (x : Bool) :
    (s.losesCard b x).ports = s.ports ∧ (s.losesCard b x).jm = s.jm ∧ (s.losesCard b x).pending = s.pending := by
  simp [State.losesCard]

@[simp] theorem State.departure_frame (s : State) (b : Fin 8) :
    (s.departure b).ports = s.ports ∧ (s.departure b).jm = s.jm ∧ (s.departure b).pending = s.pending := by
  unfold State.departure
  split <;> simp

@[simp] theorem State.endWait_frame (s : State) (b : Fin 8) (i : WorkItem) :
    (s.endWait b i).arb = s.arb ∧ (s.endWait b i).pool = s.pool ∧ (s.endWait b i).ports = s.ports ∧
      (s.endWait b i).jm = s.jm ∧ (s.endWait b i).lki = s.lki ∧ (s.endWait b i).wire = s.wire ∧
      (s.endWait b i).fresh = s.fresh ∧ (s.endWait b i).pending = s.pending := by
  unfold State.endWait
  split <;> simp

theorem State.endWait_others (s : State) (b a : Fin 8) (i : WorkItem) (h : a ≠ b) : (s.endWait b i).bay a = s.bay a := by
  unfold State.endWait
  split <;> simp [h]

@[simp] theorem State.unlock_frame (s : State) (b : Fin 8) :
    (s.unlock b).arb = s.arb ∧ (s.unlock b).pool = s.pool ∧ (s.unlock b).ports = s.ports ∧ (s.unlock b).jm = s.jm ∧
      (s.unlock b).lki = s.lki ∧ (s.unlock b).fresh = s.fresh ∧ (s.unlock b).pending = s.pending := by
  unfold State.unlock
  split <;> simp

@[simp] theorem State.bayOff_frame (s : State) (b : Fin 8) :
    (s.bayOff b).pool = s.pool ∧ (s.bayOff b).ports = s.ports ∧ (s.bayOff b).jm = s.jm ∧
      (s.bayOff b).pending = s.pending := by
  unfold State.bayOff
  split <;> simp

@[simp] theorem State.bayOn_frame (s : State) (b : Fin 8) :
    (s.bayOn b).arb = s.arb ∧ (s.bayOn b).pool = s.pool ∧ (s.bayOn b).ports = s.ports ∧ (s.bayOn b).jm = s.jm ∧
      (s.bayOn b).lki = s.lki ∧ (s.bayOn b).fresh = s.fresh ∧ (s.bayOn b).pending = s.pending := by
  unfold State.bayOn
  split <;> simp

end Sys2Proof.Machine
end

