-- ==== Sys2Proof/Laws/Ports.lean ====
section
/-! SUPPORT. What the ports' operations leave unchanged, one lemma for each operation: the other blocks, and (`_others`) the
other ports. -/

namespace Sys2Proof.Machine

@[simp] theorem State.maybeIdentify_frame (s : State) (p : Fin 4) :
    (s.maybeIdentify p).bays = s.bays ∧ (s.maybeIdentify p).arb = s.arb ∧ (s.maybeIdentify p).pool = s.pool ∧
      (s.maybeIdentify p).jm = s.jm ∧ (s.maybeIdentify p).lki = s.lki ∧ (s.maybeIdentify p).fresh = s.fresh ∧
      (s.maybeIdentify p).pending = s.pending := by
  unfold State.maybeIdentify
  split <;> simp

@[simp] theorem State.identFails_frame (s : State) (p : Fin 4) :
    (s.identFails p).bays = s.bays ∧ (s.identFails p).arb = s.arb ∧ (s.identFails p).pool = s.pool ∧
      (s.identFails p).jm = s.jm ∧ (s.identFails p).lki = s.lki ∧ (s.identFails p).fresh = s.fresh ∧
      (s.identFails p).pending = s.pending := by
  unfold State.identFails
  split <;> simp

@[simp] theorem State.startWrite_frame (s : State) (p : Fin 4) :
    (s.startWrite p).bays = s.bays ∧ (s.startWrite p).arb = s.arb ∧ (s.startWrite p).pool = s.pool ∧
      (s.startWrite p).jm = s.jm ∧ (s.startWrite p).lki = s.lki ∧ (s.startWrite p).fresh = s.fresh ∧
      (s.startWrite p).pending = s.pending := by
  unfold State.startWrite
  repeat' split
  all_goals simp

@[simp] theorem State.startEntry_frame (s : State) (p : Fin 4) (e : VerifyEntry) :
    (s.startEntry p e).bays = s.bays ∧ (s.startEntry p e).arb = s.arb ∧ (s.startEntry p e).pool = s.pool ∧
      (s.startEntry p e).jm = s.jm ∧ (s.startEntry p e).lki = s.lki ∧ (s.startEntry p e).fresh = s.fresh ∧
      (s.startEntry p e).pending = s.pending := by
  unfold State.startEntry
  repeat' split
  all_goals simp

@[simp] theorem State.nextChunk_frame (s : State) (p : Fin 4) (e : VerifyEntry) :
    (s.nextChunk p e).bays = s.bays ∧ (s.nextChunk p e).arb = s.arb ∧ (s.nextChunk p e).pool = s.pool ∧
      (s.nextChunk p e).jm = s.jm ∧ (s.nextChunk p e).lki = s.lki ∧ (s.nextChunk p e).fresh = s.fresh ∧
      (s.nextChunk p e).pending = s.pending := by
  unfold State.nextChunk
  repeat' split
  all_goals simp

@[simp] theorem State.startVerify_frame (s : State) (p : Fin 4) :
    (s.startVerify p).bays = s.bays ∧ (s.startVerify p).arb = s.arb ∧ (s.startVerify p).pool = s.pool ∧
      (s.startVerify p).jm = s.jm ∧ (s.startVerify p).lki = s.lki ∧ (s.startVerify p).fresh = s.fresh ∧
      (s.startVerify p).pending = s.pending := by
  unfold State.startVerify
  repeat' split
  all_goals simp

@[simp] theorem State.runLink_frame (s : State) (p : Fin 4) :
    (s.runLink p).bays = s.bays ∧ (s.runLink p).arb = s.arb ∧ (s.runLink p).pool = s.pool ∧
      (s.runLink p).jm = s.jm ∧ (s.runLink p).lki = s.lki ∧ (s.runLink p).fresh = s.fresh ∧
      (s.runLink p).pending = s.pending := by
  unfold State.runLink
  repeat' split
  all_goals simp

@[simp] theorem State.abandonEngine_frame (s : State) (p : Fin 4) :
    (s.abandonEngine p).bays = s.bays ∧ (s.abandonEngine p).arb = s.arb ∧ (s.abandonEngine p).pool = s.pool ∧
      (s.abandonEngine p).jm = s.jm ∧ (s.abandonEngine p).lki = s.lki ∧ (s.abandonEngine p).fresh = s.fresh ∧
      (s.abandonEngine p).pending = s.pending := by
  simp [State.abandonEngine]

@[simp] theorem State.entryEnds_frame (s : State) (p : Fin 4) :
    (s.entryEnds p).bays = s.bays ∧ (s.entryEnds p).arb = s.arb ∧ (s.entryEnds p).pool = s.pool ∧
      (s.entryEnds p).jm = s.jm ∧ (s.entryEnds p).lki = s.lki ∧ (s.entryEnds p).fresh = s.fresh ∧
      (s.entryEnds p).pending = s.pending := by
  simp [State.entryEnds]

@[simp] theorem State.removeVerify_frame (s : State) (p : Fin 4) (f : VerifyEntry → Bool) :
    (s.removeVerify p f).bays = s.bays ∧ (s.removeVerify p f).arb = s.arb ∧ (s.removeVerify p f).pool = s.pool ∧
      (s.removeVerify p f).jm = s.jm ∧ (s.removeVerify p f).lki = s.lki ∧ (s.removeVerify p f).fresh = s.fresh ∧
      (s.removeVerify p f).pending = s.pending := by
  unfold State.removeVerify
  dsimp only
  split <;> simp

@[simp] theorem State.removeWrites_frame (s : State) (p : Fin 4) (f : WriteEntry → Bool) :
    (s.removeWrites p f).bays = s.bays ∧ (s.removeWrites p f).arb = s.arb ∧ (s.removeWrites p f).pool = s.pool ∧
      (s.removeWrites p f).jm = s.jm ∧ (s.removeWrites p f).lki = s.lki ∧ (s.removeWrites p f).fresh = s.fresh ∧
      (s.removeWrites p f).pending = s.pending := by
  simp [State.removeWrites]

@[simp] theorem State.portFaults_frame (s : State) (p : Fin 4) :
    (s.portFaults p).bays = s.bays ∧ (s.portFaults p).arb = s.arb ∧ (s.portFaults p).pool = s.pool ∧
      (s.portFaults p).jm = s.jm ∧ (s.portFaults p).lki = s.lki ∧ (s.portFaults p).fresh = s.fresh ∧
      (s.portFaults p).pending = s.pending := by
  simp [State.portFaults]

@[simp] theorem State.copyLost_frame (s : State) (p : Fin 4) (c : Nat) :
    (s.copyLost p c).bays = s.bays ∧ (s.copyLost p c).arb = s.arb ∧ (s.copyLost p c).pool = s.pool ∧
      (s.copyLost p c).jm = s.jm ∧ (s.copyLost p c).lki = s.lki ∧ (s.copyLost p c).fresh = s.fresh ∧
      (s.copyLost p c).pending = s.pending := by
  unfold State.copyLost
  dsimp only
  split <;> simp

@[simp] theorem State.portLost_frame (s : State) (p : Fin 4) :
    (s.portLost p).bays = s.bays ∧ (s.portLost p).arb = s.arb ∧ (s.portLost p).pool = s.pool ∧
      (s.portLost p).jm = s.jm ∧ (s.portLost p).lki = s.lki ∧ (s.portLost p).fresh = s.fresh ∧
      (s.portLost p).pending = s.pending := by
  simp [State.portLost]

@[simp] theorem State.driveReturns_frame (s : State) (p : Fin 4) :
    (s.driveReturns p).bays = s.bays ∧ (s.driveReturns p).arb = s.arb ∧ (s.driveReturns p).pool = s.pool ∧
      (s.driveReturns p).jm = s.jm ∧ (s.driveReturns p).lki = s.lki ∧ (s.driveReturns p).pending = s.pending := by
  simp [State.driveReturns]

@[simp] theorem State.graceExpires_frame (s : State) (p : Fin 4) :
    (s.graceExpires p).bays = s.bays ∧ (s.graceExpires p).arb = s.arb ∧ (s.graceExpires p).pool = s.pool ∧
      (s.graceExpires p).jm = s.jm ∧ (s.graceExpires p).lki = s.lki ∧ (s.graceExpires p).fresh = s.fresh ∧
      (s.graceExpires p).pending = s.pending := by
  simp [State.graceExpires]

@[simp] theorem State.driveLost_frame (s : State) (p : Fin 4) :
    (s.driveLost p).bays = s.bays ∧ (s.driveLost p).arb = s.arb ∧ (s.driveLost p).pool = s.pool ∧
      (s.driveLost p).jm = s.jm ∧ (s.driveLost p).lki = s.lki ∧ (s.driveLost p).fresh = s.fresh ∧
      (s.driveLost p).pending = s.pending := by
  unfold State.driveLost
  repeat' split
  all_goals simp

@[simp] theorem State.portOff_frame (s : State) (p : Fin 4) :
    (s.portOff p).bays = s.bays ∧ (s.portOff p).arb = s.arb ∧ (s.portOff p).pool = s.pool ∧
      (s.portOff p).jm = s.jm ∧ (s.portOff p).lki = s.lki ∧ (s.portOff p).fresh = s.fresh ∧
      (s.portOff p).pending = s.pending := by
  simp [State.portOff]

@[simp] theorem State.portOn_frame (s : State) (p : Fin 4) :
    (s.portOn p).bays = s.bays ∧ (s.portOn p).arb = s.arb ∧ (s.portOn p).pool = s.pool ∧ (s.portOn p).jm = s.jm ∧
      (s.portOn p).lki = s.lki ∧ (s.portOn p).fresh = s.fresh ∧ (s.portOn p).pending = s.pending := by
  simp [State.portOn]

@[simp] theorem State.maybeIdentify_others (s : State) (p : Fin 4) (q : Fin 4) (h : q ≠ p) :
    (s.maybeIdentify p).port q = s.port q := by
  unfold State.maybeIdentify
  split <;> simp [h]

@[simp] theorem State.identFails_others (s : State) (p : Fin 4) (q : Fin 4) (h : q ≠ p) :
    (s.identFails p).port q = s.port q := by
  unfold State.identFails
  split <;> simp [h]

@[simp] theorem State.startWrite_others (s : State) (p : Fin 4) (q : Fin 4) (h : q ≠ p) :
    (s.startWrite p).port q = s.port q := by
  unfold State.startWrite
  repeat' split
  all_goals simp [h]

@[simp] theorem State.startEntry_others (s : State) (p : Fin 4) (e : VerifyEntry) (q : Fin 4) (h : q ≠ p) :
    (s.startEntry p e).port q = s.port q := by
  unfold State.startEntry
  repeat' split
  all_goals simp [h]

@[simp] theorem State.nextChunk_others (s : State) (p : Fin 4) (e : VerifyEntry) (q : Fin 4) (h : q ≠ p) :
    (s.nextChunk p e).port q = s.port q := by
  unfold State.nextChunk
  repeat' split
  all_goals simp [h]

@[simp] theorem State.startVerify_others (s : State) (p : Fin 4) (q : Fin 4) (h : q ≠ p) :
    (s.startVerify p).port q = s.port q := by
  unfold State.startVerify
  repeat' split
  all_goals simp [h]

@[simp] theorem State.runLink_others (s : State) (p : Fin 4) (q : Fin 4) (h : q ≠ p) :
    (s.runLink p).port q = s.port q := by
  unfold State.runLink
  repeat' split
  all_goals simp [h]

@[simp] theorem State.abandonEngine_others (s : State) (p : Fin 4) (q : Fin 4) (h : q ≠ p) :
    (s.abandonEngine p).port q = s.port q := by
  simp [State.abandonEngine, h]

@[simp] theorem State.entryEnds_others (s : State) (p : Fin 4) (q : Fin 4) (h : q ≠ p) :
    (s.entryEnds p).port q = s.port q := by
  simp [State.entryEnds, h]

@[simp] theorem State.removeVerify_others (s : State) (p : Fin 4) (f : VerifyEntry → Bool) (q : Fin 4) (h : q ≠ p) :
    (s.removeVerify p f).port q = s.port q := by
  unfold State.removeVerify
  dsimp only
  split <;> simp [h]

@[simp] theorem State.removeWrites_others (s : State) (p : Fin 4) (f : WriteEntry → Bool) (q : Fin 4) (h : q ≠ p) :
    (s.removeWrites p f).port q = s.port q := by
  simp [State.removeWrites, h]

@[simp] theorem State.portFaults_others (s : State) (p : Fin 4) (q : Fin 4) (h : q ≠ p) :
    (s.portFaults p).port q = s.port q := by
  simp [State.portFaults, h]

@[simp] theorem State.copyLost_others (s : State) (p : Fin 4) (c : Nat) (q : Fin 4) (h : q ≠ p) :
    (s.copyLost p c).port q = s.port q := by
  unfold State.copyLost
  dsimp only
  split <;> simp [h]

@[simp] theorem State.portLost_others (s : State) (p : Fin 4) (q : Fin 4) (h : q ≠ p) :
    (s.portLost p).port q = s.port q := by
  simp [State.portLost, h]

@[simp] theorem State.driveReturns_others (s : State) (p : Fin 4) (q : Fin 4) (h : q ≠ p) :
    (s.driveReturns p).port q = s.port q := by
  simp [State.driveReturns, h]

@[simp] theorem State.graceExpires_others (s : State) (p : Fin 4) (q : Fin 4) (h : q ≠ p) :
    (s.graceExpires p).port q = s.port q := by
  simp [State.graceExpires, h]

@[simp] theorem State.driveLost_others (s : State) (p : Fin 4) (q : Fin 4) (h : q ≠ p) :
    (s.driveLost p).port q = s.port q := by
  unfold State.driveLost
  repeat' split
  all_goals simp [h]

@[simp] theorem State.portOff_others (s : State) (p : Fin 4) (q : Fin 4) (h : q ≠ p) :
    (s.portOff p).port q = s.port q := by
  simp [State.portOff, h]

@[simp] theorem State.portOn_others (s : State) (p : Fin 4) (q : Fin 4) (h : q ≠ p) :
    (s.portOn p).port q = s.port q := by
  simp [State.portOn, h]

end Sys2Proof.Machine
end

