-- ==== Sys2Proof/Laws/Jobs.lean ====
section
/-! SUPPORT. What the job manager's operations leave unchanged, one lemma for each operation: the other blocks, which clip
and job records are present, the clip id counter, and the messages already in transit. -/

namespace Sys2Proof.Machine

/-- What holds between a state and the state after the job manager has worked on its records. -/
def JobOnly (s t : State) : Prop :=
  t.bays = s.bays ∧ t.arb = s.arb ∧ t.pool = s.pool ∧ t.ports = s.ports ∧ t.lki = s.lki ∧ t.fresh = s.fresh ∧
    t.pending = s.pending ∧ t.jm.clips.map Clip.id = s.jm.clips.map Clip.id ∧
    t.jm.jobs.map Job.id = s.jm.jobs.map Job.id ∧ t.jm.nextId = s.jm.nextId ∧ s.wire <+: t.wire

theorem JobOnly.refl (s : State) : JobOnly s s := ⟨rfl, rfl, rfl, rfl, rfl, rfl, rfl, rfl, rfl, rfl, List.prefix_refl _⟩

theorem JobOnly.trans {s t u : State} (h : JobOnly s t) (k : JobOnly t u) : JobOnly s u := by
  obtain ⟨a1, a2, a3, a4, a5, a6, a7, a8, a9, a10, a11⟩ := h
  obtain ⟨b1, b2, b3, b4, b5, b6, b7, b8, b9, b10, b11⟩ := k
  exact ⟨b1.trans a1, b2.trans a2, b3.trans a3, b4.trans a4, b5.trans a5, b6.trans a6, b7.trans a7, b8.trans a8,
    b9.trans a9, b10.trans a10, a11.trans b11⟩

/-- Work on one record after another. -/
theorem JobOnly.foldl {α : Type} (f : State → α → State) (h : ∀ t x, JobOnly t (f t x)) (l : List α) (s : State) :
    JobOnly s (l.foldl f s) := by
  induction l generalizing s with
  | nil => exact JobOnly.refl s
  | cons x l ih => exact (h s x).trans (ih (f s x))

@[simp] theorem State.modClip_ids (s : State) (id : Nat) (f : Clip → Clip) (h : ∀ c, c.id = id → (f c).id = id) :
    (s.modClip id f).jm.clips.map Clip.id = s.jm.clips.map Clip.id := by
  simp only [State.modClip, List.map_map]
  apply List.map_congr_left
  intro c _
  simp only [Function.comp]
  split_ifs with e
  · rw [h c e, e]
  · rfl

@[simp] theorem State.modJob_ids (s : State) (id : Nat) (f : Job → Job) (h : ∀ j, j.id = id → (f j).id = id) :
    (s.modJob id f).jm.jobs.map Job.id = s.jm.jobs.map Job.id := by
  simp only [State.modJob, List.map_map]
  apply List.map_congr_left
  intro c _
  simp only [Function.comp]
  split_ifs with e
  · rw [h c e, e]
  · rfl

theorem JobOnly.modClip (s : State) (id : Nat) (f : Clip → Clip) (h : ∀ c, c.id = id → (f c).id = id) :
    JobOnly s (s.modClip id f) :=
  ⟨rfl, rfl, rfl, rfl, rfl, rfl, rfl, State.modClip_ids s id f h, rfl, rfl,
    List.prefix_refl _⟩

theorem JobOnly.modJob (s : State) (id : Nat) (f : Job → Job) (h : ∀ j, j.id = id → (f j).id = id) :
    JobOnly s (s.modJob id f) :=
  ⟨rfl, rfl, rfl, rfl, rfl, rfl, rfl, rfl, State.modJob_ids s id f h, rfl,
    List.prefix_refl _⟩

theorem JobOnly.modCopy (s : State) (id : Nat) (p : Fin 4) (f : Copy → Copy) : JobOnly s (s.modCopy id p f) :=
  JobOnly.modClip s id _ (fun _ h => h)

theorem JobOnly.sendAll (s : State) (ms : List Instr) : JobOnly s (s.sendAll ms) :=
  ⟨rfl, rfl, rfl, rfl, rfl, rfl, rfl, rfl, rfl, rfl, ⟨ms, rfl⟩⟩

theorem JobOnly.send (s : State) (m : Instr) : JobOnly s (s.send m) := JobOnly.sendAll s [m]
theorem JobOnly.notify (s : State) (n : Notice) : JobOnly s (s.notify n) := JobOnly.send s _
theorem JobOnly.setView (s : State) (b : Fin 8) (x : BayView) : JobOnly s (s.setView b x) := JobOnly.refl s
theorem JobOnly.setAdm (s : State) (b : Fin 8) (x : Option Admission) : JobOnly s (s.setAdm b x) := JobOnly.refl s

theorem JobOnly.beginRead (s : State) (item : WorkItem) : JobOnly s (s.beginRead item) := JobOnly.refl s
theorem JobOnly.forget (s : State) (m : Instr) : JobOnly s (s.forget m) := JobOnly.refl s

/-- A report that is applied, or dropped where it is late. -/
theorem JobOnly.unlessLate (s : State) (m : Instr) (f : State → State) (h : JobOnly s (f s)) : JobOnly s (s.unlessLate m f) := by
  unfold State.unlessLate
  split
  · exact forget s m
  · exact h

theorem JobOnly.evalClear (s : State) (b : Fin 8) : JobOnly s (s.evalClear b) := by
  unfold State.evalClear
  split
  · exact refl s
  · exact (setView s _ _).trans (send _ _)

theorem JobOnly.setJobState (s : State) (id : Nat) (st : JobState) (m : Option StopMode) : JobOnly s (s.setJobState id st m) := by
  unfold State.setJobState
  split
  · exact refl s
  · dsimp only
    have h := modJob s id (fun j => { j with state := st, stop := m }) (fun _ h => h)
    split
    · exact ((h.trans (notify _ _)).trans (send _ _)).trans (evalClear _ _)
    · exact ((h.trans (notify _ _)).trans (send _ _)).trans (evalClear _ _)
    · exact h.trans (send _ _)

theorem JobOnly.testJob (s : State) (id : Nat) : JobOnly s (s.testJob id) := by
  unfold State.testJob
  repeat' split
  all_goals first | exact refl s | exact setJobState s _ _ _

theorem JobOnly.endClip (s : State) (c : Clip) (st : ClipState) (x : Option Cause) : JobOnly s (s.endClip c st x) := by
  unfold State.endClip
  exact ((modClip s c.id (fun _ => endRecord st x (s.verifyOfClip c) c) (fun _ _ => rfl)).trans
    (modJob _ _ (fun j => { j with counts := countEnd st j.counts }) (fun _ h => h))).trans (notify _ _)

theorem JobOnly.failClip (s : State) (c : Clip) (x : Cause) (d : Bool) : JobOnly s (s.failClip c x d) := by
  unfold State.failClip
  dsimp only
  split
  · exact (((endClip s c _ _).trans (send _ _)).trans (sendAll _ _)).trans (testJob _ _)
  · exact ((endClip s c _ _).trans (sendAll _ _)).trans (testJob _ _)

theorem JobOnly.decideClip (s : State) (id : Nat) : JobOnly s (s.decideClip id) := by
  unfold State.decideClip
  split
  · exact refl s
  · dsimp only
    split
    · exact ((endClip s _ _ _).trans (sendAll _ _)).trans (testJob _ _)
    · exact refl s

theorem JobOnly.appendTrailer (s : State) (id : Nat) (p : Fin 4) : JobOnly s (s.appendTrailer id p) := by
  unfold State.appendTrailer
  repeat' split
  all_goals first | exact refl s | exact send s _

theorem JobOnly.dropGiven (s : State) (b : Fin 8) (id : Nat) (p : Fin 4) : JobOnly s (s.dropGiven b id p) := setView s _ _

theorem JobOnly.endRepairRead (s : State) (c : Clip) (k : Copy) : JobOnly s (s.endRepairRead c k) := by
  unfold State.endRepairRead
  split
  · exact refl s
  · dsimp only
    split
    · exact send s _
    · exact (send s _).trans (send _ _)
    · split
      · exact send s _
      · exact ((send s _).trans (dropGiven _ _ _ _)).trans (send _ _)

theorem JobOnly.giveToCard (s : State) (j : Job) (c : Clip) (k : Copy) : JobOnly s (s.giveToCard j c k) := by
  unfold State.giveToCard
  exact (((modCopy s _ _ _).trans (setView _ _ _)).trans (beginRead _ _)).trans (send _ _)

theorem JobOnly.giveToSibling (s : State) (c : Clip) (k : Copy) (q : Fin 4) : JobOnly s (s.giveToSibling c k q) := by
  unfold State.giveToSibling
  dsimp only
  split
  · exact (modCopy s _ _ _).trans (send _ _)
  · exact modCopy s _ _ _

theorem JobOnly.failCopy (s : State) (id : Nat) (p : Fin 4) (x : Cause) : JobOnly s (s.failCopy id p x) := modCopy s _ _ _

theorem JobOnly.chooseSource (s : State) (id : Nat) (p : Fin 4) : JobOnly s (s.chooseSource id p) := by
  unfold State.chooseSource
  repeat' split
  all_goals first
    | exact refl s
    | exact giveToCard s _ _ _
    | exact giveToSibling s _ _ _
    | exact (failCopy s _ _ _).trans (decideClip _ _)

theorem JobOnly.beginRepair (s : State) (id : Nat) (p : Fin 4) : JobOnly s (s.beginRepair id p) := by
  unfold State.beginRepair
  dsimp only
  repeat' split
  · exact modCopy s _ _ _
  · exact (modCopy s _ _ _).trans (appendTrailer _ _ _)
  · exact (modCopy s _ _ _).trans (chooseSource _ _ _)

theorem JobOnly.reSource (s : State) (c : Clip) (k : Copy) : JobOnly s (s.reSource c k) := by
  unfold State.reSource
  exact ((endRepairRead s c k).trans (modCopy _ _ _ _)).trans (chooseSource _ _ _)

theorem JobOnly.mismatchCopy (s : State) (id : Nat) (k : Copy) : JobOnly s (s.mismatchCopy id k) := by
  unfold State.mismatchCopy
  split
  · exact beginRepair s _ _
  · exact (failCopy s _ _ _).trans (decideClip _ _)

theorem JobOnly.reSourceClip (s : State) (q : Fin 4) (id : Nat) : JobOnly s (s.reSourceClip q id) := by
  unfold State.reSourceClip
  split
  · exact refl s
  · apply JobOnly.foldl
    intro t k
    repeat' split
    all_goals first | exact refl t | exact reSource t _ _

theorem JobOnly.reSourceAll (s : State) (q : Fin 4) : JobOnly s (s.reSourceAll q) := JobOnly.foldl _ (fun t id => reSourceClip t q id) _ s

theorem JobOnly.portFailsClip (s : State) (p : Fin 4) (x : Cause) (id : Nat) : JobOnly s (s.portFailsClip p x id) := by
  unfold State.portFailsClip
  repeat' split
  all_goals first
    | exact refl s
    | exact ((endRepairRead s _ _).trans (failCopy _ _ _ _)).trans (decideClip _ _)

theorem JobOnly.portFailsAll (s : State) (p : Fin 4) (x : Cause) : JobOnly s (s.portFailsAll p x) := JobOnly.foldl _ (fun t id => portFailsClip t p x id) _ s

theorem JobOnly.reRead (s : State) (c : Clip) (m : Bool) : JobOnly s (s.reRead c m) := by
  have h : JobOnly s (((s.modClip c.id (fun _ => reReadRecord m c)).send (.clipDiscard c.id)).sendAll
      (writingAbandonments c)) :=
    ((modClip s c.id (fun _ => reReadRecord m c) (fun _ _ => rfl)).trans (send _ _)).trans (sendAll _ _)
  unfold State.reRead
  dsimp only
  repeat' split
  · exact h.trans (((endClip _ _ _ _).trans (sendAll _ _)).trans (testJob _ _))
  · exact h
  · exact h

theorem JobOnly.appendTrailers (s : State) (c : Clip) : JobOnly s (s.appendTrailers c) := by
  apply JobOnly.foldl
  intro t k
  exact appendTrailer t c.id k.port

theorem JobOnly.completeRead (s : State) (c : Clip) (d : DigestState) : JobOnly s (s.completeRead c d) := by
  have h := modClip s c.id
    (fun _ => { c with digest := some (digestFinal d), bytesRead := d.count, running := none }) (fun _ _ => rfl)
  have h' := h.trans (modClip _ c.id (fun x => { x with state := .landing }) (fun _ h => h))
  unfold State.completeRead
  dsimp only
  repeat' split
  · exact (h'.trans (appendTrailers _ _)).trans (decideClip _ _)
  · exact h'.trans (decideClip _ _)
  · exact h.trans (failClip _ _ _ _)
  · exact h.trans (reRead _ _ _)

theorem JobOnly.endRepairs (s : State) (c : Clip) : JobOnly s (s.endRepairs c) := JobOnly.foldl _ (fun t k => endRepairRead t c k) _ s

theorem JobOnly.endClipRead (s : State) (c : Clip) : JobOnly s (s.endClipRead c) := by
  unfold State.endClipRead
  repeat' split
  all_goals first | exact refl s | exact send s _

theorem JobOnly.cutClip (s : State) (c : Clip) : JobOnly s (s.cutClip c) := by
  unfold State.cutClip
  dsimp only
  exact (((endClip s c _ _).trans (endClipRead _ _)).trans (endRepairs _ _)).trans ((send _ _).trans (sendAll _ _))

/-! ## Admission -/

theorem JobOnly.startAdm (s : State) (b : Fin 8) : JobOnly s (s.startAdm b) := by
  unfold State.startAdm
  repeat' split
  all_goals exact setAdm s _ _

theorem JobOnly.endAdm (s : State) (b : Fin 8) : JobOnly s (s.endAdm b) := by
  unfold State.endAdm
  repeat' split
  · exact refl s
  · exact startAdm s b
  · exact setAdm s _ _

theorem JobOnly.holdOver (s : State) (b : Fin 8) : JobOnly s (s.holdOver b) := by
  unfold State.holdOver
  split
  · exact refl s
  · exact setAdm s _ _

theorem JobOnly.startRead (s : State) (b : Fin 8) (id : Nat) : JobOnly s (s.startRead b id) := by
  have h := modClip s id (fun c =>
    { c with state := .reading, wait := none, attempts := c.attempts + 1, bytesRead := 0, running := some digestInitial })
    (fun _ h => h)
  unfold State.startRead
  dsimp only
  repeat' split
  · exact h.trans (((completeRead _ _ _).trans (holdOver _ _)).trans (endAdm _ _))
  · exact h.trans (((beginRead _ _).trans (send _ _)).trans (endAdm _ _))
  · exact h.trans (endAdm _ _)

theorem JobOnly.makeWait (s : State) (c : Clip) (r : WaitReason) : JobOnly s (s.makeWait c r) := by
  have h := modClip s c.id (fun _ => { c with state := .waiting, wait := some r }) (fun _ _ => rfl)
  unfold State.makeWait
  dsimp only
  split
  · exact h
  · exact h.trans (notify _ _)

theorem JobOnly.decideAnswers (s : State) (b : Fin 8) (a : Admission) (c : Clip) : JobOnly s (s.decideAnswers b a c) := by
  unfold State.decideAnswers
  split
  · exact ((sendAll s _).trans (makeWait _ _ _)).trans (setAdm _ _ _)
  · dsimp only
    have h := (modClip s c.id (fun c => { c with copies := c.copies.map (skipCopy a.answers) }) (fun _ h => h)).trans
      (sendAll _ ((confirmPorts c a.answers).map (fun p => .holdConfirmation p c.id)))
    split
    · exact h.trans (startRead _ _ _)
    · exact h.trans (setAdm _ _ _)

theorem JobOnly.answersIn (s : State) (b : Fin 8) (a : Admission) : JobOnly s (s.answersIn b a) := by
  unfold State.answersIn
  repeat' split
  · exact (holdOver s b).trans (endAdm _ _)
  · exact decideAnswers s _ _ _
  · exact (sendAll s _).trans (endAdm _ _)
  · exact endAdm s b

theorem JobOnly.tryClip (s : State) (b : Fin 8) (a : Admission) (c : Clip) : JobOnly s (s.tryClip b a c) := by
  unfold State.tryClip
  dsimp only
  repeat' split
  · exact failClip s _ _ _
  · exact decideAnswers s _ _ _
  · exact (setAdm s _ _).trans (sendAll _ _)

theorem JobOnly.admStep {s t : State} {b : Fin 8} (h : s.admStep b = some t) : JobOnly s t := by
  unfold State.admStep at h
  dsimp only at h
  repeat' split at h
  all_goals first
    | (cases h; done)
    | (cases h; exact endAdm s b)
    | (cases h; exact (setAdm s _ _).trans (tryClip _ _ _ _))
    | (cases h; exact setAdm s _ _)

theorem JobOnly.admSteps (k : Nat) (s : State) (b : Fin 8) : JobOnly s (State.admSteps k s b) := by
  induction k generalizing s with
  | zero => exact refl s
  | succ k ih =>
    unfold State.admSteps
    split
    · rename_i t ht
      exact (JobOnly.admStep ht).trans (ih t)
    · exact refl s

theorem JobOnly.admRun (s : State) (b : Fin 8) : JobOnly s (s.admRun b) := admSteps _ s b

theorem JobOnly.admissionPoint (s : State) (b : Fin 8) : JobOnly s (s.admissionPoint b) := by
  unfold State.admissionPoint
  split
  · exact setAdm s _ _
  · exact (startAdm s b).trans (admRun _ _)

theorem JobOnly.portPoints (s : State) (p : Fin 4) (x : Option (Fin 8)) : JobOnly s (s.portPoints p x) := by
  apply JobOnly.foldl
  intro t b
  split
  · exact admissionPoint t b
  · exact refl t

theorem JobOnly.afterRepairs (s : State) (u : State) : JobOnly s (s.afterRepairs u) := by
  apply JobOnly.foldl
  intro t b
  split
  · exact admissionPoint t b
  · exact refl t

theorem JobOnly.jobPoint (s : State) (id : Nat) : JobOnly s (s.jobPoint id) := by
  unfold State.jobPoint
  split
  · exact admissionPoint s _
  · exact refl s

theorem JobOnly.cancelAdm (s : State) (b : Fin 8) (id : Nat) : JobOnly s (s.cancelAdm b id) := by
  unfold State.cancelAdm
  repeat' split
  all_goals first
    | exact refl s
    | exact (setAdm s _ _).trans (sendAll _ _)

theorem JobOnly.cancelWaiting (s : State) (c : Clip) : JobOnly s (s.cancelWaiting c) := by
  unfold State.cancelWaiting
  dsimp only
  split
  · exact ((endClip s c _ _).trans (sendAll _ _)).trans (cancelAdm _ _ _)
  · exact (endClip s c _ _).trans (sendAll _ _)

theorem JobOnly.cancelAll (s : State) (j : Job) : JobOnly s (s.cancelAll j) := by
  apply JobOnly.foldl
  intro t i
  repeat' split
  all_goals first | exact refl t | exact cancelWaiting t _

theorem JobOnly.cutAll (s : State) (j : Job) : JobOnly s (s.cutAll j) := by
  apply JobOnly.foldl
  intro t i
  repeat' split
  all_goals first | exact refl t | exact cutClip t _

theorem JobOnly.cutJob (s : State) (j : Job) : JobOnly s (s.cutJob j) := ((cancelAll s j).trans (cutAll _ j)).trans (setJobState _ _ _ _)

end Sys2Proof.Machine
end

