-- ==== Sys2Proof/Laws/Admission.lean ====
section
/-! SUPPORT. What the moves of an admission do, one lemma for each move: a clip passed over, the list's end, a clip tried, and the
stop where the admission waits for ports or there is none (R13 to R18). -/

namespace Sys2Proof.Machine

/-! ## The admission record of a bay -/

@[simp] theorem State.setAdm_setAdm (s : State) (b : Fin 8) (x y : Option Admission) :
    (s.setAdm b x).setAdm b y = s.setAdm b y := by
  simp [State.setAdm, State.setView, State.view]

@[simp] theorem State.view_setAdm (s : State) (b : Fin 8) (x : Option Admission) :
    (s.setAdm b x).view b = { s.view b with adm := x } := by simp [State.setAdm]

/-- The record of an admission says nothing of the card, CLEAR or the repairs of any bay. -/
theorem State.view_setAdm_core (s : State) (b c : Fin 8) (x : Option Admission) :
    ((s.setAdm b x).view c).sig = (s.view c).sig ∧ ((s.setAdm b x).view c).repairs = (s.view c).repairs := by
  by_cases h : c = b
  · subst h; simp
  · simp [State.setAdm, h]

@[simp] theorem State.setAdm_clip? (s : State) (b : Fin 8) (x : Option Admission) (i : Nat) :
    (s.setAdm b x).clip? i = s.clip? i := rfl
@[simp] theorem State.setAdm_job? (s : State) (b : Fin 8) (x : Option Admission) (i : Nat) :
    (s.setAdm b x).job? i = s.job? i := rfl
@[simp] theorem State.setAdm_jobOf (s : State) (b c : Fin 8) (x : Option Admission) :
    (s.setAdm b x).jobOf c = s.jobOf c := rfl

theorem State.mayAdmit_setAdm (s : State) (b c : Fin 8) (x : Option Admission) (j : Job) :
    (s.setAdm b x).mayAdmit c j = s.mayAdmit c j := by
  simp only [State.mayAdmit, State.present, (State.view_setAdm_core s b _ x).1, (State.view_setAdm_core s b _ x).2,
    State.setAdm_clip?]

/-- Where an admission begins, the record of an earlier one does not matter. -/
@[simp] theorem State.startAdm_setAdm (s : State) (b : Fin 8) (x : Option Admission) :
    (s.setAdm b x).startAdm b = s.startAdm b := by
  unfold State.startAdm
  simp only [State.setAdm_jobOf, State.mayAdmit_setAdm, State.setAdm_setAdm]
  rfl

/-! ## Moves -/

/-- The admission waits for ports, or there is none: it makes no move. -/
theorem State.admSteps_stop (k : Nat) (s : State) (b : Fin 8) (h : ∀ a, (s.view b).adm = some a → a.phase ≠ .trying) :
    State.admSteps k s b = s := by
  cases k with
  | zero => rfl
  | succ k =>
    have hs : s.admStep b = none := by
      unfold State.admStep
      cases e : (s.view b).adm with
      | none => rfl
      | some a => cases p : a.phase <;> simp_all
    simp [State.admSteps, hs]

/-- A clip of the list that waits no more is passed over. -/
theorem State.admSteps_pass (k : Nat) (s : State) (b : Fin 8) (a : Admission) (i : Nat) (rest : List Nat)
    (hp : a.phase = .trying) (hr : a.rest = i :: rest) (hi : ∀ c, s.clip? i = some c → clipWaits c = false) :
    State.admSteps (k + 1) (s.setAdm b (some a)) b = State.admSteps k (s.setAdm b (some { a with rest := rest })) b := by
  have hs : (s.setAdm b (some a)).admStep b = some (s.setAdm b (some { a with rest := rest })) := by
    simp only [State.admStep, State.view_setAdm, hp, hr, State.setAdm_setAdm, State.setAdm_clip?]
    cases e : s.clip? i with
    | none => rfl
    | some c => simp [hi c e]
  simp only [State.admSteps, hs]

/-- The list is at its end: the admission ends, and a point held over begins another. -/
theorem State.admSteps_end (k : Nat) (s : State) (b : Fin 8) (a : Admission) (hp : a.phase = .trying) (hr : a.rest = []) :
    State.admSteps (k + 1) (s.setAdm b (some a)) b =
      State.admSteps k (if a.heldOver then s.startAdm b else s.setAdm b none) b := by
  have hs : (s.setAdm b (some a)).admStep b = some (if a.heldOver then s.startAdm b else s.setAdm b none) := by
    simp only [State.admStep, State.view_setAdm, hp, hr, State.endAdm, State.startAdm_setAdm, State.setAdm_setAdm]
  simp only [State.admSteps, hs]

/-- The next clip of the list waits: it is tried. -/
theorem State.admSteps_try (k : Nat) (s : State) (b : Fin 8) (a : Admission) (i : Nat) (rest : List Nat) (c : Clip)
    (hp : a.phase = .trying) (hr : a.rest = i :: rest) (hc : s.clip? i = some c) (hw : clipWaits c = true) :
    State.admSteps (k + 1) (s.setAdm b (some a)) b =
      State.admSteps k ((s.setAdm b (some { a with rest := rest })).tryClip b { a with rest := rest } c) b := by
  have hs : (s.setAdm b (some a)).admStep b =
      some ((s.setAdm b (some { a with rest := rest })).tryClip b { a with rest := rest } c) := by
    simp only [State.admStep, State.view_setAdm, hp, hr, State.setAdm_setAdm, State.setAdm_clip?, hc, hw, if_true]
  simp only [State.admSteps, hs]

/-- A number of clips that wait no more are passed over. -/
theorem State.admSteps_passes (passed : List Nat) (k : Nat) (s : State) (b : Fin 8) (a : Admission) (rest : List Nat)
    (hp : a.phase = .trying) (hr : a.rest = passed ++ rest)
    (hi : ∀ i ∈ passed, ∀ c, s.clip? i = some c → clipWaits c = false) :
    State.admSteps (k + passed.length) (s.setAdm b (some a)) b =
      State.admSteps k (s.setAdm b (some { a with rest := rest })) b := by
  induction passed generalizing a with
  | nil =>
    have : { a with rest := rest } = a := by cases a; simp_all
    simp [this]
  | cons i passed ih =>
    have h := State.admSteps_pass (k + passed.length) s b a i (passed ++ rest) hp hr (hi i (by simp))
    rw [List.length_cons, ← Nat.add_assoc, h]
    exact ih { a with rest := passed ++ rest } hp rfl (fun j hj => hi j (by simp [hj]))

/-! ## A clip tried -/

/-- A clip with PENDING copies is enquired for. -/
theorem State.tryClip_enquires (s : State) (b : Fin 8) (a : Admission) (c : Clip) (h : c.attempts < 3)
    (hp : pendingPorts c ≠ []) :
    s.tryClip b a c = (s.setAdm b (some { a with
      phase := .enquiring, clip := c.id, awaiting := pendingPorts c, answers := [] })).sendAll
        ((pendingPorts c).map (fun p => .holdEnquiry p c.id c.length)) := by
  have h' : ¬ Config.maxReadAttempts ≤ c.attempts := by simp only [Config.maxReadAttempts]; omega
  simp only [State.tryClip, if_neg h', if_neg hp]

/-- The fourth start of a clip is refused. -/
theorem State.tryClip_fails (s : State) (b : Fin 8) (a : Admission) (c : Clip) (h : 3 ≤ c.attempts) :
    s.tryClip b a c = s.failClip c .sourceLost false := by
  have h' : Config.maxReadAttempts ≤ c.attempts := h
  simp only [State.tryClip, if_pos h']

theorem skipCopy_nil (k : Copy) : skipCopy [] k = k := by
  unfold skipCopy answerOf
  split <;> rfl

/-- A clip without PENDING copies becomes READING at once. -/
theorem State.tryClip_reads (s : State) (b : Fin 8) (a : Admission) (c : Clip) (h : c.attempts < 3)
    (hp : pendingPorts c = []) : s.tryClip b a c = s.startRead b c.id := by
  have h' : ¬ Config.maxReadAttempts ≤ c.attempts := by simp only [Config.maxReadAttempts]; omega
  have hn : c.copies.filter (fun k => decide (k.state = .pending)) = [] := by simpa [pendingPorts] using hp
  have hr : refusedCopy c [] = none := by
    simp only [refusedCopy, List.find?_eq_none]
    intro k hk
    have := List.filter_eq_nil_iff.mp hn k hk
    simp_all
  have hc : confirmPorts c [] = [] := by simp [confirmPorts, hn]
  have hf : (fun c : Clip => ({ c with copies := c.copies.map (skipCopy []) } : Clip)) = (fun c => c) := by
    funext c
    rw [show skipCopy [] = (fun k => k) from funext skipCopy_nil, List.map_id']
  have hm : s.modClip c.id (fun c => { c with copies := c.copies.map (skipCopy []) }) = s := by
    rw [hf]
    simp [State.modClip]
  simp only [State.tryClip, if_neg h', if_pos hp, State.decideAnswers, hr, hc, List.map_nil, if_true, hm]
  simp [State.sendAll]

end Sys2Proof.Machine
end

