-- ==== Sys2Proof/Laws/Grants.lean ====
section
/-! SUPPORT. Everything that the arbiter's search for grants can do (R52 to R54). -/

namespace Sys2Proof.Machine

/-- What holds between a state and the state after lanes have been returned and granted: the blocks that stand, the plan,
all of the bays but the start of turns, and the logs. -/
def GrantOnly (s t : State) : Prop :=
  t.pool = s.pool ∧ t.ports = s.ports ∧ t.jm = s.jm ∧ t.pending = s.pending ∧ t.arb.plan = s.arb.plan ∧
    t.arb.asking = s.arb.asking ∧ (∀ b, bayCore (t.bay b) = bayCore (s.bay b)) ∧ s.replyLog <+: t.replyLog ∧
    t.noticeLog = s.noticeLog ∧ t.lki.notices.length ≤ s.lki.notices.length ∧
    t.lki.reads.length ≤ s.lki.reads.length ∧ t.lki.up = s.lki.up ∧ t.lki.freshStart = s.lki.freshStart ∧
    t.lki.droppedMark = s.lki.droppedMark ∧
    ∀ k n, handOrphan s.lki k n = false → handOrphan t.lki k n = false

theorem GrantOnly.refl (s : State) : GrantOnly s s :=
  ⟨rfl, rfl, rfl, rfl, rfl, rfl, fun _ => rfl, List.prefix_refl _, rfl, le_refl _, le_refl _, rfl, rfl, rfl,
    fun _ _ h => h⟩

theorem GrantOnly.trans {s t u : State} (h : GrantOnly s t) (k : GrantOnly t u) : GrantOnly s u := by
  obtain ⟨a1, a2, a3, a4, a5, a6, a7, a8, a9, a10, a11, a12, a13, a14, a15⟩ := h
  obtain ⟨b1, b2, b3, b4, b5, b6, b7, b8, b9, b10, b11, b12, b13, b14, b15⟩ := k
  exact ⟨b1.trans a1, b2.trans a2, b3.trans a3, b4.trans a4, b5.trans a5, b6.trans a6, fun b => (b7 b).trans (a7 b),
    a8.trans b8, b9.trans a9, b10.trans a10, b11.trans a11, b12.trans a12, b13.trans a13, b14.trans a14,
    fun k n h => b15 k n (a15 k n h)⟩

/-- What the link interface does is no more than that. -/
theorem GrantOnly.of_link {s t : State} (h : LinkOnly s t) : GrantOnly s t := by
  obtain ⟨a1, a2, a3, a4, a5, a6, a7, a8, a9, a10, a11, a12, a13, a14, a15⟩ := h
  exact ⟨a3, a4, a5, a7, by rw [a2], by rw [a2], fun b => by rw [State.bay_of_bays a1], a8, a14, a9, a10, a11, a12, a13,
    a15⟩

/-- Changes of the arbiter that leave its plan, and messages. -/
theorem GrantOnly.of_arb {s t : State} (h1 : t.bays = s.bays) (h2 : t.pool = s.pool) (h3 : t.ports = s.ports)
    (h4 : t.jm = s.jm) (h5 : t.lki = s.lki) (h6 : t.pending = s.pending) (h7 : t.arb.plan = s.arb.plan)
    (h8 : t.arb.asking = s.arb.asking) : GrantOnly s t :=
  ⟨h2, h3, h4, h6, h7, h8, fun b => by rw [State.bay_of_bays h1], by simp [State.replyLog, h5], by simp [State.noticeLog, h5],
    by rw [h5], by rw [h5], by rw [h5], by rw [h5], by rw [h5], fun k n h => by rw [h5]; exact h⟩

theorem GrantOnly.setLane (s : State) (n : Fin 4) (x : Lane) : GrantOnly s (s.setLane n x) :=
  of_arb rfl rfl rfl rfl rfl rfl rfl rfl

theorem GrantOnly.send (s : State) (m : Instr) : GrantOnly s (s.send m) := of_arb rfl rfl rfl rfl rfl rfl rfl rfl

theorem GrantOnly.setBay (s : State) (b : Fin 8) (x : Bay) (h : bayCore x = bayCore (s.bay b)) :
    GrantOnly s (s.setBay b x) := by
  refine ⟨rfl, rfl, rfl, rfl, rfl, rfl, fun a => ?_, List.prefix_refl _, rfl, le_refl _, le_refl _, rfl, rfl, rfl,
    fun _ _ h => h⟩
  by_cases e : a = b
  · subst e; simpa using h
  · simp [e]

theorem GrantOnly.freeLane (s : State) (n : Fin 4) : GrantOnly s (s.freeLane n) :=
  of_arb rfl rfl rfl rfl rfl rfl rfl rfl

theorem GrantOnly.claimNext (s : State) (n : Fin 4) (b : Fin 8) (i : WorkItem) (k : Nat) :
    GrantOnly s (s.claimNext n b i k) := (setLane s _ _).trans (send _ _)

theorem GrantOnly.startTurn (s : State) (n : Fin 4) (b : Fin 8) (i : WorkItem) : GrantOnly s (s.startTurn n b i) :=
  ((setBay s b { s.bay b with offered := none, fails := 0 } rfl).trans (setLane _ _ _)).trans (claimNext _ _ _ _ _)

theorem GrantOnly.endRead (s : State) (i : Nat) (c : ReplyCode) (b : ReplyBody) : GrantOnly s (s.endRead i c b) :=
  of_link (s.endRead_spec i c b)

theorem GrantOnly.grantHost (s : State) (n : Fin 4) (r : CardRead) : GrantOnly s (s.grantHost n r) := by
  have h : GrantOnly s { s with arb := { s.arb with requests := s.arb.requests.filter (fun i => i != r.id) } } :=
    of_arb rfl rfl rfl rfl rfl rfl rfl rfl
  unfold State.grantHost
  dsimp only
  repeat' split
  · exact h.trans (endRead _ _ _ _)
  · exact (h.trans (setBay _ r.bay { s.bay r.bay with fails := 0 } rfl)).trans (setLane _ _ _)
  · exact h.trans (endRead _ _ _ _)

theorem GrantOnly.grantOne {s t : State} (h : s.grantOne = some t) : GrantOnly s t := by
  unfold State.grantOne at h
  repeat' split at h
  all_goals first
    | (cases h; done)
    | (cases h; exact grantHost s _ _)
    | (cases h
       exact (of_arb rfl rfl rfl rfl rfl rfl rfl rfl : GrantOnly s { s with arb := { s.arb with pointer := _ } }).trans
         (startTurn _ _ _ _))

theorem GrantOnly.grantUpTo (k : Nat) (s : State) : GrantOnly s (State.grantUpTo k s) := by
  induction k generalizing s with
  | zero => exact refl s
  | succ k ih =>
    unfold State.grantUpTo
    split
    · rename_i t ht
      exact (GrantOnly.grantOne ht).trans (ih t)
    · exact refl s

theorem GrantOnly.grants (s : State) : GrantOnly s s.grants := grantUpTo _ s

theorem GrantOnly.returnLane (s : State) (n : Fin 4) : GrantOnly s (s.returnLane n) := (freeLane s n).trans (grants _)

theorem GrantOnly.hostEnds (s : State) (n : Fin 4) (r : HostRead) (c : ReplyCode) (k : Nat) :
    GrantOnly s (s.hostEnds n r c k) := ((freeLane s n).trans (endRead _ _ _ _)).trans (grants _)

/-! ## Lanes that are held -/

theorem State.lane_setLane_held (s : State) (n m : Fin 4) (x : Lane) (hn : (s.lane n).holder = none)
    (hm : (s.lane m).holder.isSome = true) : (s.setLane n x).lane m = s.lane m := by
  have : m ≠ n := by
    intro e
    rw [e, hn] at hm
    simp at hm
  simp [this]

/-- The lane that a search for grants finds is FREE. -/
theorem State.freeActiveLane_free {s : State} {n : Fin 4} (h : s.freeActiveLane = some n) : (s.lane n).holder = none := by
  have := List.find?_some h
  simp only [Bool.and_eq_true, decide_eq_true_eq, Option.isNone_iff_eq_none] at this
  exact this.2

theorem State.startTurn_held (s : State) (n m : Fin 4) (b : Fin 8) (i : WorkItem) (hn : (s.lane n).holder = none)
    (hm : (s.lane m).holder.isSome = true) : (s.startTurn n b i).lane m = s.lane m := by
  have : m ≠ n := by
    intro e
    rw [e, hn] at hm
    simp at hm
  simp [State.startTurn, State.claimNext, this]

theorem State.grantHost_held (s : State) (n m : Fin 4) (r : CardRead) (hn : (s.lane n).holder = none)
    (hm : (s.lane m).holder.isSome = true) : (s.grantHost n r).lane m = s.lane m := by
  have hne : m ≠ n := by
    intro e
    rw [e, hn] at hm
    simp at hm
  unfold State.grantHost
  dsimp only
  repeat' split
  · rw [State.lane_of_arb (State.endRead_arb _ _ _ _)]
    rfl
  · simp [hne]
    rfl
  · rw [State.lane_of_arb (State.endRead_arb _ _ _ _)]
    rfl

theorem State.grantOne_held {s t : State} (h : s.grantOne = some t) (m : Fin 4)
    (hm : (s.lane m).holder.isSome = true) : t.lane m = s.lane m := by
  unfold State.grantOne at h
  split at h
  · cases h
  · split at h
    · cases h
    · rename_i n hn
      have hf := State.freeActiveLane_free hn
      split at h
      · cases h
        exact State.grantHost_held s n m _ hf hm
      · split at h
        · cases h
          exact State.startTurn_held { s with arb := { s.arb with pointer := _ } } n m _ _ hf hm
        · cases h

theorem State.grantUpTo_held (k : Nat) (s : State) (m : Fin 4) (hm : (s.lane m).holder.isSome = true) :
    (State.grantUpTo k s).lane m = s.lane m := by
  induction k generalizing s with
  | zero => rfl
  | succ k ih =>
    unfold State.grantUpTo
    split
    · rename_i t ht
      have h1 := State.grantOne_held ht m hm
      rw [ih t (by rw [h1]; exact hm), h1]
    · rfl

/-- A lane that is held is left as it is by the search for grants. -/
theorem State.grants_held (s : State) (m : Fin 4) (hm : (s.lane m).holder.isSome = true) :
    s.grants.lane m = s.lane m := State.grantUpTo_held _ s m hm

/-- No lane is granted while a PLAN is being asked, nor while every active lane is held. -/
theorem State.grants_none (s : State) (h : s.arb.asking.isSome = true ∨ s.freeActiveLane = none) : s.grants = s := by
  have h1 : s.grantOne = none := by
    unfold State.grantOne
    rcases h with h | h
    · rw [if_pos h]
    · rw [h]
      split <;> rfl
  unfold State.grants
  rw [show s.arb.requests.length + 5 = (s.arb.requests.length + 4) + 1 by omega]
  unfold State.grantUpTo
  rw [h1]

/-! ## Messages -/

theorem State.grantHost_wire (s : State) (n : Fin 4) (r : CardRead) : s.wire <+: (s.grantHost n r).wire := by
  unfold State.grantHost
  dsimp only
  repeat' split
  · exact State.endRead_wire
      { s with arb := { s.arb with requests := s.arb.requests.filter (fun i => i != r.id) } } _ _ _
  · exact List.prefix_refl _
  · exact State.endRead_wire
      { s with arb := { s.arb with requests := s.arb.requests.filter (fun i => i != r.id) } } _ _ _

theorem State.grantOne_wire {s t : State} (h : s.grantOne = some t) : s.wire <+: t.wire := by
  unfold State.grantOne at h
  repeat' split at h
  all_goals first
    | (cases h; done)
    | (cases h; exact State.grantHost_wire s _ _)
    | (cases h; exact ⟨_, rfl⟩)

theorem State.grantUpTo_wire (k : Nat) (s : State) : s.wire <+: (State.grantUpTo k s).wire := by
  induction k generalizing s with
  | zero => exact List.prefix_refl _
  | succ k ih =>
    unfold State.grantUpTo
    split
    · rename_i t ht
      exact (State.grantOne_wire ht).trans (ih t)
    · exact List.prefix_refl _

/-- The search for grants only adds to the messages in transit. -/
theorem State.grants_wire (s : State) : s.wire <+: s.grants.wire := State.grantUpTo_wire _ s

/-! ## What the bays keep -/

/-- A bay's own fields outside the start of turns, read through `bayCore`. -/
theorem bayCore_fields {x y : Bay} (h : bayCore x = bayCore y) :
    x.power = y.power ∧ x.state = y.state ∧ x.cardPresent = y.cardPresent ∧ x.sig = y.sig ∧
      x.probeTimer = y.probeTimer ∧ x.job = y.job ∧ x.clear = y.clear ∧ x.lock = y.lock ∧ x.lamp = y.lamp ∧
      x.health = y.health ∧ x.reading = y.reading ∧ x.repairs = y.repairs ∧ x.waiting = y.waiting ∧
      x.uncorrectable = y.uncorrectable := by
  cases x; cases y
  simp only [bayCore, Bay.mk.injEq] at h
  simp_all

@[simp] theorem State.grants_bayCore (s : State) (b : Fin 8) : bayCore (s.grants.bay b) = bayCore (s.bay b) :=
  (GrantOnly.grants s).2.2.2.2.2.2.1 b

end Sys2Proof.Machine
end

