-- ==== Sys2Proof/Laws/GrantRounds.lean ====
section
/-! SUPPORT. The arbiter's search for grants is the round of grants that the rules tell: which lane, which host card read and
which bay come next, and what each grant leaves (R51 to R55). -/

namespace Sys2Proof.Machine

theorem State.laneOf_eq_none (s : State) (b : Fin 8) : s.laneOf b = none ↔ ∀ n, holderBay (s.lane n) ≠ some b := by
  simp [State.laneOf, List.find?_eq_none]

/-- The lane that only a bay holds is the one that is found for it. -/
theorem State.laneOf_only {s : State} {n : Fin 4} {b : Fin 8} (h : holderBay (s.lane n) = some b) (o : OnlyLane s n b) :
    s.laneOf b = some n := by
  cases e : s.laneOf b with
  | none => exact absurd h ((s.laneOf_eq_none b).mp e n)
  | some m =>
    have := List.find?_some e
    rw [o m (by simpa using this)]

theorem freeLane_eq (s : State) (n : Fin 4) : s.freeLane n = laneBack s n := by
  unfold State.freeLane laneBack claimOut
  rcases (s.lane n).holder with _ | _ | _ <;> rcases (s.lane n).claim with _ | _ <;> rfl

theorem finRange_find?_iff {k : Nat} (p : Fin k → Bool) (n : Fin k) :
    (List.finRange k).find? p = some n ↔ p n = true ∧ ∀ m, m < n → p m = false := by
  rw [List.find?_eq_some_iff_getElem]
  constructor
  · rintro ⟨h, i, hi, e, hb⟩
    refine ⟨h, fun m hm => ?_⟩
    simp only [List.getElem_finRange] at e hb
    have : m.val < i := by rw [← e] at hm; exact hm
    simpa using hb m.val this
  · rintro ⟨h, hb⟩
    refine ⟨h, n.val, by simp, by simp, fun j hj => ?_⟩
    simpa using hb ⟨j, by omega⟩ hj

theorem State.laneNext_iff (s : State) (n : Fin 4) : LaneNext s n ↔ s.arb.asking = none ∧ s.freeActiveLane = some n := by
  unfold LaneNext State.freeActiveLane
  rw [finRange_find?_iff]
  constructor
  · rintro ⟨a, h, k, l⟩
    refine ⟨a, by simp [h, k], fun m hm => ?_⟩
    have := l m hm
    simp only [Bool.and_eq_false_iff, Option.isNone_eq_false_iff, Option.isSome_iff_ne_none]
    exact .inr this
  · rintro ⟨a, h, l⟩
    simp only [Bool.and_eq_true, decide_eq_true_eq, Option.isNone_iff_eq_none] at h
    refine ⟨a, h.1, h.2, fun m hm e => ?_⟩
    have := l m hm
    simp [e] at this
    have hv : m.val < n.val := hm
    omega

theorem State.hostNext_iff (s : State) (r : CardRead) : HostNext s r ↔ s.nextHostRead = some r := by
  unfold HostNext State.nextHostRead
  constructor
  · rintro ⟨before, id, after, e, hr, hn, hb⟩
    rw [e, List.filterMap_append, List.find?_append]
    have h1 : (List.filterMap s.read? before).find? (fun r => (s.laneOf r.bay).isNone) = none := by
      rw [List.find?_eq_none]
      intro x hx
      obtain ⟨i, hi, hx⟩ := List.mem_filterMap.mp hx
      obtain ⟨m, hm⟩ := hb i hi x hx
      intro h
      exact (s.laneOf_eq_none x.bay).mp (by simpa using h) m hm
    rw [h1]
    simp [hr, (s.laneOf_eq_none r.bay).mpr hn]
  · intro h
    obtain ⟨hp, as, bs, e, hb⟩ := List.find?_eq_some_iff_append.mp h
    obtain ⟨l1, l2, e1, e2, e3⟩ := List.filterMap_eq_append_iff.mp e
    obtain ⟨l3, id, l4, e4, e5, e6, e7⟩ := List.filterMap_eq_cons_iff.mp e3
    refine ⟨l1 ++ l3, id, l4, by rw [e1, e4, List.append_assoc], e6, (s.laneOf_eq_none r.bay).mp (by simpa using hp), ?_⟩
    intro i hi x hx
    rcases List.mem_append.mp hi with hi | hi
    · have hx : x ∈ as := e2 ▸ List.mem_filterMap.mpr ⟨i, hi, hx⟩
      have := hb x hx
      by_contra hc
      have : s.laneOf x.bay = none := (s.laneOf_eq_none x.bay).mpr (fun n hn => hc ⟨n, hn⟩)
      simp_all
    · rw [e5 i hi] at hx
      cases hx

theorem roundRobin_find?_iff (pointer : Fin 8) (p : Fin 8 → Bool) (b : Fin 8) :
    (∃ k, k < 8 ∧ b = Fin.ofNat 8 (pointer.val + 1 + k) ∧ p b = true ∧
      ∀ i, i < k → p (Fin.ofNat 8 (pointer.val + 1 + i)) = false) ↔ (roundRobin pointer).find? p = some b := by
  unfold roundRobin
  rw [List.find?_eq_some_iff_getElem]
  constructor
  · rintro ⟨k, hk, e, hp, hb⟩
    refine ⟨hp, k, by simpa using hk, by simp [e], fun j hj => ?_⟩
    simpa using hb j hj
  · rintro ⟨hp, k, hk, e, hb⟩
    refine ⟨k, by simpa using hk, by simp at e; exact e.symm, hp, fun i hi => ?_⟩
    simpa using hb i hi

/-- An eligible bay has a work item for its turn. -/
theorem State.bayEligible_item {s : State} {b : Fin 8} (h : s.bayEligible b = true) : ∃ i, bayItem (s.bay b) = some i := by
  simp only [State.bayEligible, bayWantsLane, Bool.and_eq_true] at h
  exact Option.isSome_iff_exists.mp h.1.1.2

theorem State.nextBay_iff (s : State) (b : Fin 8) (item : WorkItem) :
    s.nextBay = some (b, item) ↔ BayNext s b ∧ bayItem (s.bay b) = some item := by
  unfold State.nextBay BayNext
  rw [roundRobin_find?_iff, Option.bind_eq_some_iff]
  constructor
  · rintro ⟨a, h, k⟩
    obtain ⟨i, hi, e⟩ := Option.map_eq_some_iff.mp k
    cases e
    exact ⟨h, hi⟩
  · rintro ⟨h, k⟩
    exact ⟨b, h, by rw [k]; rfl⟩

theorem State.nextBay_none (s : State) : s.nextBay = none ↔ ∀ b, s.bayEligible b = false := by
  unfold State.nextBay
  constructor
  · intro h b
    cases e : (roundRobin s.arb.pointer).find? s.bayEligible with
    | none =>
      rw [List.find?_eq_none] at e
      have hb : b ∈ roundRobin s.arb.pointer := by
        generalize s.arb.pointer = q
        revert q b
        decide
      simpa using e b hb
    | some a =>
      obtain ⟨i, hi⟩ := State.bayEligible_item (List.find?_some e)
      simp [e, hi] at h
  · intro h
    have : (roundRobin s.arb.pointer).find? s.bayEligible = none := by
      rw [List.find?_eq_none]
      intro a _
      simp [h a]
    simp [this]

theorem State.grantHost_given (s : State) (n : Fin 4) (r : CardRead) : HostGiven s (s.grantHost n r) n r := by
  intro v hv
  subst hv
  unfold State.grantHost
  refine ⟨fun h => ?_, fun g h k => ?_⟩
  · split
    · rename_i g h1 h2
      rcases h with h | h
      · exact absurd h1 h
      · rw [h2] at h; cases h
    · rfl
  · split
    · rename_i g' _ h2
      obtain rfl : g' = g := Option.some.inj (h2.symm.trans k)
      exact ⟨fun l => by rw [if_pos l], fun l => by rw [if_neg (by omega)]; rfl⟩
    · rename_i h1
      exact absurd k (h1 g h)

theorem burstOf_eq (plan : Fin 4) (mode : HealthMode) :
    burstOf plan mode = if mode = .normal then (Config.planRow plan).burst else 1 := by
  cases mode <;> rfl

theorem State.startTurn_given (s : State) (n : Fin 4) (b : Fin 8) (item : WorkItem) :
    ({ s with arb := { s.arb with pointer := b } } : State).startTurn n b item = turnGiven s n b item := by
  unfold State.startTurn State.claimNext
  rw [State.lane_setLane, burstOf_eq]
  unfold State.setLane
  dsimp only
  rw [Vector.set_set]
  rfl

/-- Everything that one grant can do (R52). -/
theorem State.grantOne_cases (s : State) :
    (s.grantOne = none ∧ ((∀ n, ¬ LaneNext s n) ∨ ((∀ r, ¬ HostNext s r) ∧ ∀ b, s.bayEligible b = false))) ∨
    (∃ n r, s.grantOne = some (s.grantHost n r) ∧ LaneNext s n ∧ HostNext s r) ∨
    ∃ n b item, s.grantOne = some (turnGiven s n b item) ∧ LaneNext s n ∧ (∀ r, ¬ HostNext s r) ∧ BayNext s b ∧
      bayItem (s.bay b) = some item := by
  simp only [State.laneNext_iff, State.hostNext_iff]
  unfold State.grantOne
  cases ha : s.arb.asking with
  | some q => exact .inl ⟨rfl, .inl (by simp)⟩
  | none =>
    cases hl : s.freeActiveLane with
    | none => exact .inl ⟨rfl, .inl (by simp)⟩
    | some n =>
      cases hr : s.nextHostRead with
      | some r => exact .inr (.inl ⟨n, r, rfl, ⟨rfl, rfl⟩, rfl⟩)
      | none =>
        cases hb : s.nextBay with
        | none => exact .inl ⟨rfl, .inr ⟨by simp, (s.nextBay_none).mp hb⟩⟩
        | some x =>
          obtain ⟨b, item⟩ := x
          have := (s.nextBay_iff b item).mp hb
          exact .inr (.inr ⟨n, b, item, by simp [State.startTurn_given], ⟨rfl, rfl⟩, by simp, this.1, this.2⟩)

/-! ## A search for grants comes to its end -/

/-- The host card reads on the list and the FREE lanes: one of them is used up by each grant. -/
def State.grantsLeft (s : State) : Nat :=
  s.arb.requests.length + ((List.finRange 4).filter (fun n => (s.lane n).holder.isNone)).length

theorem free_le (s t : State) (h : ∀ m, (t.lane m).holder = none → (s.lane m).holder = none) :
    ((List.finRange 4).filter (fun n => (t.lane n).holder.isNone)).length ≤
      ((List.finRange 4).filter (fun n => (s.lane n).holder.isNone)).length := by
  simp only [← List.countP_eq_length_filter]
  exact List.countP_mono_left (fun m _ hm => by simp at hm ⊢; exact h m hm)

theorem free_lt (s t : State) (n : Fin 4) (h : ∀ m, (t.lane m).holder = none → (s.lane m).holder = none)
    (hs : (s.lane n).holder = none) (ht : (t.lane n).holder ≠ none) :
    ((List.finRange 4).filter (fun n => (t.lane n).holder.isNone)).length <
      ((List.finRange 4).filter (fun n => (s.lane n).holder.isNone)).length := by
  rw [show (List.finRange 4).filter (fun n => (t.lane n).holder.isNone) =
      ((List.finRange 4).filter (fun n => (s.lane n).holder.isNone)).filter (fun n => (t.lane n).holder.isNone) by
    rw [List.filter_filter]
    apply List.filter_congr
    intro m _
    cases e : (t.lane m).holder <;> simp
    exact h m e]
  rw [List.length_filter_lt_length_iff_exists]
  exact ⟨n, by simp [hs], by simpa using ht⟩

theorem State.grantHost_lanes (s : State) (n m : Fin 4) (r : CardRead)
    (h : ((s.grantHost n r).lane m).holder = none) (hm : (s.lane n).holder = none) : (s.lane m).holder = none := by
  by_contra hc
  rw [State.grantHost_held s n m r hm (Option.isSome_iff_ne_none.mpr hc)] at h
  exact hc h

theorem State.grantHost_requests (s : State) (n : Fin 4) (r : CardRead) :
    (s.grantHost n r).arb.requests = s.arb.requests.filter (fun i => i != r.id) := by
  unfold State.grantHost
  dsimp only
  repeat' split
  all_goals simp

theorem State.grantsLeft_lt {s t : State} (h : s.grantOne = some t) : t.grantsLeft < s.grantsLeft := by
  rcases s.grantOne_cases with ⟨e, _⟩ | ⟨n, r, e, hn, hr⟩ | ⟨n, b, item, e, hn, _⟩
  · rw [e] at h; cases h
  · rw [e] at h
    cases h
    obtain ⟨before, id, after, e1, e2, _⟩ := hr
    have hid : id = r.id := by
      have := List.find?_some e2
      exact (by simpa using this : r.id = id).symm
    have h1 := free_le s (s.grantHost n r) (fun m hm => State.grantHost_lanes s n m r hm hn.2.2.1)
    have h2 : (s.grantHost n r).arb.requests.length < s.arb.requests.length := by
      rw [State.grantHost_requests, List.length_filter_lt_length_iff_exists]
      exact ⟨id, by simp [e1], by simp [hid]⟩
    unfold State.grantsLeft
    omega
  · rw [e] at h
    cases h
    have h1 := free_lt s (turnGiven s n b item) n (fun m hm => ?_) hn.2.2.1 (by simp [turnGiven, State.setBay, State.lane])
    · have h2 : (turnGiven s n b item).arb.requests = s.arb.requests := rfl
      unfold State.grantsLeft
      rw [h2]
      omega
    · by_cases e : m = n
      · subst e; exact hn.2.2.1
      · have e' : n.val ≠ m.val := fun h => e (Fin.ext h.symm)
        have : (turnGiven s n b item).lane m = s.lane m := by simp [turnGiven, State.setBay, State.lane, e']
        rw [this] at hm
        exact hm

theorem State.grantUpTo_round (k : Nat) (s : State) (h : s.grantsLeft < k) : GrantRound s (State.grantUpTo k s) := by
  induction k generalizing s with
  | zero => omega
  | succ k ih =>
    unfold State.grantUpTo
    rcases s.grantOne_cases with ⟨e, he⟩ | ⟨n, r, e, hn, hr⟩ | ⟨n, b, item, e, hn, hr, hb, hi⟩
    · rw [e]
      exact .ends s he
    · have := State.grantsLeft_lt e
      rw [e]
      exact .host s _ _ n r hn hr (State.grantHost_given s n r) (ih _ (by omega))
    · have := State.grantsLeft_lt e
      rw [e]
      exact .bay s _ n b item hn hr hb hi (ih _ (by omega))

/-- The arbiter's search for grants goes on until no FREE active lane remains or no requester is eligible (R52). -/
theorem State.grants_round (s : State) : GrantRound s s.grants := by
  refine State.grantUpTo_round _ s ?_
  have : ((List.finRange 4).filter (fun n => (s.lane n).holder.isNone)).length ≤ 4 :=
    (List.length_filter_le _ _).trans (by simp)
  unfold State.grantsLeft
  omega

/-- A lane is returned, and the arbiter looks for grants (R52, R55). -/
theorem State.returnLane_round (s : State) (n : Fin 4) : GrantRound (laneBack s n) (s.returnLane n) := by
  rw [← freeLane_eq]
  exact State.grants_round _

end Sys2Proof.Machine
end

