-- ==== Sys2Proof/Laws/Attempts.lean ====
section
/-! SUPPORT. What the end of a block read attempt does: how a failure is judged, what taking a block leaves, and that a lane
with no extent in progress takes no zeros (R54 to R56, R60 to R66). -/

namespace Sys2Proof.Machine

/-! ## Failures judged -/

theorem lampOf_careful (x : Bay) (k f : Nat) (w : Option Nat) :
    lampOf { x with fails := f, health := { x.health with mode := .careful, window := w, count := k } } =
      lampOf { x with health := { x.health with mode := .careful } } := rfl

/-- Entering CAREFUL shortens the turn of the lane that the bay holds for its work, and leaves one that serves a host card read as
it is (R53, R66). -/
theorem State.shortenTurn_cases (s : State) (b : Fin 8) (n : Fin 4) (o : OnlyLane s n b) :
    (∀ item, (s.lane n).holder = some (.work b item) → s.shortenTurn b = s.setLane n { s.lane n with endTurn := true }) ∧
    (∀ r, (s.lane n).holder = some (.host r) → r.bay = b → s.shortenTurn b = s) := by
  constructor
  · intro item h
    rw [State.shortenTurn, State.laneOf_only (by simp [holderBay, h]) o]
    simp [h]
  · intro r h e
    rw [State.shortenTurn, State.laneOf_only (by simp [holderBay, h, e]) o]
    simp [h]

theorem State.setBay_setBay (s : State) (b : Fin 8) (x y : Bay) : (s.setBay b x).setBay b y = s.setBay b y := by
  unfold State.setBay
  dsimp only
  rw [Vector.set_set]

/-- What the shortening of a turn looks at, and changes, is the lanes. -/
theorem State.shortenTurn_setBay (s : State) (b a : Fin 8) (x : Bay) :
    (s.setBay a x).shortenTurn b = (s.shortenTurn b).setBay a x := by
  have h : (s.setBay a x).laneOf b = s.laneOf b := rfl
  unfold State.shortenTurn
  rw [h]
  split
  · rfl
  · simp only [State.lane_of_arb (State.setBay_arb s a x)]
    split <;> rfl

@[simp] theorem State.shortenTurn_bay (s : State) (b a : Fin 8) : (s.shortenTurn b).bay a = s.bay a :=
  State.bay_of_bays (State.shortenTurn_frame s b).1 a

/-- A bay enters CAREFUL: the record, the notice and the shortened turn (R66). -/
theorem State.changeMode_careful (s : State) (b : Fin 8) (k : Nat) :
    (s.setBay b { s.bay b with
      fails := (s.bay b).fails + 1, health := { (s.bay b).health with count := k } }).changeMode b .careful =
      (carefulEntered s b 0).shortenTurn b := by
  unfold State.changeMode carefulEntered
  dsimp only
  congr 1
  simp only [State.bayNotice, State.notify, State.send, State.lampSet, State.bay_setBay, State.setBay_setBay]
  unfold State.setBay State.bay
  simp [Vector.set_set, carefulRecord, Health.change]
  rfl

/-- The retry event of a block exhausted in NORMAL counts in the new window (R60). -/
theorem State.carefulEntered_retry (s : State) (b : Fin 8) (run : (s.bay b).health.running = true) :
    ((carefulEntered s b 0).shortenTurn b).retryEvent b = (carefulEntered s b 1).shortenTurn b := by
  have e : (carefulEntered s b 0).bay b = carefulRecord (s.bay b) 0 := State.bay_setBay _ _ _
  unfold State.retryEvent
  simp only [State.shortenTurn_bay, e]
  rw [if_pos (show (carefulRecord (s.bay b) 0).health.running = true from run), ← State.shortenTurn_setBay]
  unfold carefulEntered
  rw [State.setBay_setBay]
  rfl

/-- A retry event in a running monitor (R64, R65). -/
theorem State.retryEvent_running (s : State) (b : Fin 8) (run : (s.bay b).health.running = true) (t : State)
    (ht : t = s.setBay b { s.bay b with health := { (s.bay b).health with count := (s.bay b).health.count + 1 } }) :
    s.retryEvent b = if (s.bay b).health.mode = .normal ∧ (s.bay b).health.up < (s.bay b).health.count + 1 then
      t.changeMode b .careful else t := by
  unfold State.retryEvent
  dsimp only
  rw [if_pos run, ← ht]
  cases (s.bay b).health.mode <;> simp

/-- A failed attempt while attempts are left is counted on the block, and is a retry event, in the window that the bay's entry into
CAREFUL starts where the block is exhausted in NORMAL (R60, R64, R65). -/
theorem State.judgeFailure_again (s : State) (b : Fin 8) (run : (s.bay b).health.running = true)
    (h : (s.bay b).fails + 1 < 8) :
    (¬ EntersCareful (s.bay b) → s.judgeFailure b = (retried s b, .again)) ∧
    (EntersCareful (s.bay b) →
      s.judgeFailure b = ((carefulEntered s b (entryCount (s.bay b))).shortenTurn b, .again)) := by
  have hc : (s.bay b).fails + 1 < Config.carefulAttempts := h
  have hn : (s.setBay b { s.bay b with fails := (s.bay b).fails + 1 }).changeMode b .careful =
      (carefulEntered s b 0).shortenTurn b := State.changeMode_careful s b _
  have hk : (retried s b).changeMode b .careful = (carefulEntered s b 0).shortenTurn b := State.changeMode_careful s b _
  have hr := State.retryEvent_running (s.setBay b { s.bay b with fails := (s.bay b).fails + 1 }) b
    (by rw [State.bay_setBay]; exact run) (retried s b) (by rw [State.bay_setBay, State.setBay_setBay]; rfl)
  rw [State.bay_setBay, hk] at hr
  unfold State.judgeFailure EntersCareful entryCount
  dsimp only
  rw [hr, hn, State.carefulEntered_retry s b run]
  dsimp only
  cases e : (s.bay b).health.mode <;> by_cases k : (s.bay b).fails + 1 < Config.normalAttempts
  · have h4 : ¬ 4 ≤ (s.bay b).fails + 1 := by simp [Config.normalAttempts] at k; omega
    simp only [k, h4, if_true, if_false, true_and, false_or]
    exact ⟨fun g => by rw [if_neg g], fun g => by rw [if_pos g]⟩
  · have h4 : 4 ≤ (s.bay b).fails + 1 := by simp [Config.normalAttempts] at k; omega
    simp [k, h4, hc]
  · simp [hc]
  · simp [hc]

/-- The eighth failed attempt on a block is judged uncorrectable (R60). -/
theorem State.judgeFailure_eighth (s : State) (b : Fin 8) (h : 8 ≤ (s.bay b).fails + 1) :
    s.judgeFailure b = (if (s.bay b).health.mode = .careful then eighthFailed s b else (eighthFailed s b).shortenTurn b,
      .uncorrectable) := by
  unfold State.judgeFailure eighthFailed
  dsimp only
  cases e : (s.bay b).health.mode
  · simp only [show ¬ (s.bay b).fails + 1 < Config.normalAttempts from by simp [Config.normalAttempts]; omega,
      show ¬ (s.bay b).fails + 1 < Config.carefulAttempts from by simp [Config.carefulAttempts]; omega, if_false]
    exact Prod.ext (State.changeMode_careful s b _) rfl
  · simp only [show ¬ (s.bay b).fails + 1 < Config.carefulAttempts from by simp [Config.carefulAttempts]; omega, if_false,
      if_true]

/-! ## Lanes with no extent in progress -/

/-- A search for grants gives no lane an extent. -/
theorem GrantRound.extent_none {s t : State} (h : GrantRound s t) (n : Fin 4) (e : (s.lane n).extent = none) :
    (t.lane n).extent = none := by
  induction h with
  | ends => exact e
  | host s u t m r hn hr hu h ih =>
    apply ih
    obtain ⟨h1, h2⟩ := hu _ rfl
    have hv : ∀ c b, (({ s with arb := { s.arb with requests := s.arb.requests.filter (fun i => i != r.id) } } : State).endRead
        r.id c b).lane n = s.lane n := fun c b => State.lane_of_arb (State.endRead_arb _ _ _ _) n
    by_cases k : (s.bay r.bay).state = .mounted
    · cases g : (s.bay r.bay).sig with
      | none => rw [h1 (.inr g), hv]; exact e
      | some g' =>
        obtain ⟨h3, h4⟩ := h2 g' k g
        by_cases l : g'.capacity ≤ r.start
        · rw [h3 l, hv]; exact e
        · rw [h4 (by omega)]
          by_cases x : n = m
          · subst x; simp [Lane.reset]
          · rw [State.lane_setLane_ne _ _ _ _ x]; exact e
    · rw [h1 (.inl k), hv]; exact e
  | bay s t m b item hn hr hb hi h ih =>
    apply ih
    by_cases x : n = m
    · subst x; simp [turnGiven, State.setBay, State.lane, Lane.reset]
    · have x' : m.val ≠ n.val := fun h => x (Fin.ext h.symm)
      have : (turnGiven s m b item).lane n = s.lane n := by simp [turnGiven, State.setBay, State.lane, x']
      rw [this]; exact e

@[simp] theorem laneBack_lane (s : State) (n : Fin 4) : (laneBack s n).lane n = Lane.reset := by
  simp [laneBack, State.lane]

theorem State.returnLane_extent (s : State) (n : Fin 4) : ((s.returnLane n).lane n).extent = none :=
  (s.returnLane_round n).extent_none n (by simp [Lane.reset])

/-- A lane with no extent in progress stands at no block. -/
theorem State.atDamaged_none (s : State) (n : Fin 4) (h : (s.lane n).extent = none) : s.atDamaged n = false := by
  unfold State.atDamaged
  rw [h]
  split <;> simp_all

/-- Only a repair read has a damage list (R62). -/
theorem State.atDamaged_clip (s : State) (n : Fin 4) (b : Fin 8) (c : Nat) (h : (s.lane n).holder = some (.work b (.clip c))) :
    s.atDamaged n = false := by
  unfold State.atDamaged
  split <;> simp_all

/-- A lane that does not stand at a block of the damage list takes no zeros (R62). -/
theorem State.skipZeros_sound (s : State) (n : Fin 4) (h : s.atDamaged n = false) : s.skipZeros n = s := by
  simp [State.skipZeros, State.skipDamaged, Config.maxDamage, h]

/-! ## Blocks taken -/

theorem withoutItem_eq (x : Bay) (item : WorkItem) : loseItem x item = withoutItem x item := by cases item <;> rfl

theorem State.readEnds_eq (s : State) (n : Fin 4) (b : Fin 8) (item : WorkItem) (i : Nat) (c : ClaimId) (d : DigestState) :
    s.readEnds n b item i c d = (({ s with wire := s.wire ++ [match item with
        | .clip k => .readCompletion n k d
        | .repair k p => .repairReadCompletion n k p (d.reg ^^^ BitVec.allOnes 64)] } : State).setBay b
        (withoutItem (s.bay b) item)).setLane n { s.lane n with
          unit := some d, extent := none, filled := (s.lane n).filled + 1
          ack := some ⟨i, c, d.count - c.seq * 4194304⟩ } := by
  cases item <;> rfl

/-- The end of an extent that is not the last: the turn ends and the lane is returned, or the next one is claimed (R54, R55). -/
theorem State.extentEnds_eq (s : State) (n : Fin 4) (b : Fin 8) (item : WorkItem) (i : Nat) (c : ClaimId) (d : DigestState)
    (l : Lane) (hl : l = { s.lane n with unit := some d, extent := none, filled := (s.lane n).filled + 1 }) :
    s.extentEnds n b item i c d = if l.burst ≤ l.filled ∨ l.endTurn = true then
        (({ s with wire := s.wire ++ [.extentComplete i c 4194304, .burstEndReport item d] } : State).setLane n l).returnLane n
      else ({ s with wire := s.wire ++ [.extentComplete i c 4194304, .extentClaim (.lane n b) (claimOf item d.count)] } :
        State).setLane n { l with claim := some (claimOf item d.count) } := by
  subst hl
  unfold State.extentEnds State.claimNext State.send State.setLane State.lane
  simp [Vector.set_set, Config.extentBytes]

/-- Everything that the taking of a block can do (R54 to R56). -/
theorem State.takeBlock_taken (s : State) (n : Fin 4) (b : Fin 8) (item : WorkItem) (i : Nat) (d : DigestState) (w : ReadWork)
    (data : List Byte) (hh : (s.lane n).holder = some (.work b item)) (he : (s.lane n).extent = some i)
    (hd : (s.lane n).unit = some d) (hw : bayWork (s.bay b) item = some w) :
    BlockTaken s (s.takeBlock n data) n b item i d w.length (data.take (min 512 (w.length - d.count))) := by
  intro d' c x l u hd' hc hx hl hu
  have hb : blockShare w.length d.count data = data.take (min 512 (w.length - d.count)) := rfl
  have hf : digestFeed d (data.take (min 512 (w.length - d.count))) = d' := hd'.symm
  have hp : (s.place i c (d.count % Config.extentBytes) (data.take (min 512 (w.length - d.count)))).setBay b
      { s.bay b with fails := 0 } = u := by rw [hu, hx]; rfl
  have ha : u.lane n = s.lane n := by rw [hu]; rfl
  have hy : u.bay b = x := by rw [hu, State.bay_setBay]
  have hu' : u.wire = s.wire := by rw [hu]; rfl
  have key : s.takeBlock n data = if w.length ≤ d'.count then u.readEnds n b item i c d'
      else if d'.count % 4194304 = 0 then u.extentEnds n b item i c d' else u.setLane n { s.lane n with unit := some d' } := by
    unfold State.takeBlock
    split
    · rename_i b₁ item₁ d₁ i₁ k₁ k₂ k₃
      obtain ⟨rfl, rfl⟩ := (Holder.work.injEq _ _ _ _).mp (Option.some.inj (hh.symm.trans k₁))
      obtain rfl := Option.some.inj (hd.symm.trans k₂)
      obtain rfl := Option.some.inj (he.symm.trans k₃)
      rw [hw]
      dsimp only
      rw [hb, hf, ← hc, hp]
      rfl
    · rename_i k
      exact absurd he (fun e => k _ _ _ _ hh hd e)
  rw [key]
  refine ⟨fun h1 h2 => ?_, fun h1 => ?_, fun h1 h2 => ⟨fun h3 => ?_, fun h3 h4 => ?_⟩⟩
  · rw [if_neg (by omega), if_neg h2]
  · rw [if_pos h1, State.readEnds_eq, ha, hy, hu']
    subst hl
    rfl
  · rw [if_neg (by omega), if_pos h2, State.extentEnds_eq u n b item i c d' l (by rw [ha, hl]), if_pos h3, hu']
    have e : laneBack (({ u with wire := s.wire ++ [.extentComplete i c 4194304, .burstEndReport item d'] } : State).setLane n l) n
        = laneBack { u with wire := s.wire ++ [.extentComplete i c 4194304, .burstEndReport item d'] } n := by
      have el : (({ u with wire := s.wire ++ [.extentComplete i c 4194304, .burstEndReport item d'] } : State).setLane n l).lane n
          = l := State.lane_setLane _ _ _
      have eu : ({ u with wire := s.wire ++ [.extentComplete i c 4194304, .burstEndReport item d'] } : State).lane n = s.lane n :=
        ha
      unfold laneBack
      rw [el, eu, hl]
      simp [State.setLane, Vector.set_set]
    rw [← e]
    exact State.returnLane_round _ n
  · rw [if_neg (by omega), if_pos h2, State.extentEnds_eq u n b item i c d' l (by rw [ha, hl]),
      if_neg (by rintro (h | h); omega; rw [h4] at h; cases h), hu']

/-- After a block of a clip's read no zeros are taken. -/
theorem BlockTaken.atDamaged_clip {s t : State} {n : Fin 4} {b : Fin 8} {c i length : Nat} {d : DigestState} {bytes : List Byte}
    (h : BlockTaken s t n b (.clip c) i d length bytes) (hh : (s.lane n).holder = some (.work b (.clip c))) :
    t.atDamaged n = false := by
  obtain ⟨h1, h2, h3⟩ := h _ _ _ _ _ rfl rfl rfl rfl rfl
  by_cases k : length ≤ d.count + bytes.length
  · rw [h2 k]
    exact State.atDamaged_none _ _ (by rw [State.lane_setLane])
  · by_cases e : (d.count + bytes.length) % 4194304 = 0
    · obtain ⟨h4, h5⟩ := h3 (by simpa using k) e
      by_cases z : (s.lane n).burst ≤ (s.lane n).filled + 1 ∨ (s.lane n).endTurn = true
      · exact State.atDamaged_none _ _ ((h4 z).extent_none n (by rw [laneBack_lane]; rfl))
      · rw [h5 (by simp; omega) (by simpa using (fun h => z (.inr h)))]
        exact State.atDamaged_none _ _ (by rw [State.lane_setLane])
    · rw [h1 (by simpa using k) e]
      exact State.atDamaged_clip _ _ b c (by simpa using hh)

end Sys2Proof.Machine
end

