-- ==== Sys2Proof/Laws/ClipEnds.lean ====
section
/-! SUPPORT. What the end of a clip, its decision and the completion of its read leave, one lemma for each, in the
words of Safety.lean (R8, R20 to R24). -/

namespace Sys2Proof.Machine

/-! ## Records looked up after a change -/

/-- A clip that is found by its id has it. -/
theorem State.id_of_clip? (s : State) (i : Nat) (c : Clip) (h : s.clip? i = some c) : c.id = i := by
  have := List.find?_some h; simpa using this

/-- A job that is found by its id has it. -/
theorem State.id_of_job? (s : State) (i : Nat) (j : Job) (h : s.job? i = some j) : j.id = i := by
  have := List.find?_some h; simpa using this

/-- Looking a clip up in a table in which one clip has been changed. -/
theorem find_clip_map (l : List Clip) (i k : Nat) (f : Clip → Clip) (hf : ∀ x, x.id = i → (f x).id = i) :
    (l.map (fun x => if x.id = i then f x else x)).find? (fun x => x.id == k) =
      (l.find? (fun x => x.id == k)).map (fun x => if x.id = i then f x else x) := by
  rw [List.find?_map]
  have h : (fun x : Clip => x.id == k) ∘ (fun x => if x.id = i then f x else x) = fun x => x.id == k := by
    funext x
    simp only [Function.comp]
    by_cases e : x.id = i
    · rw [if_pos e, hf x e, e]
    · rw [if_neg e]
  rw [h]

/-- The clip that has been replaced is found as it is now. -/
theorem State.clip?_modClip_self (s : State) (i : Nat) (c d : Clip) (h : s.clip? i = some c) (hf : d.id = i) :
    (s.modClip i (fun _ => d)).clip? i = some d := by
  have hid := State.id_of_clip? s i c h
  have := find_clip_map s.jm.clips i i (fun _ => d) (fun _ _ => hf)
  simp only [State.clip?, State.modClip] at *
  rw [this, h]; simp [hid]

/-- Any other clip is found as before. -/
theorem State.clip?_modClip_other (s : State) (i k : Nat) (d : Clip) (hd : d.id = i) (hk : k ≠ i) :
    (s.modClip i (fun _ => d)).clip? k = s.clip? k := by
  unfold State.clip? State.modClip
  dsimp only
  generalize s.jm.clips = l
  induction l with
  | nil => simp
  | cons y ys ih =>
    by_cases e : y.id = i
    · have : y.id ≠ k := by omega
      simp [e, hd, hk.symm, ih]
    · by_cases e2 : y.id = k
      · simp [e2, hk]
      · simp [e, e2, ih]

/-- A clip replaced and then changed is the clip replaced by what the change makes of it. -/
theorem State.modClip_of_modClip (s : State) (i : Nat) (a : Clip) (f : Clip → Clip) (ha : a.id = i) :
    (s.modClip i (fun _ => a)).modClip i f = s.modClip i (fun _ => f a) := by
  simp only [State.modClip, List.map_map]
  congr 2
  apply List.map_congr_left
  intro x _
  simp only [Function.comp]
  by_cases h : x.id = i
  · simp [h, ha]
  · simp [h]

/-- The words to the ports at the end of a clip are those that `runEnds` lists (R107, R108). -/
theorem placementMessages_eq (v : VerifyMode) (c : Clip) : placementMessages v c = runEnds v c := by
  unfold placementMessages runEnds
  induction c.copies with
  | nil => rfl
  | cons k ks ih =>
    rw [List.filterMap_cons, List.filter_cons]
    cases h : k.placement with
    | none => simpa using ih
    | some p => by_cases hs : copySettled v k <;> simp [hs] <;> simpa using ih

/-- Looking up a job that has been changed. -/
theorem find_job_map (l : List Job) (i : Nat) (f : Job → Job) (hf : ∀ j, (f j).id = j.id) (j : Job)
   (h : l.find? (fun j => j.id == i) = some j) :
   (l.map (fun j => if j.id = i then f j else j)).find? (fun j => j.id == i) = some (f j) := by
  rw [List.find?_map]
  have e : (fun x : Job => x.id == i) ∘ (fun x => if x.id = i then f x else x) = fun x => x.id == i := by
    funext x
    simp only [Function.comp]
    by_cases e : x.id = i
    · rw [if_pos e, hf x]
    · rw [if_neg e]
  have hid : j.id = i := by have := List.find?_some h; simpa using this
  rw [e, h]; simp [hid]

/-- Dropping a copy, in the words of the statements (R11). -/
theorem dropCopy_eq : dropCopy = droppedCopy := rfl

/-- The count of a terminal state, in the words of the statements (R8). -/
theorem countEnd_eq (st : ClipState) (k : Counts) : countEnd st k = countsAfter k st := by
  cases st <;> simp [countEnd, countsAfter]

/-- The record of a clip that ends in a state with a cause (R8, R11). -/
def endedAs (j : Job) (c : Clip) (st : ClipState) (cause : Option Cause) : Clip :=
  { c with state := st, wait := none, cause := cause, running := none, copies := c.copies.map (droppedCopy j.verify) }

/-- All that the end of a clip leaves where its job has other clips left (R3, R8). -/
theorem State.endClip_tested (s : State) (j : Job) (c : Clip) (st : ClipState) (cause : Option Cause) (ms : List Instr)
    (hj : s.job? c.job = some j) (hn : ¬ OthersEnded s j c.id) :
    ((s.endClip c st cause).sendAll ms).testJob c.job =
      clipEnded s j (endedAs j c st cause)
        (s.wire ++ [.noticeQueued (.clip c.id c.job st none cause)] ++ ms) := by
  have hv : s.verifyOfClip c = j.verify := by simp [State.verifyOfClip, hj]
  have hid := State.id_of_job? s _ _ hj
  have e : (s.endClip c st cause).sendAll ms = clipEnded s j (endedAs j c st cause)
        (s.wire ++ [.noticeQueued (.clip c.id c.job st none cause)] ++ ms) := by
    simp only [State.endClip, hv, clipEnded, endedAs, hid, State.sendAll, State.notify, State.send, endRecord, clipNotice,
      State.modClip, State.modJob, countEnd_eq, dropCopy_eq]
    rfl
  rw [e]
  set t := clipEnded s j (endedAs j c st cause)
        (s.wire ++ [.noticeQueued (.clip c.id c.job st none cause)] ++ ms) with ht
  have hjob : t.job? c.job = some { j with counts := countsAfter j.counts st } := by
    rw [ht, ← hid]
    exact find_job_map s.jm.jobs j.id (fun k => { k with counts := countsAfter k.counts st }) (fun _ => rfl) j
      (by rw [hid]; exact hj)
  have hterm : t.allTerminal { j with counts := countsAfter j.counts st } = false := by
    by_contra h
    apply hn
    have h : (j.clips.all fun i => (t.clip? i).all clipTerminal) = true := by simpa [State.allTerminal] using h
    have h := List.all_eq_true.mp h
    intro i hi hne x hx
    have h1 := h i hi
    have h2 : t.clip? i = s.clip? i := by
      have := State.clip?_modClip_other s c.id i (endedAs j c st cause) rfl hne
      exact this
    rw [h2, hx] at h1
    simpa using h1
  simp only [State.testJob, hjob, hterm, Bool.false_eq_true, if_false]

/-- A copy that has succeeded, in the words of the statements (R12). -/
theorem copySucceeded_iff (v : VerifyMode) (k : Copy) : copySucceeded v k = true ↔ Succeeded v k := by
  unfold copySucceeded Succeeded
  cases k.state <;> simp

/-- The state and the cause computed at a decision are those that R24 gives. -/
theorem decisionState_decided (v : VerifyMode) (ks : List Copy) :
    Decided v ks (decisionState v ks) (match decisionState v ks with | .safe => none | _ => decisionCause v ks) := by
  have hsucc : ∀ k, copySucceeded v k = true ↔ Succeeded v k := copySucceeded_iff v
  refine ⟨?_, ?_, ?_⟩
  · intro h
    have : decisionState v ks = .safe := by
      unfold decisionState; rw [if_pos]
      rw [List.all_eq_true]; intro k hk
      cases hr : k.required <;> simp
      exact (hsucc k).mpr (h k hk hr)
    rw [this]; simp
  · rintro ⟨k, hk, hr, hs⟩
    have h1 : ¬ (ks.all (fun c => !c.required || copySucceeded v c) = true) := by
      intro h; have := List.all_eq_true.mp h k hk
      simp [hr] at this; exact hs ((hsucc k).mp this)
    constructor
    · rintro ⟨x, hx, hxs⟩
      unfold decisionState; rw [if_neg h1, if_pos]
      exact List.any_eq_true.mpr ⟨x, hx, (hsucc x).mpr hxs⟩
    · intro hno
      unfold decisionState; rw [if_neg h1, if_neg]
      intro h; obtain ⟨x, hx, hxs⟩ := List.any_eq_true.mp h
      exact hno x hx ((hsucc x).mp hxs)
  · rintro before k after rfl hr hs hb
    have h1 : decisionState v (before ++ k :: after) ≠ .safe := by
      have h0 : ¬ ((before ++ k :: after).all (fun c => !c.required || copySucceeded v c) = true) := by
        intro h; have := List.all_eq_true.mp h k (by simp)
        simp [hr] at this; exact hs ((hsucc k).mp this)
      unfold decisionState; rw [if_neg h0]; split <;> simp
    have h2 : (before ++ k :: after).find? (fun c => c.required && !copySucceeded v c) = some k := by
      rw [List.find?_append]
      have : before.find? (fun c => c.required && !copySucceeded v c) = none := by
        rw [List.find?_eq_none]; intro x hx
        cases hxr : x.required <;> simp
        exact (hsucc x).mpr (hb x hx hxr)
      rw [this]
      have hk : copySucceeded v k = false := by
        by_contra h; exact hs ((hsucc k).mp (by simpa using h))
      simp [hr, hk]
    have h3 : decisionCause v (before ++ k :: after) = k.cause := by simp only [decisionCause, h2]
    rw [h3]
    generalize decisionState v (before ++ k :: after) = st at h1
    cases st <;> first | rfl | exact absurd rfl h1

/-- What stood for the clip before it ended does not matter. -/
theorem clipEnded_of_modClip (s : State) (j : Job) (c d : Clip) (w w' : List Instr) (hd : d.id = c.id) :
    clipEnded (({ s with wire := w } : State).modClip c.id (fun _ => c)) j d w' = clipEnded s j d w' := by
  have := State.modClip_of_modClip ({ s with wire := w' } : State) c.id c (fun _ => d) rfl
  simp only [clipEnded, hd]
  rw [← this]; rfl

/-- All that the decision of a LANDING clip leaves (R24, R107). -/
theorem State.decideClip_leaves (s : State) (j : Job) (c d : Clip) (w : List Instr) (hd : s.clip? c.id = some d)
   (hj : s.job? c.job = some j) (hl : c.state = .landing) :
   DecisionLeaves s j c w ((({ s with wire := w } : State).modClip c.id (fun _ => c)).decideClip c.id) := by
  set t := (({ s with wire := w } : State).modClip c.id (fun _ => c)) with ht
  have hc : t.clip? c.id = some c := State.clip?_modClip_self { s with wire := w } c.id d c hd rfl
  have hjt : t.job? c.job = some j := hj
  have hv : t.verifyOfClip c = j.verify := by simp [State.verifyOfClip, hjt]
  constructor
  · rintro ⟨k, hk, hs⟩
    have : ¬ (c.state = .landing ∧ c.copies.all (copySettled j.verify) = true) := by
      intro h
      have := List.all_eq_true.mp h.2 k hk
      simp_all
    simp only [State.decideClip, hc, hv]
    rw [if_neg this]
  · intro hs
    have hall : c.copies.all (copySettled j.verify) = true := List.all_eq_true.mpr hs
    have hdrop : c.copies.map (droppedCopy j.verify) = c.copies := by
      conv_rhs => rw [← List.map_id c.copies]
      apply List.map_congr_left
      intro k hk
      simp [droppedCopy, hs k hk]
    refine ⟨decisionState j.verify c.copies, _, decisionState_decided j.verify c.copies, ?_⟩
    intro hn
    have hn' : ¬ OthersEnded t j c.id := by
      intro h; apply hn
      intro i hi hne x hx
      exact h i hi hne x (by rw [ht, State.clip?_modClip_other _ _ _ _ rfl hne]; exact hx)
    simp only [State.decideClip, hc, hv]
    rw [if_pos ⟨hl, hall⟩]
    rw [State.endClip_tested t j c _ _ _ hjt hn', placementMessages_eq, endedAs, hdrop, ht, clipEnded_of_modClip]
    · rfl
    · rfl

/-- The trailer appends of a clip of length 0 (R20, R124). -/
theorem State.appendTrailers_zero (s : State) (j : Job) (c y : Clip) (v : Digest) (hc : s.clip? c.id = some y)
   (hy : y.copies = c.copies) (hyj : y.job = c.job) (hyv : y.digest = some v) (hyl : y.length = 0)
   (hyd : y.damage = c.damage) (hyb : y.label = c.label)
   (hj : s.job? c.job = some j) (hl : c.length = 0) (hn : (c.copies.map Copy.port).Nodup) :
   s.appendTrailers c = { s with wire := s.wire ++ zeroTrailers j c v } := by
  have key : ∀ (ks : List Copy) (w : List Instr), (∀ k ∈ ks, k ∈ c.copies) →
     ks.foldl (fun t k => t.appendTrailer c.id k.port) { s with wire := w } =
      { s with wire := w ++ ks.filterMap (fun k => k.placement.map (fun pl =>
      .trailerAppend k.port c.id ⟨c.job, k.attempts, 0, v, j.sig, c.damage, pl.start, c.label⟩)) } := by
    intro ks
    induction ks with
    | nil => intro w _; simp
    | cons k ks ih =>
      intro w hk
      have hck : copyOn c k.port = some k := by
        have hm := hk k (by simp)
        unfold copyOn
        clear ih
        generalize c.copies = l at hn hm
        induction l with
        | nil => simp at hm
        | cons y ys ihh =>
          simp only [List.map_cons, List.nodup_cons] at hn
          rcases List.mem_cons.mp hm with rfl | h
          · simp
          · have : y.port ≠ k.port := fun e => hn.1 (e ▸ List.mem_map_of_mem h)
            simp [this]
            have := ihh hn.2 h
            simpa using this
      have hck' : copyOn y k.port = some k := by unfold copyOn at *; rw [hy]; exact hck
      have hc' : ({ s with wire := w } : State).clip? c.id = some y := hc
      have hj' : ({ s with wire := w } : State).job? y.job = some j := by rw [hyj]; exact hj
      have e : ({ s with wire := w } : State).appendTrailer c.id k.port =
        { s with wire := w ++ (k.placement.map (fun pl =>
      Instr.trailerAppend k.port c.id ⟨c.job, k.attempts, 0, v, j.sig, c.damage, pl.start, c.label⟩)).toList } := by
        simp only [State.appendTrailer, hc', hj', hck', hyv]
        cases hp : k.placement with
        | none => simp
        | some pl => simp [State.send, trailerFields, hyj, hyl, hyd, hyb]
      rw [List.foldl_cons, e, ih _ (fun x hx => hk x (by simp [hx]))]
      simp only [List.filterMap_cons, List.append_assoc]
      cases hp : k.placement <;> simp
  unfold State.appendTrailers zeroTrailers
  rw [if_pos hl]
  exact key _ s.wire (fun k hk => (List.mem_filter.mp hk).1)

/-- All that the completion of a clip's read leaves (R20 to R22). -/
theorem State.completeRead_leaves (s : State) (j : Job) (c : Clip) (d : DigestState) (w : List Instr)
   (hd : s.clip? c.id = some c) (hj : s.job? c.job = some j) (hn : (c.copies.map Copy.port).Nodup) :
   ReadLeaves s j c (digestFinal d) d.count w (({ s with wire := w } : State).completeRead c d) := by
  set S : State := { s with wire := w } with hS
  let C : Clip := { c with digest := some (digestFinal d), bytesRead := d.count, running := none }
  constructor
  · intro he
    simp only [State.completeRead, he, if_true]
    have m := State.modClip_of_modClip S c.id C (fun x => { x with state := .landing }) rfl
    rw [m]
    set L : Clip := { C with state := .landing } with hL
    have e : (if c.length = 0 then (S.modClip c.id (fun _ => L)).appendTrailers C else S.modClip c.id (fun _ => L)) =
       ({ s with wire := w ++ zeroTrailers j c (digestFinal d) } : State).modClip c.id (fun _ => L) := by
      by_cases h0 : c.length = 0
      · rw [if_pos h0, State.appendTrailers_zero (S.modClip c.id (fun _ => L)) j C L (digestFinal d)
          (State.clip?_modClip_self S c.id c L hd rfl) rfl rfl rfl h0 rfl rfl hj h0 hn]
        rfl
      · rw [if_neg h0]
        simp [zeroTrailers, h0, hS]
    simp only at e ⊢
    rw [e]
    exact State.decideClip_leaves s j L c _ hd hj rfl
  · intro x hx hxv
    have hne : ¬ (c.expected = none ∨ c.expected = some (digestFinal d)) := by
      rw [hx]; simp [hxv]
    constructor
    · intro hm ho
      simp only [State.completeRead]
      rw [if_neg hne, if_pos (show c.mismatch = true ∨ Config.maxReadAttempts ≤ c.attempts from hm)]
      set T := S.modClip c.id (fun _ => C) with hT
      have hc : T.clip? C.id = some C := State.clip?_modClip_self S c.id c C hd rfl
      have hv : T.verifyOfClip C = j.verify := by
        have : T.job? C.job = some j := hj
        simp [State.verifyOfClip, this]
      have hn' : ¬ OthersEnded T j C.id := by
        intro h; apply ho
        intro i hi hne x hx
        exact h i hi hne x ((State.clip?_modClip_other S c.id i C rfl hne).trans hx)
      have e : ∀ ms, ((T.endClip C .failed (some .sourceDigest)).send (.clipDiscard C.id)).sendAll ms =
          (T.endClip C .failed (some .sourceDigest)).sendAll (.clipDiscard C.id :: ms) := by
        intro ms
        simp [State.send, State.sendAll]
      simp only [State.failClip, if_true]
      rw [e, hv, State.endClip_tested T j C _ _ _ hj hn', placementMessages_eq, hT]
      have h := clipEnded_of_modClip s j C (endedAs j C .failed (some .sourceDigest)) w
      rw [show S.modClip c.id (fun _ => C) = ({ s with wire := w } : State).modClip C.id (fun _ => C) from rfl, h _ rfl]
      simp [endedAs]
      rfl
    · intro hm ha hst
      simp only [State.completeRead]
      rw [if_neg hne, if_neg (by simp only [hm, Config.maxReadAttempts]; simp; omega)]
      have hj2 : (S.modClip c.id (fun _ => C)).job? C.job = some j := hj
      have e : (S.modClip c.id (fun _ => C)).reRead C true =
          (((S.modClip c.id (fun _ => C)).modClip C.id (fun _ => reReadRecord true C)).send
            (.clipDiscard C.id)).sendAll (writingAbandonments C) := by
        simp only [State.reRead]
        split
        · next k hk =>
          have : k = j := by
            have h : (S.modClip c.id (fun _ => C)).job? C.job = some k := hk
            rw [hj2] at h; exact (Option.some.inj h).symm
          rw [this, if_neg hst]
        · rfl
      rw [e]
      have m := State.modClip_of_modClip S c.id C (fun _ => reReadRecord true C) rfl
      rw [show C.id = c.id from rfl, m]
      simp only [State.send, State.sendAll, State.modClip, hS, reReadRecord, Bool.or_true, writingAbandonments,
        rerunAbandonments]
      simp
      exact ⟨fun _ _ => rfl, rfl⟩

end Sys2Proof.Machine
end

