-- ==== Sys2Proof/Laws/DriveLink.lean ====
section
/-! SUPPORT. What a chunk started on a port's drive link can do (R136, R137): beside the link's own fields the port keeps its
record, and messages are only added. -/

namespace Sys2Proof.Machine

/-- The port's record apart from the drive link's fields stands, and what was in transit stays in front. -/
def LinkWork (p : Fin 4) (s t : State) : Prop := portCore (t.port p) = portCore (s.port p) ∧ s.wire <+: t.wire

theorem LinkWork.refl (p : Fin 4) (s : State) : LinkWork p s s := ⟨rfl, List.prefix_refl _⟩

theorem LinkWork.trans {p : Fin 4} {s t u : State} (h : LinkWork p s t) (k : LinkWork p t u) : LinkWork p s u :=
  ⟨k.1.trans h.1, h.2.trans k.2⟩

theorem LinkWork.setPort (p : Fin 4) (s : State) (x : Port) (h : portCore x = portCore (s.port p)) : LinkWork p s (s.setPort p x) :=
  ⟨by simpa using h, by simp⟩

theorem LinkWork.send (p : Fin 4) (s : State) (m : Instr) : LinkWork p s (s.send m) := ⟨by simp, by simp⟩

theorem LinkWork.startWrite (p : Fin 4) (s : State) : LinkWork p s (s.startWrite p) := by
  unfold State.startWrite
  repeat' split
  · exact refl p s
  · exact setPort p s _ rfl
  · exact refl p s

theorem LinkWork.startEntry (p : Fin 4) (s : State) (e : VerifyEntry) : LinkWork p s (s.startEntry p e) := by
  unfold State.startEntry
  have first := setPort p s { s.port p with engine := { Engine.reset with state := .reading, unit := some digestInitial } } rfl
  dsimp only
  repeat' split
  · exact first
  · exact first.trans ((send p _ _).trans (send p _ _))
  · exact first.trans (send p _ _)

theorem LinkWork.nextChunk (p : Fin 4) (s : State) (e : VerifyEntry) : LinkWork p s (s.nextChunk p e) := by
  unfold State.nextChunk
  repeat' split
  · exact refl p s
  · exact setPort p s _ rfl
  · exact setPort p s _ rfl
  · exact setPort p s _ rfl
  · exact trans (setPort p s _ (by rfl)) (send p _ _)

theorem LinkWork.startVerify (p : Fin 4) (s : State) : LinkWork p s (s.startVerify p) := by
  unfold State.startVerify
  repeat' split
  · exact refl p s
  · exact (startEntry p s _).trans (nextChunk p _ _)
  · exact nextChunk p s _

theorem LinkWork.runLink (p : Fin 4) (s : State) : LinkWork p s (s.runLink p) := by
  unfold State.runLink
  dsimp only
  repeat' split
  · exact refl p s
  · exact trans (setPort p s _ (by rfl)) (startWrite p _)
  · exact startVerify p s
  · exact trans (setPort p s _ (by rfl)) (startVerify p _)
  · exact refl p s

@[simp] theorem State.runLink_core (s : State) (p : Fin 4) : portCore ((s.runLink p).port p) = portCore (s.port p) :=
  (LinkWork.runLink p s).1

theorem State.runLink_wire (s : State) (p : Fin 4) : s.wire <+: (s.runLink p).wire := (LinkWork.runLink p s).2

/-- A port whose link is not free stands. -/
theorem State.runLink_busy (s : State) (p : Fin 4) (h : linkFree (s.port p) = false) : s.runLink p = s := by
  simp [State.runLink, h]

/-! ## The next chunk -/

theorem writeReady_iff (x : Port) (hs : x.state = .ready) (hw : x.write = none) : writeReady x = true ↔ WriteSide x := by
  simp [writeReady, WriteSide, hs, hw]

theorem verifyReady_iff (x : Port) (hs : x.state = .ready) : verifyReady x = true ↔ VerifySide x := by
  simp [verifyReady, VerifySide, hs, and_assoc]

theorem shareOf_eq (plan : Fin 4) (side : Side) :
    shareOf plan side = if side = .write then [1, 3, 1, 1][plan.val]! else [1, 1, 2, 1][plan.val]! := by
  cases side <;> (revert plan; decide)

/-- The choice of the side is the one that R137 words. -/
theorem shareChoice_of_given (plan : Fin 4) (x : Port) (sh : Share) (hs : x.state = .ready) (hw : x.write = none)
    (h : ShareGiven plan x sh) : shareChoice plan x.share (writeReady x) (verifyReady x) = some sh := by
  rw [ShareGiven, ← writeReady_iff x hs hw, ← verifyReady_iff x hs, ← shareOf_eq] at h
  rcases h with ⟨h1, h2, rfl⟩ | ⟨h1, h2, rfl⟩ | ⟨h1, h2, rfl⟩
  · rw [h1, h2, shareChoice]
    split
    · rfl
    · cases x.share.side <;> rfl
  · rw [h1, Bool.eq_false_of_not_eq_true h2, shareChoice, shareAlone]
    split <;> rfl
  · rw [Bool.eq_false_of_not_eq_true h1, h2, shareChoice, shareAlone]
    split <;> rfl

theorem extentCount_le (length k : Nat) : extentCount length ≤ k ↔ length ≤ k * 4194304 := by
  unfold extentCount ceilDiv
  simp only [Config.extentBytes]
  omega

/-- What the engine does with its chunk, once it is at its entry and the sharing record is set. -/
theorem State.nextChunk_moves (s : State) (p : Fin 4) (a : Area) (e : VerifyEntry) (sh : Share) (x : Port)
    (hx : s.port p = { x with share := if claimsFirst x then x.share else sh, engine := engineAt x }) (ha : x.area = some a)
    (hq : x.verifyQ.head? = some e) (starts : List Instr)
    (hs : e.repairPort = none → starts = (if x.engine.state = .idle then
      .verifyStart p e.clip :: (if e.length = 0 then [.verifyDigestReport p e.clip (some 0#64)] else []) else []))
    (hn : e.repairPort.isSome = true → starts = []) :
    ∃ ms, (s.nextChunk p e).wire = s.wire ++ ms ∧ EngineMoves p a e sh x ((s.nextChunk p e).port p) (starts ++ ms) := by
  rcases hr : e.repairPort with _ | rp
  · have hc : claimsFirst x = false := by simp [claimsFirst, hq, hr]
    have he : s.nextChunk p e = s.setPort p { s.port p with
        read := some (if (engineAt x).unreadable = true ∨ extentCount e.length ≤ (engineAt x).chunk then
          ⟨.trailer, trailerBlock e.runStart e.dataUnits a.unit, 1, false⟩ else dataRead .data a e (engineAt x).chunk) } := by
      unfold State.nextChunk
      simp only [hx, ha, hr]
      split <;> rfl
    refine ⟨[], by simp [he], ?_⟩
    rintro g first blocks rfl rfl rfl
    refine ⟨fun _ => ⟨by simp [hs hr], _, by rw [he, State.port_setPort, hx]; simp [hc]; rfl, fun h => ?_, fun h1 h2 => ?_⟩,
      fun rp h => by simp [hr] at h⟩
    · rw [if_pos (by rw [extentCount_le]; exact h)]
      rfl
    · rw [if_neg (by rw [extentCount_le]; simp [h1]; omega)]
      rfl
  · have hn := hn (by simp [hr])
    rcases hi : (engineAt x).extent with _ | i
    · have hc : claimsFirst x = true := by
        simp only [claimsFirst, hq, hr, Option.any_some, Option.isSome_some, Bool.true_and, Bool.or_eq_true,
          decide_eq_true_eq]
        by_cases hidle : x.engine.state = .idle
        · exact .inl hidle
        · exact .inr (by simpa [engineAt, hidle] using hi)
      refine ⟨[.extentClaim (.engine p) (siblingClaim e rp (engineAt x).chunk)], ?_, ?_⟩
      · unfold State.nextChunk
        simp [hx, ha, hr, hi]
      · rintro g first blocks rfl rfl rfl
        refine ⟨fun h => by simp [hr] at h, fun rp' h => ?_⟩
        obtain rfl : rp = rp' := by simpa [hr] using h
        refine ⟨fun i h => by simp [hi] at h, fun _ => ⟨by simp [hn, siblingClaim], ?_⟩⟩
        unfold State.nextChunk
        simp [hx, ha, hr, hi, hc, siblingClaim]
    · have hidle : x.engine.state ≠ .idle := by
        intro h
        simp [engineAt, h, Engine.reset] at hi
      have hc : claimsFirst x = false := by
        have : x.engine.extent = some i := by simpa [engineAt, hidle] using hi
        simp [claimsFirst, hq, hr, hidle, this]
      refine ⟨[], ?_, ?_⟩
      · unfold State.nextChunk
        simp [hx, ha, hr, hi]
      · rintro g first blocks rfl rfl rfl
        refine ⟨fun h => by simp [hr] at h, fun rp' _ => ⟨fun j _ => ⟨by simp [hn], ?_⟩, fun h => by simp [hi] at h⟩⟩
        unfold State.nextChunk
        simp [hx, ha, hr, hi, hc, dataRead, extentBlock, extentLength, Config.extentBytes]

theorem State.startVerify_moves (s : State) (p : Fin 4) (a : Area) (e : VerifyEntry) (rest : List VerifyEntry) (sh : Share)
    (x : Port) (hx : s.port p = { x with share := if claimsFirst x then x.share else sh }) (ha : x.area = some a)
    (hq : x.verifyQ = e :: rest) :
    ∃ ms, (s.startVerify p).wire = s.wire ++ ms ∧ EngineMoves p a e sh x ((s.startVerify p).port p) ms := by
  have hh : x.verifyQ.head? = some e := by simp [hq]
  by_cases hi : x.engine.state = .idle
  · have hs : s.startVerify p = (s.startEntry p e).nextChunk p e := by simp [State.startVerify, hx, hq, hi]
    have hp : (s.startEntry p e).port p = { x with share := if claimsFirst x then x.share else sh, engine := engineAt x } := by
      have : (s.startEntry p e).port p = { s.port p with engine := engineAt x } := by
        unfold State.startEntry
        repeat' split
        all_goals simp [engineAt, hi, digestInitial]
      rw [this, hx]
    obtain ⟨ms, hm, he⟩ := (s.startEntry p e).nextChunk_moves p a e sh x hp ha hh
      (if e.repairPort.isSome then [] else
        .verifyStart p e.clip :: (if e.length = 0 then [.verifyDigestReport p e.clip (some 0#64)] else []))
      (fun h => by simp [h, hi]) (fun h => by simp [h])
    refine ⟨_, ?_, hs ▸ he⟩
    rw [hs, hm]
    unfold State.startEntry
    rcases hr : e.repairPort with _ | rp
    · by_cases hl : e.length = 0 <;> simp [hl, digestFinal, digestInitial]
    · simp
  · have hs : s.startVerify p = s.nextChunk p e := by simp [State.startVerify, hx, hq]
    rw [hs]
    exact s.nextChunk_moves p a e sh x (by rw [hx, engineAt, if_neg hi]) ha hh [] (fun _ => by simp [hi]) (fun _ => rfl)

theorem ShareGiven.exists (plan : Fin 4) (x : Port) (h : WriteSide x ∨ VerifySide x) : ∃ sh, ShareGiven plan x sh := by
  by_cases hw : WriteSide x <;> by_cases hv : VerifySide x
  · exact ⟨_, .inl ⟨hw, hv, rfl⟩⟩
  · exact ⟨_, .inr (.inl ⟨hw, hv, rfl⟩)⟩
  · exact ⟨_, .inr (.inr ⟨hw, hv, rfl⟩)⟩
  · exact (h.elim hw hv).elim

/-- A port that can give its link to no chunk stands. -/
theorem State.runLink_still (s : State) (p : Fin 4) (h : (s.port p).state ≠ .ready ∨ (s.port p).write.isSome = true ∨
    (s.port p).read.isSome = true ∨ (s.port p).engine.claim.isSome = true ∨
    (¬ WriteSide (s.port p) ∧ ¬ VerifySide (s.port p))) : s.runLink p = s := by
  by_cases hf : linkFree (s.port p) = true
  · suffices writeReady (s.port p) = false ∧ verifyReady (s.port p) = false by
      simp [State.runLink, this.1, this.2, shareChoice]
    have hf' : (s.port p).write = none ∧ (s.port p).read = none ∧ (s.port p).engine.claim = none := by
      simpa [linkFree, and_assoc] using hf
    by_cases hs : (s.port p).state = .ready
    · rcases h with h | h | h | h | h
      · exact (h hs).elim
      · simp [hf'.1] at h
      · simp [hf'.2.1] at h
      · simp [hf'.2.2] at h
      · exact ⟨Bool.eq_false_of_not_eq_true fun k => h.1 ((writeReady_iff _ hs hf'.1).1 k),
          Bool.eq_false_of_not_eq_true fun k => h.2 ((verifyReady_iff _ hs).1 k)⟩
    · simp [writeReady, verifyReady, hs]
  · exact State.runLink_busy s p (Bool.eq_false_of_not_eq_true hf)

/-- Everything that a look at a drive link can do. -/
theorem State.runLink_given (s : State) (p : Fin 4) :
    ∃ ms, (s.runLink p).wire = s.wire ++ ms ∧ LinkGiven (s.runLink p) p (s.port p) ms := by
  by_cases h : (s.port p).state ≠ .ready ∨ (s.port p).write.isSome = true ∨ (s.port p).read.isSome = true ∨
      (s.port p).engine.claim.isSome = true ∨ (¬ WriteSide (s.port p) ∧ ¬ VerifySide (s.port p))
  · rw [State.runLink_still s p h]
    refine ⟨[], by simp, fun _ => ⟨rfl, rfl⟩, fun a sh h1 h2 h3 h4 _ h6 => ?_⟩
    rcases h with h | h | h | h | h
    · exact (h h1).elim
    · simp [h2] at h
    · simp [h3] at h
    · simp [h4] at h
    · rcases h6 with h6 | h6 | h6
      · exact (h.1 h6.1).elim
      · exact (h.1 h6.1).elim
      · exact (h.2 h6.2.1).elim
  · have hn := h
    simp only [not_or, not_not, Bool.not_eq_true, Option.isSome_eq_false_iff, Option.isNone_iff_eq_none, not_and] at h
    obtain ⟨h1, h2, h3, h4, h5⟩ := h
    have hf : linkFree (s.port p) = true := by simp [linkFree, h2, h3, h4]
    rcases ha : (s.port p).area with _ | a
    · obtain ⟨ms, hm⟩ := State.runLink_wire s p
      exact ⟨ms, hm.symm, fun k => (hn k).elim, fun a sh _ _ _ _ k => by simp [ha] at k⟩
    have hplan : (s.runLink p).arb.plan = s.arb.plan := by simp
    have hmem : (s.runLink p).pool.mem = s.pool.mem := by simp
    obtain ⟨sh, hsh⟩ := ShareGiven.exists s.arb.plan (s.port p) (by tauto)
    have hc := shareChoice_of_given _ _ _ h1 h2 hsh
    suffices hm : ∃ ms, (s.runLink p).wire = s.wire ++ ms ∧
        (sh.side = .write → ms = [] ∧ ∃ e rest w, (s.port p).writeQ = e :: rest ∧ WriteOf s.pool.mem p a w e ∧
          (s.runLink p).port p = { s.port p with write := some w, share := sh }) ∧
        (sh.side = .verify → ∃ e rest, (s.port p).verifyQ = e :: rest ∧
          EngineMoves p a e sh (s.port p) ((s.runLink p).port p) ms) by
      obtain ⟨ms, hw, hm⟩ := hm
      refine ⟨ms, hw, fun k => (hn k).elim, fun a' sh' _ _ _ _ k1 k2 => ?_⟩
      obtain rfl : a = a' := by simpa [ha] using k1
      rw [hplan] at k2
      obtain rfl : sh = sh' := by simpa [hc] using shareChoice_of_given _ _ _ h1 h2 k2
      rwa [hmem]
    have hw : sh.side = .write → WriteSide (s.port p) := by
      rcases hsh with ⟨k, _⟩ | ⟨k, _⟩ | ⟨_, _, rfl⟩
      · exact fun _ => k
      · exact fun _ => k
      · intro k
        cases k
    have hv : sh.side = .verify → VerifySide (s.port p) := by
      rcases hsh with ⟨_, k, _⟩ | ⟨_, _, rfl⟩ | ⟨_, k, _⟩
      · exact fun _ => k
      · intro k
        cases k
      · exact fun _ => k
    rcases hside : sh.side with _ | _
    · have hr : s.runLink p = (s.setPort p { s.port p with share := sh }).startWrite p := by
        simp [State.runLink, hf, hc, hside]
      obtain ⟨e, rest, hq⟩ := List.exists_cons_of_ne_nil (hw hside)
      have hs : s.runLink p = (s.setPort p { s.port p with share := sh }).setPort p
          { s.port p with write := some (entryWrite s.pool.mem p a e), share := sh } := by
        rw [hr]
        simp [State.startWrite, hq, ha]
      rw [hs]
      refine ⟨[], by simp, fun _ => ⟨rfl, e, rest, entryWrite s.pool.mem p a e, hq, ?_, by simp⟩, fun k => by cases k⟩
      cases e <;> simp [WriteOf, entryWrite, extentBlock, bufferAddress, trailerBlock, dataUnits, areaUnitBytes, Config.extentBytes]
    · obtain ⟨e, rest, hq⟩ := List.exists_cons_of_ne_nil (hv hside).1
      by_cases hcf : claimsFirst (s.port p) = true
      · have hr : s.runLink p = s.startVerify p := by simp [State.runLink, hf, hc, hside, hcf]
        obtain ⟨ms, hm, he⟩ := s.startVerify_moves p a e rest sh (s.port p) (by simp [hcf]) ha hq
        rw [hr]
        exact ⟨ms, hm, fun k => (by cases k), fun _ => ⟨e, rest, hq, he⟩⟩
      · have hr : s.runLink p = (s.setPort p { s.port p with share := sh }).startVerify p := by
          simp [State.runLink, hf, hc, hside, hcf]
        obtain ⟨ms, hm, he⟩ := (s.setPort p { s.port p with share := sh }).startVerify_moves p a e rest sh (s.port p)
          (by simp [hcf]) ha hq
        rw [hr]
        exact ⟨ms, by simpa using hm, fun k => (by cases k), fun _ => ⟨e, rest, hq, he⟩⟩

/-- An engine abandoned: the claim that it had out is counted among those whose answers are to come (log 44). -/
theorem idleEngine_core (x : Port) :
    portCore (idleEngine x) = { portCore x with unawaited := x.unawaited ++ x.engine.claim.toList } := rfl

end Sys2Proof.Machine
end

