-- ==== Sys2Proof/Laws/Formats.lean ====
section
/-! SUPPORT. Integers as bytes and back, fields of a body that is written field after field, and the trailer record. -/

namespace Sys2Proof.Machine

@[simp] theorem leBytes_length (n v : Nat) : (leBytes n v).length = n := by
  induction n generalizing v with
  | zero => rfl
  | succ n ih => simp [leBytes, ih]

theorem leNat_leBytes (n v : Nat) (h : v < 256 ^ n) : leNat (leBytes n v) = v := by
  induction n generalizing v with
  | zero => simp [leBytes, leNat] at h ⊢; omega
  | succ n ih =>
    have : v / 256 < 256 ^ n := by
      rw [Nat.div_lt_iff_lt_mul (by norm_num)]
      rw [pow_succ] at h
      exact h
    rw [leBytes, leNat, ih _ this]
    simp
    omega

/-- A field at the front of a body. -/
theorem fieldAt_front (n v : Nat) (rest : List Byte) (h : v < 256 ^ n) : fieldAt (leBytes n v ++ rest) 0 n = v := by
  rw [fieldAt, List.drop_zero, List.take_append_of_le_length (by simp), List.take_of_length_le (by simp),
    leNat_leBytes n v h]

/-- A field that stands behind others. -/
theorem fieldAt_behind (pre rest : List Byte) (o n : Nat) : fieldAt (pre ++ rest) (pre.length + o) n = fieldAt rest o n := by
  rw [fieldAt, fieldAt, List.drop_append, List.drop_eq_nil_of_le (by omega)]
  simp

/-- The same with the offset counted by the caller. -/
theorem fieldAt_skip (pre rest : List Byte) (k o n : Nat) (h : k = pre.length + o) :
    fieldAt (pre ++ rest) k n = fieldAt rest o n := by
  rw [h, fieldAt_behind]

@[simp] theorem frameOf_length (k f g : Nat) (b : List Byte) : (frameOf k f g b).length = 8 + b.length := by
  simp [frameOf]; omega

/-- The header of a frame reads back, and the body stands behind it. -/
theorem frameOf_fields (k f g : Nat) (b : List Byte) (hb : b.length < 256 ^ 4) (hk : k < 256) (hf : f < 256)
    (hg : g < 65536) :
    fieldAt (frameOf k f g b) 0 4 = b.length ∧ fieldAt (frameOf k f g b) 4 1 = k ∧
      fieldAt (frameOf k f g b) 5 1 = f ∧ fieldAt (frameOf k f g b) 6 2 = g ∧ (frameOf k f g b).drop 8 = b := by
  refine ⟨?_, ?_, ?_, ?_, ?_⟩
  · simp only [frameOf, List.append_assoc]
    exact fieldAt_front 4 _ _ hb
  · simp only [frameOf, List.append_assoc]
    rw [fieldAt_skip _ _ _ 0 _ (by simp)]
    exact fieldAt_front 1 _ _ (by simpa using hk)
  · simp only [frameOf, List.append_assoc]
    rw [fieldAt_skip _ _ _ 1 _ (by simp), fieldAt_skip _ _ _ 0 _ (by simp)]
    exact fieldAt_front 1 _ _ (by simpa using hf)
  · simp only [frameOf, List.append_assoc]
    rw [fieldAt_skip _ _ _ 2 _ (by simp), fieldAt_skip _ _ _ 1 _ (by simp), fieldAt_skip _ _ _ 0 _ (by simp)]
    exact fieldAt_front 2 _ _ (by simpa using hg)
  · simp only [frameOf]
    rw [List.drop_append, List.drop_eq_nil_of_le (by simp)]
    simp

@[simp] theorem runBytes_length (r : Run) : (runBytes r).length = 8 := by simp [runBytes]

@[simp] theorem slotBytes_length (e : CopySlot) : (slotBytes e).length = 2 := by simp [slotBytes]

/-- Runs written one after another read back. -/
theorem parseRuns_flatMap (runs : List Run) (h : runs.all Run.wf = true) :
    parseRuns runs.length (runs.flatMap runBytes) = runs := by
  induction runs with
  | nil => rfl
  | cons r t ih =>
    simp only [List.all_cons, Bool.and_eq_true] at h
    obtain ⟨hr, ht⟩ := h
    simp only [Run.wf, fitsBytes, Bool.and_eq_true, decide_eq_true_eq] at hr
    simp only [List.length_cons, parseRuns, List.flatMap_cons]
    have h0 : fieldAt (runBytes r ++ t.flatMap runBytes) 0 4 = r.start := by
      simp only [runBytes, List.append_assoc]
      exact fieldAt_front 4 _ _ hr.1
    have h4 : fieldAt (runBytes r ++ t.flatMap runBytes) 4 4 = r.count := by
      simp only [runBytes, List.append_assoc]
      rw [fieldAt_skip _ _ _ 0 _ (by simp)]
      exact fieldAt_front 4 _ _ hr.2
    rw [h0, h4, List.drop_append, List.drop_eq_nil_of_le (by simp)]
    simp [ih ht]

/-- Slots written one after another read back. -/
theorem parseSlots_flatMap (slots : List CopySlot) (h : slots.all CopySlot.wf = true) :
    parseSlots slots.length (slots.flatMap slotBytes) = slots := by
  induction slots with
  | nil => rfl
  | cons r t ih =>
    simp only [List.all_cons, Bool.and_eq_true] at h
    obtain ⟨hr, ht⟩ := h
    simp only [CopySlot.wf, fitsBytes, Bool.and_eq_true, decide_eq_true_eq] at hr
    simp only [List.length_cons, parseSlots, List.flatMap_cons]
    have h0 : fieldAt (slotBytes r ++ t.flatMap slotBytes) 0 1 = r.port := by
      simp only [slotBytes, List.append_assoc]
      exact fieldAt_front 1 _ _ hr.1
    have h4 : fieldAt (slotBytes r ++ t.flatMap slotBytes) 1 1 = r.flag := by
      simp only [slotBytes, List.append_assoc]
      rw [fieldAt_skip _ _ _ 0 _ (by simp)]
      exact fieldAt_front 1 _ _ hr.2
    rw [h0, h4, List.drop_append, List.drop_eq_nil_of_le (by simp)]
    simp [ih ht]

/-- A frame with a body that a kind allows is the request that the body spells. -/
theorem parseFrame_frameOf (k g : Nat) (b : List Byte) (c : Instr) (n : Nat) (hk : k < 256) (hg : g < 65536)
    (hb : b.length ≤ 40000) (hn : bodyLength k b = some n) (hl : b.length = n) (hc : countsWithin k b = true)
    (hp : parseBody k g b = some c) : parseFrame (frameOf k 0 g b) = .request k g c := by
  obtain ⟨h1, h2, h3, h4, h5⟩ := frameOf_fields k 0 g b (by omega) hk (by omega) hg
  unfold parseFrame
  rw [if_neg (by simp)]
  simp only [h1, h2, h3, h4, h5, frameOf_length]
  rw [if_neg (by simp [Config.maxBody]; omega), if_neg (by simp), hn]
  simp only
  rw [if_neg (by simp [hc, hl]), hp]

/-! ## The trailer record (R186) -/

@[simp] theorem fitBytes_length (n : Nat) (bytes : List Byte) : (fitBytes n bytes).length = n := by
  simp [fitBytes]
  omega

@[simp] theorem trailerHead_length (p : Fin 4) (clip : Nat) (t : TrailerFields) : (trailerHead p clip t).length = 504 := by
  rw [trailerHead]
  simp only [List.length_append, leBytes_length, fitBytes_length, List.length_replicate]
  rfl

@[simp] theorem trailerRecord_length (p : Fin 4) (clip : Nat) (t : TrailerFields) : (trailerRecord p clip t).length = 512 := by
  simp [trailerRecord]

/-- The first 504 bytes of a trailer record are those that its digest is of (R94, R186). -/
theorem trailerRecord_take (p : Fin 4) (clip : Nat) (t : TrailerFields) :
    (trailerRecord p clip t).take 504 = trailerHead p clip t := by
  rw [trailerRecord, List.take_append_of_le_length (by simp)]
  exact List.take_of_length_le (by simp)

/-- The record digest stands in the last eight bytes (R186). -/
theorem trailerRecord_digest (p : Fin 4) (clip : Nat) (t : TrailerFields) :
    fieldAt (trailerRecord p clip t) 504 8 = (digestOf (trailerHead p clip t)).toNat := by
  rw [trailerRecord, fieldAt_skip (trailerHead p clip t) _ 504 0 8 (by simp)]
  simpa using fieldAt_front 8 (digestOf (trailerHead p clip t)).toNat [] (digestOf (trailerHead p clip t)).isLt

/-- The marker and the three fields that a verify compares (R139, R186). -/
theorem trailerRecord_fields (p : Fin 4) (clip : Nat) (t : TrailerFields) (small : clip < 65536) (length : t.length < 2 ^ 64) :
    (trailerRecord p clip t).take 8 = trailerMarker ∧ fieldAt (trailerRecord p clip t) 12 2 = clip ∧
      fieldAt (trailerRecord p clip t) 16 8 = t.length ∧ fieldAt (trailerRecord p clip t) 24 8 = t.digest.toNat := by
  rw [trailerRecord, trailerHead]
  simp only [List.append_assoc]
  refine ⟨List.take_left' rfl, ?_, ?_, ?_⟩ <;>
    rw [fieldAt_skip trailerMarker _ _ _ _ (Nat.add_comm _ 8), fieldAt_skip (leBytes 2 1) _ _ _ _ (Nat.add_comm _ 2),
      fieldAt_skip (leBytes 1 _) _ _ _ _ (Nat.add_comm _ 1), fieldAt_skip (leBytes 1 _) _ _ _ _ (Nat.add_comm _ 1)]
  · exact fieldAt_front 2 _ _ small
  all_goals rw [fieldAt_skip (leBytes 2 clip) _ _ _ _ (Nat.add_comm _ 2), fieldAt_skip (leBytes 1 _) _ _ _ _ (Nat.add_comm _ 1),
    fieldAt_skip (leBytes 1 _) _ _ _ _ (Nat.add_comm _ 1)]
  · exact fieldAt_front 8 _ _ length
  · rw [fieldAt_skip (leBytes 8 t.length) _ _ _ _ (Nat.add_comm _ 8)]
    exact fieldAt_front 8 _ _ t.digest.isLt

/-- A trailer record, as it was written, passes the five checks of its entry (R139). -/
theorem trailerPasses_record (p : Fin 4) (e : VerifyEntry) (t : TrailerFields) (small : e.clip < 65536)
    (length : t.length = e.length) (long : e.length < 2 ^ 64) (digest : t.digest = e.digest) :
    trailerPasses e (trailerRecord p e.clip t) = true := by
  have ⟨marker, clip, size, value⟩ := trailerRecord_fields p e.clip t small (by omega)
  have whole : (trailerRecord p e.clip t).take 512 = trailerRecord p e.clip t := List.take_of_length_le (by simp)
  simp [trailerPasses, whole, marker, clip, size, value, trailerRecord_take, trailerRecord_digest, length, digest]
end Sys2Proof.Machine
end

