-- ==== Sys2Proof/Laws/LateReports.lean ====
section
/-! SUPPORT. Late reports: which messages in transit are not late, that none of them reports on a work item whose read has just
begun, and the running state that a lane then loads (R55, R90, R91; log 51). -/

namespace Sys2Proof.Machine

/-- Messages taken out of a list one after another. -/
theorem count_foldl_erase (late wire : List Instr) (m : Instr) :
    (late.foldl List.erase wire).count m = wire.count m - late.count m := by
  induction late generalizing wire with
  | nil => simp
  | cons x late ih =>
    rw [List.foldl_cons, ih, List.count_erase, List.count_cons]
    by_cases h : x = m
    · subst h
      simp
      omega
    · simp [h]

/-- How often a message is in transit and not late. -/
theorem State.inTime_count (s : State) (m : Instr) : s.inTime.count m = s.wire.count m - s.jm.late.count m :=
  count_foldl_erase _ _ _

/-- When the read of an item begins, every report on it that is in transit is late. -/
theorem State.inTime_beginRead (s : State) (item : WorkItem) (m : Instr) (h : m ∈ (s.beginRead item).inTime) :
    reportsOn item m = false := by
  by_contra hr
  have hr : reportsOn item m = true := by simpa using hr
  have h1 := List.count_pos_iff.mpr h
  rw [State.inTime_count, State.beginRead_jm, State.beginRead_wire, List.count_append, List.count_filter hr] at h1
  omega

/-- An item of which no state handed on is in transit and in time resumes from the state that the job manager keeps. -/
theorem State.loadState_stored (s : State) (item : WorkItem) (h : ∀ m ∈ s.inTime, ∀ d, m ≠ .burstEndReport item d) :
    s.loadState item = (s.storedState item).getD digestInitial := by
  have : ∀ ms : List Instr, (∀ m ∈ ms, ∀ d, m ≠ .burstEndReport item d) → inTransitState item ms = none := by
    intro ms
    induction ms with
    | nil => intro _; rfl
    | cons m ms ih =>
      intro h
      simp only [inTransitState, ih (fun x hx => h x (by simp [hx]))]
      split
      · next i d =>
        have := h (.burstEndReport i d) (by simp) d
        split
        · next e => exact absurd (by rw [e]) this
        · rfl
      · rfl
  simp only [State.loadState, this _ h]

/-- A read that has just begun starts from the state that the job manager has set for it (R90, R91). -/
theorem State.loadState_beginRead (s : State) (item : WorkItem) :
    (s.beginRead item).loadState item = ((s.beginRead item).storedState item).getD digestInitial := by
  apply State.loadState_stored
  intro m hm d e
  have := State.inTime_beginRead s item m hm
  subst e
  simp [reportsOn] at this

end Sys2Proof.Machine
end

