-- ==== Sys2Proof/Laws/PerInstr.lean ====
section
/-! SUPPORT. The family TagFits of LAWS.json: a well-formed request's tag fits its two bytes (R166), constructor by
constructor. A command that is no request carries no tag. -/

namespace Sys2Proof.Laws.TagFits

open Sys2Proof

/-- The tag of a well-formed command fits in two bytes. -/
def Statement (i : Instr) : Prop := i.wf = true → ∀ t, i.tag? = some t → t < 65536

/-- A command that carries no tag. -/
theorem of_none {i : Instr} (h : i.tag? = none) : Statement i := fun _ t ht => by rw [h] at ht; cases ht

/-- A request whose operands' check begins with its tag's. -/
theorem of_tag {i : Instr} {tag : Nat} (h : i.tag? = some tag) (hw : i.wf = true → fitsBytes 2 tag = true) :
    Statement i := fun hwf t ht => by
  rw [h] at ht; cases ht
  have := of_decide_eq_true (hw hwf)
  simpa using this

theorem powerOn : Statement .powerOn := of_none rfl
theorem linkReset : Statement .linkReset := of_none rfl
theorem linkUp : Statement .linkUp := of_none rfl
theorem receiveFrame : ∀ transfer, Statement (.receiveFrame transfer) := fun _ => of_none rfl
theorem sendFrame : Statement .sendFrame := of_none rfl
theorem noticeQueued : ∀ notice, Statement (.noticeQueued notice) := fun _ => of_none rfl
theorem ident : ∀ tag, Statement (.ident tag) := fun _ => of_tag rfl (fun h => h)
theorem plan : ∀ tag number, Statement (.plan tag number) :=
  fun _ _ => of_tag rfl (fun h => by simp only [Instr.wf, Bool.and_eq_true] at h; simp only [h])
theorem poolFreeQuestion : ∀ plan, Statement (.poolFreeQuestion plan) := fun _ => of_none rfl
theorem planAnswer : ∀ yes, Statement (.planAnswer yes) := fun _ => of_none rfl
theorem health : ∀ tag selector w up lo, Statement (.health tag selector w up lo) :=
  fun _ _ _ _ _ => of_tag rfl (fun h => by simp only [Instr.wf, Bool.and_eq_true] at h; simp only [h])
theorem grace : ∀ tag selector seconds, Statement (.grace tag selector seconds) :=
  fun _ _ _ => of_tag rfl (fun h => by simp only [Instr.wf, Bool.and_eq_true] at h; simp only [h])
theorem baypwr : ∀ tag bay power, Statement (.baypwr tag bay power) :=
  fun _ _ _ => of_tag rfl (fun h => by simp only [Instr.wf, Bool.and_eq_true] at h; simp only [h])
theorem portpwr : ∀ tag port power, Statement (.portpwr tag port power) :=
  fun _ _ _ => of_tag rfl (fun h => by simp only [Instr.wf, Bool.and_eq_true] at h; simp only [h])
theorem areaSet : ∀ tag port start length unit reserve fill label, Statement (.areaSet tag port start length unit reserve fill label) :=
  fun _ _ _ _ _ _ _ _ => of_tag rfl (fun h => by simp only [Instr.wf, Bool.and_eq_true] at h; simp only [h])
theorem areaDrop : ∀ tag port, Statement (.areaDrop tag port) :=
  fun _ _ => of_tag rfl (fun h => by simp only [Instr.wf, Bool.and_eq_true] at h; simp only [h])
theorem jobOpen : ∀ tag job bay verify damage count slots, Statement (.jobOpen tag job bay verify damage count slots) :=
  fun _ _ _ _ _ _ _ => of_tag rfl (fun h => by simp only [Instr.wf, Bool.and_eq_true] at h; simp only [h])
theorem clipAdd : ∀ tag job label length runs expectFlag expect, Statement (.clipAdd tag job label length runs expectFlag expect) :=
  fun _ _ _ _ _ _ _ => of_tag rfl (fun h => by simp only [Instr.wf, Bool.and_eq_true] at h; simp only [h])
theorem jobSeal : ∀ tag job, Statement (.jobSeal tag job) :=
  fun _ _ => of_tag rfl (fun h => by simp only [Instr.wf, Bool.and_eq_true] at h; simp only [h])
theorem jobStop : ∀ tag job mode, Statement (.jobStop tag job mode) :=
  fun _ _ _ => of_tag rfl (fun h => by simp only [Instr.wf, Bool.and_eq_true] at h; simp only [h])
theorem clipCancel : ∀ tag clip, Statement (.clipCancel tag clip) :=
  fun _ _ => of_tag rfl (fun h => by simp only [Instr.wf, Bool.and_eq_true] at h; simp only [h])
theorem cardRelease : ∀ tag bay force, Statement (.cardRelease tag bay force) :=
  fun _ _ _ => of_tag rfl (fun h => by simp only [Instr.wf, Bool.and_eq_true] at h; simp only [h])
theorem jobRetire : ∀ tag job, Statement (.jobRetire tag job) :=
  fun _ _ => of_tag rfl (fun h => by simp only [Instr.wf, Bool.and_eq_true] at h; simp only [h])
theorem cardRead : ∀ tag bay start count, Statement (.cardRead tag bay start count) :=
  fun _ _ _ _ => of_tag rfl (fun h => by simp only [Instr.wf, Bool.and_eq_true] at h; simp only [h])
theorem bayQuery : ∀ tag bay, Statement (.bayQuery tag bay) :=
  fun _ _ => of_tag rfl (fun h => by simp only [Instr.wf, Bool.and_eq_true] at h; simp only [h])
theorem portQuery : ∀ tag port, Statement (.portQuery tag port) :=
  fun _ _ => of_tag rfl (fun h => by simp only [Instr.wf, Bool.and_eq_true] at h; simp only [h])
theorem jobQuery : ∀ tag job, Statement (.jobQuery tag job) :=
  fun _ _ => of_tag rfl (fun h => by simp only [Instr.wf, Bool.and_eq_true] at h; simp only [h])
theorem clipQuery : ∀ tag clip, Statement (.clipQuery tag clip) :=
  fun _ _ => of_tag rfl (fun h => by simp only [Instr.wf, Bool.and_eq_true] at h; simp only [h])
theorem poolQuery : ∀ tag, Statement (.poolQuery tag) := fun _ => of_tag rfl (fun h => h)
theorem reset : ∀ tag, Statement (.reset tag) := fun _ => of_tag rfl (fun h => h)
theorem cardSeated : ∀ bay, Statement (.cardSeated bay) := fun _ => of_none rfl
theorem probeCompletion : ∀ bay answer, Statement (.probeCompletion bay answer) := fun _ _ => of_none rfl
theorem probeTimerExpiry : ∀ bay, Statement (.probeTimerExpiry bay) := fun _ => of_none rfl
theorem cardLeaves : ∀ bay, Statement (.cardLeaves bay) := fun _ => of_none rfl
theorem cardLoss : ∀ bay seated, Statement (.cardLoss bay seated) := fun _ _ => of_none rfl
theorem ejectButton : ∀ bay, Statement (.ejectButton bay) := fun _ => of_none rfl
theorem bayJobBound : ∀ bay job sig state, Statement (.bayJobBound bay job sig state) := fun _ _ _ _ => of_none rfl
theorem bayJobState : ∀ bay state, Statement (.bayJobState bay state) := fun _ _ => of_none rfl
theorem bayClearChange : ∀ bay value, Statement (.bayClearChange bay value) := fun _ _ => of_none rfl
theorem bayJobRemoved : ∀ bay, Statement (.bayJobRemoved bay) := fun _ => of_none rfl
theorem bayReleaseAccepted : ∀ bay, Statement (.bayReleaseAccepted bay) := fun _ => of_none rfl
theorem bayReadWork : ∀ bay work, Statement (.bayReadWork bay work) := fun _ _ => of_none rfl
theorem healthWindowExpiry : ∀ bay, Statement (.healthWindowExpiry bay) := fun _ => of_none rfl
theorem blockReadAttempt : ∀ lane answer, Statement (.blockReadAttempt lane answer) := fun _ _ => of_none rfl
theorem readCompletionAck : ∀ lane item, Statement (.readCompletionAck lane item) := fun _ _ => of_none rfl
theorem extentClaim : ∀ requester claim, Statement (.extentClaim requester claim) := fun _ _ => of_none rfl
theorem extentComplete : ∀ index claim bytes, Statement (.extentComplete index claim bytes) := fun _ _ _ => of_none rfl
theorem pendingSetQuestion : ∀ index claim, Statement (.pendingSetQuestion index claim) := fun _ _ => of_none rfl
theorem pendingSetAnswer : ∀ index claim ports, Statement (.pendingSetAnswer index claim ports) :=
  fun _ _ _ => of_none rfl
theorem extentRelease : ∀ port extents, Statement (.extentRelease port extents) := fun _ _ => of_none rfl
theorem clipDiscard : ∀ clip, Statement (.clipDiscard clip) := fun _ => of_none rfl
theorem repairDiscard : ∀ clip port, Statement (.repairDiscard clip port) := fun _ _ => of_none rfl
theorem poolOffer : ∀ bay claim, Statement (.poolOffer bay claim) := fun _ _ => of_none rfl
theorem siblingOffer : ∀ port index claim, Statement (.siblingOffer port index claim) := fun _ _ _ => of_none rfl
theorem waitRemoved : ∀ requester claim, Statement (.waitRemoved requester claim) := fun _ _ => of_none rfl
theorem mountReport : ∀ bay sig, Statement (.mountReport bay sig) := fun _ _ => of_none rfl
theorem cardLostReport : ∀ bay, Statement (.cardLostReport bay) := fun _ => of_none rfl
theorem burstEndReport : ∀ item state, Statement (.burstEndReport item state) := fun _ _ => of_none rfl
theorem blockSubstitution : ∀ clip block, Statement (.blockSubstitution clip block) := fun _ _ => of_none rfl
theorem readCompletion : ∀ lane clip state, Statement (.readCompletion lane clip state) := fun _ _ _ => of_none rfl
theorem mediaFailure : ∀ clip, Statement (.mediaFailure clip) := fun _ => of_none rfl
theorem repairReadCompletion : ∀ lane clip port digest, Statement (.repairReadCompletion lane clip port digest) :=
  fun _ _ _ _ => of_none rfl
theorem repairSourceFailure : ∀ clip port, Statement (.repairSourceFailure clip port) := fun _ _ => of_none rfl
theorem holdAnswer : ∀ port clip answer, Statement (.holdAnswer port clip answer) := fun _ _ _ => of_none rfl
theorem confirmationAnswer : ∀ port clip answer, Statement (.confirmationAnswer port clip answer) :=
  fun _ _ _ => of_none rfl
theorem extentWriteCompletion : ∀ port clip purpose seq, Statement (.extentWriteCompletion port clip purpose seq) :=
  fun _ _ _ _ => of_none rfl
theorem trailerWriteCompletion : ∀ port clip, Statement (.trailerWriteCompletion port clip) := fun _ _ => of_none rfl
theorem writeFailureReport : ∀ port clip, Statement (.writeFailureReport port clip) := fun _ _ => of_none rfl
theorem verifyStart : ∀ port clip, Statement (.verifyStart port clip) := fun _ _ => of_none rfl
theorem verifyDigestReport : ∀ port clip digest, Statement (.verifyDigestReport port clip digest) :=
  fun _ _ _ => of_none rfl
theorem verifyCompletion : ∀ port clip trailerPassed, Statement (.verifyCompletion port clip trailerPassed) :=
  fun _ _ _ => of_none rfl
theorem siblingReadCompletion : ∀ port clip repairPort digest, Statement (.siblingReadCompletion port clip repairPort digest) :=
  fun _ _ _ _ => of_none rfl
theorem siblingCompletionAck : ∀ port clip repairPort, Statement (.siblingCompletionAck port clip repairPort) :=
  fun _ _ _ => of_none rfl
theorem areaInstalledReport : ∀ port, Statement (.areaInstalledReport port) := fun _ => of_none rfl
theorem driveLossReport : ∀ port, Statement (.driveLossReport port) := fun _ => of_none rfl
theorem driveReturnReport : ∀ port, Statement (.driveReturnReport port) := fun _ => of_none rfl
theorem graceExpiryReport : ∀ port, Statement (.graceExpiryReport port) := fun _ => of_none rfl
theorem portFaultReport : ∀ port, Statement (.portFaultReport port) := fun _ => of_none rfl
theorem roomFreedReport : ∀ port clip, Statement (.roomFreedReport port clip) := fun _ _ => of_none rfl
theorem holdEnquiry : ∀ port clip length, Statement (.holdEnquiry port clip length) := fun _ _ _ => of_none rfl
theorem holdConfirmation : ∀ port clip, Statement (.holdConfirmation port clip) := fun _ _ => of_none rfl
theorem holdWithdrawal : ∀ port clip, Statement (.holdWithdrawal port clip) := fun _ _ => of_none rfl
theorem placementClose : ∀ port clip, Statement (.placementClose port clip) := fun _ _ => of_none rfl
theorem runAbandonment : ∀ port clip, Statement (.runAbandonment port clip) := fun _ _ => of_none rfl
theorem extentAppend : ∀ port index claim bytes, Statement (.extentAppend port index claim bytes) :=
  fun _ _ _ _ => of_none rfl
theorem trailerAppend : ∀ port clip fields, Statement (.trailerAppend port clip fields) := fun _ _ _ => of_none rfl
theorem extentRemoval : ∀ port index claim, Statement (.extentRemoval port index claim) := fun _ _ _ => of_none rfl
theorem trailerRemoval : ∀ port clip, Statement (.trailerRemoval port clip) := fun _ _ => of_none rfl
theorem verifyAppend : ∀ port entry, Statement (.verifyAppend port entry) := fun _ _ => of_none rfl
theorem siblingAppend : ∀ port entry, Statement (.siblingAppend port entry) := fun _ _ => of_none rfl
theorem verifyRemoval : ∀ port clip, Statement (.verifyRemoval port clip) := fun _ _ => of_none rfl
theorem siblingCancel : ∀ port clip repairPort, Statement (.siblingCancel port clip repairPort) :=
  fun _ _ _ => of_none rfl
theorem driveConnected : ∀ port, Statement (.driveConnected port) := fun _ => of_none rfl
theorem driveIdentified : ∀ port answer, Statement (.driveIdentified port answer) := fun _ _ => of_none rfl
theorem identTimerExpiry : ∀ port, Statement (.identTimerExpiry port) := fun _ => of_none rfl
theorem driveLoss : ∀ port connected, Statement (.driveLoss port connected) := fun _ _ => of_none rfl
theorem graceTimerExpiry : ∀ port, Statement (.graceTimerExpiry port) := fun _ => of_none rfl
theorem writeCompletion : ∀ answer, Statement (.writeCompletion answer) := fun _ => of_none rfl
theorem writeFailure : ∀ answer, Statement (.writeFailure answer) := fun _ => of_none rfl
theorem verifyChunkRead : ∀ port answer, Statement (.verifyChunkRead port answer) := fun _ _ => of_none rfl
theorem trailerRead : ∀ port answer, Statement (.trailerRead port answer) := fun _ _ => of_none rfl
theorem siblingChunkRead : ∀ port answer, Statement (.siblingChunkRead port answer) := fun _ _ => of_none rfl
theorem claimAnswer : ∀ requester claim index, Statement (.claimAnswer requester claim index) := fun _ _ _ => of_none rfl
theorem workItemEnded : ∀ bay item, Statement (.workItemEnded bay item) := fun _ _ => of_none rfl

end Sys2Proof.Laws.TagFits
end

