-- ==== Sys2Proof/Tests/Slice0.lean ====
section
/-! SUPPORT. The model's own tests: an ill-formed command for each check of WellFormed.lean, the digest's check value, frames
written out byte by byte from the layouts, and for the statements a state and operands that meet their hypotheses, clause by
clause at the ends of the ranges, with what the command then does. -/

namespace Sys2Proof.Tests

open Sys2Proof Sys2Proof.Machine

set_option Elab.async false

/-! ## Small states -/

/-- The state after a command. -/
def run (c : Instr) (s : State) : State :=
  match exec c s with
  | .next t => t
  | .fault _ => s
  | .refused _ => s

def sig0 : CardSig := ⟨List.replicate 16 7#8, 8⟩

def drive0 : DriveId := ⟨List.replicate 20 1#8, 512, 160⟩

def bayM : Bay :=
  { Bay.reset with state := .mounted, cardPresent := true, sig := some sig0, health := Health.reset.start }

def bayJ : Bay := { bayM with job := some ⟨1, sig0, .opened⟩, lock := .engaged, lamp := .amberSteady }

def sBay (x : Bay) : State := State.reset.setBay 0 x

/-- C = 20, R = 2, F = 3. -/
def area0 : Area := ⟨0, 160, 8, 512, 2, 3, 3, 0, 1, []⟩

def portA : Port := { Port.reset with state := .attached, drivePresent := true, identity := some drive0 }

def portR : Port := { portA with state := .ready, area := some area0 }

def portO : Port := { portR with openPl := [⟨1, 0, 2, false⟩] }

def sPort (x : Port) : State := State.reset.setPort 0 x

def copy0 (st : CopyState) : Copy := ⟨0, true, st, some ⟨0, 2, 1⟩, 1, none, none, none⟩

def clip0 (st : ClipState) (ks : List Copy) : Clip :=
  ⟨1, 1, [65#8], 512, [⟨0, 1⟩], none, none, none, 0, 0, false, [], st, none, none, ks⟩

def job0 (st : JobState) : Job := ⟨1, 0, sig0, [⟨0, true⟩], .full, .abort, st, none, [1], false, ⟨0, 0, 0, 0⟩⟩

def view0 : BayView := { BayView.reset with sig := some sig0 }

def sJob (j : Job) (c : Clip) (v : BayView) : State :=
  ({ State.reset with jm := { JobManager.reset with jobs := [j], clips := [c], nextId := 2 } } : State).setView 0 v

def linkUp0 : LinkIf := { LinkIf.reset with up := true }

def sUp : State := { State.reset with lki := linkUp0 }

def claim0 : ClaimId := ⟨1, .first, none, 0⟩

def work0 : ReadWork := ⟨.clip 1, 1024, [⟨0, 2⟩], .abort, []⟩

/-- Lane 0 reads clip 1 of bay 0 into extent 0. -/
def lane0 : Lane := { Lane.reset with holder := some (.work 0 (.clip 1)), burst := 8, extent := some 0, unit := some digestInitial }

def filling0 : Extent := ⟨.filling, claim0, 0, none, none⟩

def sLane (l : Lane) (x : Bay) : State :=
  { (sBay x).setLane 0 l with pool := { Pool.reset with extents := [(0, filling0)] } }

def block : List Byte := List.replicate 512 3#8

def reply0 : Reply := ⟨kindReset, 1, .done, .codeAlone⟩

def notice0 : QueuedNotice := ⟨.port 0 .detach .detached, false⟩

def read0 : CardRead := ⟨0, 1, 0, 7, 64, false⟩

def sProbing : State := sBay { Bay.reset with state := .probing, cardPresent := true, probeTimer := some 2 }

def careful (count : Nat) : Bay := { bayJ with health := { bayJ.health with mode := .careful, count := count } }

def sRead (x : Bay) (l : Lane) (w : ReadWork) : State := sLane l { x with reading := some w }

def claimR : ClaimId := ⟨1, .repair, some 2, 0⟩

def laneR : Lane := { lane0 with holder := some (.work 0 (.repair 1 2)) }

/-- Lane 0 reads for the repair of clip 1's copy on port 2. -/
def sRepair (x : Bay) (l : Lane) (w : ReadWork) : State :=
  { (sBay { x with repairs := [{ w with item := .repair 1 2 }] }).setLane 0 l with
    pool := { Pool.reset with extents := [(0, { filling0 with claim := claimR })] } }

def hostRead0 : HostRead := ⟨0, 0, 7, 2, 1, block⟩

def sHost (x : Bay) (r : HostRead) : State :=
  { (sBay x).setLane 0 { Lane.reset with holder := some (.host r) } with lki := { LinkIf.reset with reads := [read0], nextRead := 1 } }

def sPool (es : List (Nat × Extent)) (ws : List Wait) : State :=
  { State.reset with pool := { Pool.reset with extents := es, waits := ws } }

def waiting0 : Wait := ⟨.lane 0 0, claim0⟩

def full0 (ps : Option (List (Fin 4))) : Extent := ⟨.full, claim0, 512, ps, none⟩

def sClip (c : Clip) : State := sJob (job0 .opened) c view0

def repairing (source : RepairSource) : Copy :=
  { copy0 .repairing with attempts := 2, repair := some ⟨source, false, none, true⟩ }

/-- Port 2, READY, holds clip 1's run. -/
def sChoice (c : Clip) (v : BayView) (x : Port) : State := (sJob (job0 .opened) c v).setPort 2 x

def sibling2 : Copy := { copy0 .verified with port := 2 }

def source0 (k : Option Copy) : Option (CopyState × Option RepairSource × Option Cause) :=
  k.map (fun k => (k.state, k.repair.map Repair.source, k.cause))

def clipD (st : ClipState) (ks : List Copy) : Clip := { clip0 st ks with digest := some 9#64 }

def sourceOn (p : Fin 4) (s : State) : Option (CopyState × Option RepairSource × Option Cause) :=
  source0 ((s.clip? 1).bind (fun c => copyOn c p))

def adm0 : Admission := ⟨.enquiring, 1, [], [0], [], [], false, false⟩

def sAdm (a : Admission) (ks : List Copy) : State :=
  sJob (job0 .opened) (clip0 .queued ks) { view0 with adm := some a }

def pending0 : Copy := ⟨0, true, .pending, none, 1, none, none, none⟩

def trailer0 : TrailerFields := ⟨1, 1, 512, 9#64, sig0, [], 0, [65#8]⟩

def verify0 : VerifyEntry := ⟨1, 512, 9#64, 0, 1, none⟩

def sibling0 : VerifyEntry := ⟨1, 512, 9#64, 0, 0, some 2⟩

def engine0 : Engine := { Engine.reset with state := .reading, unit := some digestInitial }

/-- Port 0, with extent 7 FILLING for a sibling read of it, granted or, with an aside, offered. -/
def sEngine (x : Port) (aside : Option SetAside) : State :=
  { sPort x with pool := { Pool.reset with extents := [(7, { filling0 with claim := claimR, aside := aside })] } }

/-- The verify engine of port 0 reads into extent 7 for a sibling read. -/
def portS : Port := { portR with verifyQ := [sibling0], engine := { engine0 with extent := some 7 } }

def sFound (x : Port) : State := sPort { x with drivePresent := true, ident := some 5 }

/-- How a clip and its job have ended. -/
structure Ending where
  state : ClipState
  cause : Option Cause
  job : JobState
  counts : Counts
  deriving DecidableEq

/-- How clip 1 and job 1 have ended. -/
def ended (s : State) : Option Ending :=
  (s.clip? 1).bind (fun c => (s.job? 1).map (fun j => ⟨c.state, c.cause, j.state, j.counts⟩))

/-- Clip 1 is the one clip of its job. -/
theorem alone (s : State) (st : JobState) : OthersEnded s (job0 st) 1 :=
  fun _ h n => absurd (List.mem_singleton.mp h) n

/-- Job 1 with clip 1 and a second one. -/
def two (st : JobState) (c d : Clip) (v : BayView) : State :=
  ({ State.reset with jm := { JobManager.reset with
    jobs := [{ job0 st with clips := [1, 2] }], clips := [c, { d with id := 2 }], nextId := 3 } } : State).setView 0 v

/-- Job 1 with clip 1, and clip 2 QUEUED. -/
def withNext (c : Clip) (v : BayView) : State := two .opened c (clip0 .queued [pending0]) v

/-- Clip 2 is enquired for. -/
def next2 : Admission := { adm0 with clip := 2 }

def oneRepair : BayView := { view0 with repairs := [⟨1, 0⟩] }

/-- What is in transit, and the admission of bay 0. -/
def sentAdm (s : State) : List Instr × Option Admission := (s.wire, (s.view 0).adm)

/-! ## The check of WellFormed.lean -/

theorem test_wf_accepts : (Instr.ident 65535).wf = true ∧ (Instr.cardRead 1 255 4294967295 65535).wf = true ∧
    (Instr.powerOn).wf = true ∧ (Instr.extentClaim (.lane 0 0) claim0).wf = true ∧
    (Instr.jobOpen 1 1 0 1 1 1 (List.replicate 4 ⟨0, 1⟩)).wf = true := by decide

theorem test_wf_refuses_tag : (Instr.ident 65536).wf = false ∧ (Instr.plan 65536 0).wf = false := by decide

theorem test_wf_refuses_field : (Instr.plan 0 256).wf = false ∧ (Instr.baypwr 0 0 256).wf = false ∧
    (Instr.clipCancel 0 65536).wf = false ∧ (Instr.grace 0 0 65536).wf = false ∧
    (Instr.health 0 0 256 0 0).wf = false ∧ (Instr.cardRead 0 0 4294967296 1).wf = false := by decide

theorem test_wf_refuses_long : (Instr.areaSet 0 0 0 0 4294967296 0 0 []).wf = false ∧
    (Instr.areaSet 0 0 0 0 8 0 0 (List.replicate 256 0#8)).wf = false ∧
    (Instr.clipAdd 0 1 [] 0 [⟨0, 4294967296⟩] 0 0#64).wf = false := by decide +kernel

theorem test_wf_refuses_slots : (Instr.jobOpen 0 1 0 1 1 1 [⟨0, 1⟩]).wf = false ∧
    (Instr.jobOpen 0 1 0 1 1 1 [⟨256, 1⟩, ⟨0, 0⟩, ⟨0, 0⟩, ⟨0, 0⟩]).wf = false := by decide

theorem test_wf_refuses_clip_id : (Instr.clipDiscard 0).wf = false ∧ (Instr.mediaFailure 65536).wf = false ∧
    (Instr.workItemEnded 0 (.clip 0)).wf = false := by decide

theorem test_wf_refuses_claim : (Instr.extentClaim (.engine 0) ⟨1, .first, some 0, 0⟩).wf = false ∧
    (Instr.poolOffer 0 ⟨1, .repair, none, 0⟩).wf = false ∧ (Instr.siblingOffer 0 1024 claim0).wf = false ∧
    (Instr.claimAnswer (.engine 0) claim0 (some 1024)).wf = false ∧
    (Instr.extentRelease 0 [(1024, claim0)]).wf = false ∧ (Instr.extentComplete 0 claim0 4194305).wf = false := by decide

theorem test_wf_refuses_records : (Instr.mountReport 0 ⟨[], 8⟩).wf = false ∧ (Instr.bayJobBound 0 9 sig0 .opened).wf = false ∧
    (Instr.bayReadWork 0 { work0 with length := 1099511627777 }).wf = false ∧
    (Instr.holdEnquiry 0 1 1099511627777).wf = false ∧
    (Instr.verifyAppend 0 ⟨1, 0, 0#64, 0, 1, some 0⟩).wf = false ∧
    (Instr.siblingAppend 0 ⟨1, 0, 0#64, 0, 1, none⟩).wf = false := by decide

/-! ## The digest and the frames -/

/-- R88's check value: the digest of the nine characters 1 to 9. -/
theorem test_digest_check_value :
    digestOf ((List.range 9).map (fun k => BitVec.ofNat 8 (0x31 + k))) = 0x995DC9BBDF1939FA#64 := by decide +kernel

theorem test_frame_ident : parseFrame [0#8, 0#8, 0#8, 0#8, 0x01#8, 0#8, 0xFF#8, 0xFF#8] = .request 0x01 65535 (.ident 65535) := by
  decide

theorem test_frame_health : parseFrame [4#8, 0#8, 0#8, 0#8, 0x03#8, 0#8, 2#8, 1#8, 7#8, 10#8, 24#8, 8#8] =
    .request 0x03 258 (.health 258 7 10 24 8) := by decide

theorem test_frame_card_read :
    parseFrame [7#8, 0#8, 0#8, 0#8, 0x30#8, 0#8, 1#8, 0#8, 2#8, 4#8, 3#8, 2#8, 1#8, 64#8, 0#8] =
    .request 0x30 1 (.cardRead 1 2 0x01020304 64) := by decide

theorem test_frame_checks : parseFrame (List.replicate 7 0#8) = .refuse 0 0 .malformed ∧
    parseFrame [1#8, 0#8, 0#8, 0#8, 0x44#8, 0#8, 9#8, 0#8] = .refuse 0x44 9 .malformed ∧
    parseFrame [0#8, 0#8, 0#8, 0#8, 0x44#8, 2#8, 9#8, 0#8] = .refuse 0x44 9 .malformed ∧
    parseFrame [0#8, 0#8, 0#8, 0#8, 0x60#8, 0#8, 9#8, 0#8] = .refuse 0x60 9 .unknownKind ∧
    parseFrame ([19#8, 0#8, 0#8, 0#8, 0x21#8, 0#8, 9#8, 0#8] ++ List.replicate 19 0#8) = .refuse 0x21 9 .malformed ∧
    parseFrame [1#8, 0#8, 0#8, 0#8, 0x44#8, 0#8, 9#8, 0#8, 0#8] = .refuse 0x44 9 .malformed := by decide

/-- RequestFramesReadBack: a request that meets the hypotheses, with a label and a run. -/
theorem test_RequestFramesReadBack :
    let c := Instr.clipAdd 5 1 [65#8] 512 [⟨3, 1⟩] 1 7#64
    c.wf = true ∧ requestKind c = some 0x21 ∧ c.tag? = some 5 ∧
      (requestFrame c).map parseFrame = some (.request 0x21 5 c) := by decide

/-! ## The machine and the control link -/

theorem test_StepTakesFrontCommand :
    step { State.reset with pending := [.cardSeated 0] } = exec (.cardSeated 0) State.reset ∧
    step { State.reset with wire := [.linkUp] } = exec .linkUp { State.reset with wire := [.linkUp] } ∧
    step State.reset = .next State.reset := ⟨rfl, rfl, rfl⟩

theorem test_RequestsAreAnswered :
    requestKind (.jobQuery 5 9) = some 0x42 ∧ (Instr.jobQuery 5 9).tag? = some 5 ∧ (0x42 : Nat) ≠ kindPlan ∧
      (0x42 : Nat) ≠ kindCardRead ∧ (0x42 : Nat) ≠ kindReset ∧
      handOrphan State.reset.lki 0x42 5 = false ∧
      (run (.jobQuery 5 9) State.reset).replyLog = [⟨0x42, 5, .badArg, .codeAlone⟩] := by decide +kernel

/-- RequestsAreAnswered: one reply beside a card read that the request has ended; one that a transfer taken after it is refused
beside; and none after a link reset. -/
theorem test_RequestsAreAnswered_one :
    let s (h : Bool) : State := { sUp with lki := { linkUp0 with inHand := some ⟨0x42, 5, h⟩, receive := [[0#8]], inWaiting := 1 } }
    (run (.baypwr 1 0 1) (sHost bayM hostRead0)).replyLog.map Reply.kind = [kindCardRead, kindBaypwr] ∧
    (run (.jobQuery 5 9) (s false)).replyLog = [⟨0x42, 5, .badArg, .codeAlone⟩, ⟨0, 0, .malformed, .codeAlone⟩] ∧
    (run (.jobQuery 5 9) (s true)).replyLog = [⟨0, 0, .malformed, .codeAlone⟩] := by decide +kernel

/-- The link is up, idle and may take a request; each check at its first value. -/
theorem test_TransfersAreChecked : mayTakeRequest sUp.lki = true ∧
    (run (.receiveFrame (List.replicate 7 0#8)) sUp).replyLog = [⟨0, 0, .malformed, .codeAlone⟩] ∧
    (run (.receiveFrame [1#8, 0#8, 0#8, 0#8, 1#8, 0#8, 5#8, 0#8]) sUp).replyLog = [⟨1, 5, .malformed, .codeAlone⟩] ∧
    (run (.receiveFrame [0x41#8, 0x9C#8, 0#8, 0#8, 1#8, 0#8, 5#8, 0#8]) sUp).replyLog = [⟨1, 5, .malformed, .codeAlone⟩] ∧
    (run (.receiveFrame [0#8, 0#8, 0#8, 0#8, 1#8, 1#8, 5#8, 0#8]) sUp).replyLog = [⟨1, 5, .malformed, .codeAlone⟩] ∧
    (run (.receiveFrame [0#8, 0#8, 0#8, 0#8, 0#8, 0#8, 5#8, 0#8]) sUp).replyLog = [⟨0, 5, .unknownKind, .codeAlone⟩] ∧
    (run (.receiveFrame [0#8, 0#8, 0#8, 0#8, 2#8, 0#8, 5#8, 0#8]) sUp).replyLog = [⟨2, 5, .malformed, .codeAlone⟩] ∧
    (run (.receiveFrame [0#8, 0#8, 0#8, 0#8, 1#8, 0#8, 5#8, 0#8]) sUp).wire = [.ident 5] := by decide +kernel

theorem test_TransfersWait : State.reset.lki.up = false ∧
    (run (.receiveFrame [0#8]) State.reset).lki.receive = [] ∧ (run .sendFrame State.reset).lki.inWaiting = 0 ∧
    (run (.receiveFrame [0#8]) { sUp with lki := { linkUp0 with inHand := some ⟨1, 5, false⟩ } }).lki.receive = [[0#8]] := by
  decide +kernel

/-- TransfersAreChecked: a reply goes out at once where the host waits; the next transfer waits on an unsent reply that is not of
a card read. -/
theorem test_TransfersAreChecked_waits :
    let r := run (.receiveFrame [0#8]) { sUp with lki := { linkUp0 with inWaiting := 1 } }
    let s (read : Option Nat) : State := { sUp with lki := { linkUp0 with ready := [⟨read, reply0⟩] } }
    let n := run .sendFrame { s none with lki := { (s none).lki with receive := [[0#8]] } }
    r.lki.inWaiting = 0 ∧ r.lki.ready = [] ∧ r.replyLog = [⟨0, 0, .malformed, .codeAlone⟩] ∧
    mayTakeRequest (s none).lki = false ∧ mayTakeRequest (s (some 0)).lki = true ∧
    (run (.receiveFrame [0#8]) (s none)).lki.receive = [[0#8]] ∧ n.lki.receive = [] ∧
    n.replyLog = [reply0, ⟨0, 0, .malformed, .codeAlone⟩] := by decide +kernel

theorem test_LinkComesUpAndSends :
    (run .sendFrame { sUp with lki := { linkUp0 with ready := [⟨none, reply0⟩] } }).lki.ready = [] ∧
    (run .sendFrame { sUp with lki := { linkUp0 with notices := [notice0] } }).lki.notices = [] ∧
    (run .sendFrame sUp).lki.inWaiting = 1 ∧ (run .linkUp State.reset).lki.up = true := by decide +kernel

/-- A clip record that fits its layout, with a run, a damaged block and a REPAIRING copy, byte by byte; a clip's notice; a card read's
reply. -/
theorem test_LinkComesUpAndSends_bytes :
    let k := { repairing (.port 2) with port := 1, digest := some 3#64 }
    let c := { clip0 .landing [k] with id := 258, runs := [⟨7, 1⟩], damage := [7], expected := some 9#64, attempts := 1, bytesRead := 512 }
    let n : Nat → List Byte := List.replicate (α := Byte) (a := 0#8)
    ClipFits c ∧
    (messageBytes 0 (.reply ⟨kindClipQuery, 5, .done, .clip c⟩)).drop 8 =
      [0#8, 2#8, 1#8, 1#8, 4#8, 0#8, 0#8, 1#8, 1#8, 1#8, 1#8, 1#8, 1#8, 0#8, 2#8] ++ n 6 ++ [0#8, 2#8] ++ n 6 ++ [9#8] ++ n 15 ++
        [65#8, 7#8] ++ n 3 ++ [1#8] ++ n 3 ++ [7#8] ++ n 3 ++ [1#8, 1#8, 6#8, 0#8, 2#8, 3#8, 2#8, 2#8] ++ n 8 ++
        [2#8] ++ n 3 ++ [1#8] ++ n 3 ++ [3#8] ++ n 7 ∧
    messageBytes 0 (.notice ⟨.clip 258 3 .waiting (some .port) none, true⟩) =
      [6#8, 0#8, 0#8, 0#8, 0x81#8, 6#8, 0#8, 0#8, 2#8, 1#8, 3#8, 2#8, 2#8, 0#8] ∧
    (messageBytes 0 (.reply ⟨kindCardRead, 5, .mediaError, .cardRead 1 258 block⟩)).take 16 =
      [7#8, 2#8, 0#8, 0#8, 0x30#8, 1#8, 5#8, 0#8, 9#8, 1#8, 0#8, 2#8, 1#8, 0#8, 0#8, 3#8] := by
  refine ⟨?_, by decide +kernel, by decide +kernel, by decide +kernel⟩
  simp [ClipFits, repairing, copy0, clip0]

theorem test_LinkResetLosesTransit :
    let s : State := { sUp with lki := { linkUp0 with notices := [notice0], inHand := some ⟨1, 5, false⟩ } }
    (run .linkReset s).lki.droppedMark = true ∧ (run .linkReset s).lki.inHand = some ⟨1, 5, true⟩ := by decide +kernel

/-- LinkResetLosesTransit: the lane of the bay's own work stands, that of a host card read is returned. -/
theorem test_LinkResetLosesTransit_lanes :
    (run .linkReset (sLane lane0 bayJ)).lane 0 = lane0 ∧ ((run .linkReset (sHost bayM hostRead0)).lane 0).holder = none := by
  decide +kernel

/-- PowerOnState: the notices of insertion, the flags of a port, the digest units. -/
theorem test_PowerOnState_notices :
    let p := run .powerOn (sPort { portS with otherDrive := true, unidentified := true })
    (run .powerOn (sBay bayJ)).wire = [.noticeQueued (.bay 0 .insert .probing .disengaged)] ∧
    (p.port 0).otherDrive = false ∧ (p.port 0).unidentified = false ∧ (p.port 0).engine.unit = none ∧ p.wire = [] ∧
    ((run .powerOn (sLane lane0 bayJ)).lane 0).unit = none := by decide +kernel

/-- SoftResetState: the ready replies of card reads are discarded, those of other requests go on; the digest units. -/
theorem test_SoftResetState_replies :
    let t := run (.reset 3) { sLane lane0 bayJ with
      lki := { LinkIf.reset with ready := [⟨some 0, ⟨kindCardRead, 1, .done, .cardRead 0 0 []⟩⟩, ⟨none, reply0⟩] } }
    t.replyLog = [reply0, ⟨kindReset, 3, .done, .codeAlone⟩] ∧ (t.lane 0).unit = none ∧
    ((run (.reset 3) (sPort portS)).port 0).engine.unit = none := by decide +kernel

theorem test_PowerOnState :
    ((run .powerOn (sBay { bayJ with power := .off })).bay 0).state = .probing ∧
    ((run .powerOn (sPort portR)).port 0).ident = some 5 := by decide +kernel

/-- SoftResetState: the request in hand is not orphaned; and one that is gets no reply. -/
theorem test_SoftResetState :
    handOrphan sUp.lki kindReset 3 = false ∧
    (run (.reset 3) { sUp with pool := { Pool.reset with window := 64 } }).replyLog = [⟨kindReset, 3, .done, .codeAlone⟩] ∧
    (run (.reset 3) { sUp with lki := { linkUp0 with inHand := some ⟨kindReset, 3, true⟩ } }).replyLog = [] := by
  decide +kernel

/-- SoftResetState: a MOUNTED bay's monitor, another bay's, a sharing record, a tally and the flags of a port. -/
theorem test_SoftResetState_kept :
    let m := run (.reset 3) (sBay (careful 5))
    let f := run (.reset 3) (sBay { Bay.reset with health := { Health.reset with w := 20 } })
    let p := run (.reset 3) (sPort { portR with share := ⟨.verify, 3⟩, tally := 2, otherDrive := true })
    ((m.bay 0).health = { Health.reset with running := true, window := some 2 }) ∧ (f.bay 0).health.w = 20 ∧
    (p.port 0).share = ⟨.write, 0⟩ ∧ (p.port 0).tally = 2 ∧ (p.port 0).otherDrive = true := by decide +kernel

/-- The three cases of a notice: link DOWN, 127 queued, 128 queued. -/
theorem test_NoticesAreQueued :
    (run (.noticeQueued notice0.notice) State.reset).lki.droppedMark = true ∧
    (run (.noticeQueued notice0.notice)
      { sUp with lki := { linkUp0 with notices := List.replicate 127 notice0, droppedMark := true } }).noticeLog.getLast? =
      some ⟨notice0.notice, true⟩ ∧
    (run (.noticeQueued notice0.notice)
      { sUp with lki := { linkUp0 with notices := List.replicate 128 notice0 } }).lki.droppedMark = true := by
  decide +kernel

/-! ## Settings and areas -/

/-- PLAN: number 4, number 3 with a lane held, number 3 with none; a PLAN being asked, and none. -/
theorem test_PlanAsksThePool :
    (run (.plan 1 4) State.reset).replyLog = [⟨kindPlan, 1, .badArg, .codeAlone⟩] ∧
    (run (.plan 1 3) (sLane lane0 bayJ)).replyLog = [⟨kindPlan, 1, .busy, .codeAlone⟩] ∧
    (run (.plan 1 3) State.reset).wire = [.poolFreeQuestion 3] ∧
    (run (.poolFreeQuestion 3) State.reset).pool.window = 16 ∧
    (run (.poolFreeQuestion 3) (sLane lane0 bayJ)).wire = [.planAnswer false] ∧
    (run (.planAnswer true) State.reset).arb = State.reset.arb := by decide +kernel

theorem test_PlanAsksThePool_answer :
    let s : State := { State.reset with arb := { Arbiter.reset with asking := some ⟨1, 3⟩ } }
    (run (.planAnswer true) s).arb.plan = 3 ∧ (run (.planAnswer false) s).arb.plan = 0 ∧
    (run (.planAnswer true) s).replyLog = [⟨kindPlan, 1, .done, .codeAlone⟩] := by decide +kernel

/-- Selectors 8, 7, 255; values at both ends; LO not below UP. -/
theorem test_HealthAndGraceClamp :
    (run (.health 1 8 0 0 0) State.reset).replyLog = [⟨kindHealth, 1, .badArg, .codeAlone⟩] ∧
    (run (.health 1 7 0 0 255) State.reset).replyLog = [⟨kindHealth, 1, .done, .health 4 1 0⟩] ∧
    ((run (.health 1 255 255 255 255) State.reset).bay 0).health.lo = 254 ∧
    (run (.grace 1 4 0) State.reset).replyLog = [⟨kindGrace, 1, .badArg, .codeAlone⟩] ∧
    ((run (.grace 1 3 0) State.reset).port 3).grace = 5 ∧ ((run (.grace 1 3 0) State.reset).port 2).grace = 30 ∧
    ((run (.grace 1 255 65535) State.reset).port 0).grace = 120 := by decide +kernel

theorem test_BayPowerSwitches :
    (run (.baypwr 1 8 1) State.reset).replyLog = [⟨kindBaypwr, 1, .badArg, .codeAlone⟩] ∧
    (run (.baypwr 1 7 3) State.reset).replyLog = [⟨kindBaypwr, 1, .badArg, .codeAlone⟩] ∧
    (run (.baypwr 1 0 1) (sBay bayJ)).replyLog = [⟨kindBaypwr, 1, .wrongState, .codeAlone⟩] ∧
    (run (.baypwr 1 0 1) (sBay bayM)).wire = [.cardLostReport 0] ∧
    ((run (.baypwr 1 7 1) State.reset).bay 7).state = .off ∧
    ((run (.baypwr 1 0 2) (sBay { Bay.reset with power := .off, state := .off, cardPresent := true })).bay 0).state = .probing ∧
    ((run (.baypwr 1 0 2) (sBay { Bay.reset with power := .off, state := .off })).bay 0).state = .empty := by
  decide +kernel

/-- BAYPWR off: a host card read that holds the lane, and an extent in a lane's hands. -/
theorem test_BayPowerSwitches_gives :
    let s := sRead bayM lane0 work0
    (run (.baypwr 1 0 1) (sHost bayM hostRead0)).replyLog =
      [⟨kindCardRead, 1, .wrongState, .cardRead 1 0 block⟩, ⟨kindBaypwr, 1, .done, .codeAlone⟩] ∧
    s.bayGiven 0 (fun _ => true) = [⟨.lane 0 0, none, claim0, some 0⟩] ∧ (run (.baypwr 1 0 1) s).pool.extents = [] ∧
    (run (.baypwr 1 0 1) { s with wire := [.clipDiscard 1] }).pool = s.pool := by decide +kernel

/-- BAYPWR on: the notice of the insertion that it finds. -/
theorem test_BayPowerSwitches_insert :
    let s (present : Bool) := sBay { Bay.reset with power := .off, state := .off, cardPresent := present }
    (run (.baypwr 1 0 2) (s true)).wire = [.noticeQueued (.bay 0 .insert .probing .disengaged)] ∧
    (run (.baypwr 1 0 2) (s false)).wire = [] := by decide +kernel

theorem test_PortPowerSwitches :
    (run (.portpwr 1 4 1) State.reset).replyLog = [⟨kindPortpwr, 1, .badArg, .codeAlone⟩] ∧
    (run (.portpwr 1 3 0) State.reset).replyLog = [⟨kindPortpwr, 1, .badArg, .codeAlone⟩] ∧
    (run (.portpwr 1 0 1) (sPort portO)).replyLog = [⟨kindPortpwr, 1, .wrongState, .codeAlone⟩] ∧
    ((run (.portpwr 1 0 1) (sPort { portR with tally := 2 })).port 0).tally = 2 ∧
    ((run (.portpwr 1 0 1) (sPort portR)).port 0).area = none ∧
    ((run (.portpwr 1 0 2) (sPort { Port.reset with power := .off, state := .off, drivePresent := true })).port 0).ident =
      some 5 := by decide +kernel

theorem test_PortPowerSwitches_gives :
    (sEngine portS none).engineGiven 0 = [⟨.engine 0, none, claimR, some 7⟩] ∧
    (sEngine portS (some (.engine 0))).engineGiven 0 = [⟨.engine 0, some (.engine 0), claimR, some 7⟩] ∧
    (run (.portpwr 1 0 1) (sEngine portS none)).pool.extents = [] ∧
    (run (.areaDrop 1 0) (sEngine portS none)).pool.extents = [] ∧
    (run (.areaDrop 1 0) { sEngine portS none with wire := [.repairDiscard 1 2] }).pool = (sEngine portS none).pool := by
  decide +kernel

/-- AREA_SET: no such port, a port that is not ATTACHED, and each argument at the last value that is refused. -/
theorem test_AreasAreSetAndDropped_refused :
    ∀ c ∈ [Instr.areaSet 1 4 0 160 8 0 0 [], .areaSet 1 0 1 160 8 0 0 [], .areaSet 1 0 0 160 4 0 0 [],
      .areaSet 1 0 0 7 8 0 0 [], .areaSet 1 0 0 160 8 2 19 [], .areaSet 1 0 0 160 8 2 18 (List.replicate 17 65#8)],
    (run c (sPort portA)).replyLog = [⟨kindAreaSet, 1, .badArg, .codeAlone⟩] := by decide +kernel

/-- AREA_SET with each argument at the last value that is accepted; the largest unit. -/
theorem test_AreasAreSetAndDropped :
    (run (.areaSet 1 0 0 160 8 2 18 (List.replicate 16 65#8)) (sPort portA)).replyLog =
      [⟨kindAreaSet, 1, .done, .areaSet 20 2 4096⟩] ∧
    (run (.areaSet 1 0 0 65536 65536 9 0 []) (sPort { portA with identity := some { drive0 with capacity := 65536 } })).replyLog =
      [⟨kindAreaSet, 1, .done, .areaSet 1 1 33554432⟩] ∧
    (run (.areaSet 1 0 0 160 8 2 18 []) (sPort portR)).replyLog = [⟨kindAreaSet, 1, .wrongState, .codeAlone⟩] ∧
    (run (.areaDrop 1 4) (sPort portR)).replyLog = [⟨kindAreaDrop, 1, .badArg, .codeAlone⟩] ∧
    (run (.areaDrop 1 0) (sPort portO)).replyLog = [⟨kindAreaDrop, 1, .wrongState, .codeAlone⟩] ∧
    (run (.areaDrop 1 0) (sPort portR)).replyLog = [⟨kindAreaDrop, 1, .done, .areaDrop ⟨3, 0, 1⟩⟩] := by decide +kernel

/-- An area dropped, and a port switched off, while an entry of an abandoned run and its write are still there. -/
theorem test_AreasAreSetAndDropped_stale :
    let s := sPort { portR with writeQ := [.extent 5 claim0 3 0], write := some ⟨1, 0, []⟩ }
    (run (.areaDrop 1 0) s).port 0 = { portR with state := .attached, area := none } ∧
    ((run (.portpwr 1 0 1) s).port 0).writeQ = [] ∧ ((run (.portpwr 1 0 1) s).port 0).write = none := by decide +kernel

theorem test_unit_power : unitValid 8 = true ∧ unitValid 65536 = true ∧ (8 = 2 ^ 3 ∧ 65536 = 2 ^ 16) := by decide

/-! ## Jobs and clips -/

/-- JOB_OPEN: the number and each argument one outside its range, the duplicate port, no required copy. -/
theorem test_JobOpenCreates_refused :
    ∀ c ∈ [Instr.jobOpen 1 0 0 1 1 1 [⟨0, 1⟩], .jobOpen 1 9 0 1 1 1 [⟨0, 1⟩], .jobOpen 1 1 8 1 1 1 [⟨0, 1⟩],
      .jobOpen 1 1 0 0 1 1 [⟨0, 1⟩], .jobOpen 1 1 0 3 1 1 [⟨0, 1⟩], .jobOpen 1 1 0 1 0 1 [⟨0, 1⟩],
      .jobOpen 1 1 0 1 3 1 [⟨0, 1⟩], .jobOpen 1 1 0 1 1 0 [⟨0, 1⟩], .jobOpen 1 1 0 1 1 2 [⟨0, 1⟩],
      .jobOpen 1 1 0 1 1 2 [⟨0, 1⟩, ⟨0, 0⟩], .jobOpen 1 1 0 1 1 1 [⟨0, 0⟩], .jobOpen 1 1 0 1 1 1 [⟨4, 1⟩],
      .jobOpen 1 1 0 1 1 1 [⟨0, 2⟩], .jobOpen 1 1 0 1 1 5 (List.replicate 5 ⟨0, 1⟩)],
    (run c State.reset).replyLog = [⟨kindJobOpen, 1, .badArg, .codeAlone⟩] := by decide +kernel

theorem test_JobOpenCreates :
    let c := Instr.jobOpen 1 8 0 2 2 4 [⟨0, 1⟩, ⟨3, 0⟩, ⟨1, 0⟩, ⟨2, 1⟩]
    let s : State := ({ State.reset with jm := JobManager.reset } : State).setView 0 view0
    (run c State.reset).replyLog = [⟨kindJobOpen, 1, .wrongState, .codeAlone⟩] ∧
    (run c (sJob (job0 .opened) (clip0 .queued []) view0)).replyLog = [⟨kindJobOpen, 1, .busy, .codeAlone⟩] ∧
    (run c s).replyLog = [⟨kindJobOpen, 1, .done, .codeAlone⟩] ∧ (run c s).wire = [.bayJobBound 0 8 sig0 .opened] ∧
    (run c s).jm.jobs = [⟨8, 0, sig0, [⟨0, true⟩, ⟨3, false⟩, ⟨1, false⟩, ⟨2, true⟩], .off, .salvage, .opened, none, [],
      false, ⟨0, 0, 0, 0⟩⟩] := by decide +kernel

/-- CLIP_ADD: no job, a SEALED job, a full clip table, and a clip added while no admission can begin. -/
theorem test_ClipAddCreates :
    let c := Instr.clipAdd 1 1 [65#8] 512 [⟨7, 1⟩] 1 9#64
    let s := sJob (job0 .opened) (clip0 .queued []) BayView.reset
    (run c State.reset).replyLog = [⟨kindClipAdd, 1, .noSuch, .codeAlone⟩] ∧
    (run c (sJob (job0 .sealed) (clip0 .queued []) view0)).replyLog = [⟨kindClipAdd, 1, .wrongState, .codeAlone⟩] ∧
    s.jobOf 0 = some (job0 .opened) ∧ (s.view 0).sig ≠ some sig0 ∧
    (run c s).replyLog = [⟨kindClipAdd, 1, .done, .clipAdd 2⟩] ∧ (run c s).jm.nextId = 3 ∧
    ((run c s).clip? 2).map Clip.expected = some (some 9#64) := by decide +kernel

theorem test_ClipAddCreates_full :
    (run (.clipAdd 1 1 [65#8] 512 [⟨7, 1⟩] 0 0#64) { State.reset with
      jm := { JobManager.reset with jobs := [job0 .opened], clips := List.replicate 1024 (clip0 .safe []) } }).replyLog =
      [⟨kindClipAdd, 1, .noRoom, .codeAlone⟩] := by decide +kernel

/-- Ids: the counter's end, and the ids in use. -/
theorem test_ClipAddCreates_ids :
    freeId { JobManager.reset with nextId := 65535, clips := [{ clip0 .safe [] with id := 65535 }, clip0 .safe []] } = 2 ∧
    freeId { JobManager.reset with nextId := 65535 } = 65535 ∧ stepId 65535 = 1 ∧ stepId 65534 = 65535 := by decide +kernel

/-- The id where the counter's value, 65535, and the ids 1 and 2 after it are in use. -/
theorem test_ClipAddCreates_round :
    let m : JobManager := { JobManager.reset with
      nextId := 65535, clips := [{ clip0 .safe [] with id := 65535 }, clip0 .safe [], { clip0 .safe [] with id := 2 }] }
    freeId m = (m.nextId - 1 + 3) % 65535 + 1 ∧ (∀ c ∈ m.clips, c.id ≠ freeId m) ∧
    ∀ i, i < 3 → ∃ c ∈ m.clips, c.id = (m.nextId - 1 + i) % 65535 + 1 := by decide +kernel

/-- CLIP_ADD where an admission begins with the new clip, and where one is in progress. -/
theorem test_ClipAddCreates_admission :
    let c := Instr.clipAdd 1 1 [65#8] 512 [⟨7, 1⟩] 0 0#64
    let s := sJob (job0 .opened) (clip0 .landing [copy0 .writing]) view0
    let h := sJob (job0 .opened) (clip0 .queued [pending0]) { view0 with adm := some adm0 }
    s.jobOf 0 = some (job0 .opened) ∧ (s.view 0).sig = some sig0 ∧ (s.view 0).repairs = [] ∧ freeId s.jm = 2 ∧
    ((run c s).view 0).adm = some ⟨.enquiring, 2, [], [0], [], [], false, false⟩ ∧
    .holdEnquiry 0 2 512 ∈ (run c s).wire ∧ ((run c h).view 0).adm = some { adm0 with heldOver := true } := by
  decide +kernel

/-- CLIP_ADD with an earlier clip WAITING: the new id joins the list's tail, and the earlier clip is tried first. -/
theorem test_ClipAddCreates_earlier :
    let s := sClip { clip0 .waiting [pending0] with wait := some .port }
    let t := run (.clipAdd 1 1 [65#8] 512 [⟨7, 1⟩] 0 0#64) s
    s.lki.receive = [] ∧ (s.view 0).adm = none ∧ (t.job? 1).map Job.clips = some [1, 2] ∧
    (t.view 0).adm = some { adm0 with rest := [2] } ∧ t.wire = [.holdEnquiry 0 1 512] := by decide +kernel

/-- A clip added while none can be admitted: a READING clip, a card-sourced repair outstanding, an admission in progress. -/
theorem test_ClipAddCreates_waits :
    let after (st : ClipState) (v : BayView) := (run (.clipAdd 1 1 [65#8] 512 [⟨7, 1⟩] 0 0#64) (sJob (job0 .opened) (clip0 st []) v)).jm.clips
    let c : Clip := ⟨2, 1, [65#8], 512, [⟨7, 1⟩], none, none, none, 0, 0, false, [], .queued, none, none, [pending0]⟩
    after .reading view0 = [clip0 .reading [], c] ∧
    after .landing { view0 with repairs := [⟨1, 0⟩] } = [clip0 .landing [], c] ∧
    after .queued { view0 with adm := some adm0 } = [clip0 .queued [], c] := by decide +kernel

/-- The conditions of CLIP_ADD's third check, each at the last value accepted and the first refused. -/
theorem test_clip_arguments :
    clipArgsBad (job0 .opened) (List.replicate 48 0#8) 512 [⟨7, 1⟩] 1 = false ∧
    clipArgsBad (job0 .opened) (List.replicate 49 0#8) 512 [⟨7, 1⟩] 1 = true ∧
    clipArgsBad (job0 .opened) [] 512 [⟨7, 1⟩] 1 = true ∧ clipArgsBad (job0 .opened) [1#8] 512 [⟨8, 1⟩] 1 = true ∧
    clipArgsBad (job0 .opened) [1#8] 512 [⟨7, 1⟩] 2 = true ∧ clipArgsBad (job0 .opened) [1#8] 513 [⟨7, 1⟩] 0 = true ∧
    clipArgsBad (job0 .opened) [1#8] 1 [⟨7, 1⟩] 0 = false ∧ clipArgsBad (job0 .opened) [1#8] 0 [] 0 = false ∧
    clipArgsBad (job0 .opened) [1#8] 1024 [⟨0, 1⟩, ⟨0, 1⟩] 0 = true ∧ clipArgsBad (job0 .opened) [1#8] 0 [⟨0, 0⟩] 0 = true := by
  decide +kernel

/-- JOB_SEAL: no job, STOPPING, DONE, OPEN with a clip that is not terminal, OPEN with all terminal. -/
theorem test_JobSealSeals :
    (run (.jobSeal 1 1) State.reset).replyLog = [⟨kindJobSeal, 1, .noSuch, .codeAlone⟩] ∧
    (run (.jobSeal 1 1) (sJob (job0 .stopping) (clip0 .queued []) view0)).replyLog = [⟨kindJobSeal, 1, .wrongState, .codeAlone⟩] ∧
    (run (.jobSeal 1 1) (sJob (job0 .done) (clip0 .safe []) view0)).replyLog = [⟨kindJobSeal, 1, .done, .jobState .done⟩] ∧
    (run (.jobSeal 1 1) (sJob (job0 .opened) (clip0 .queued []) view0)).replyLog = [⟨kindJobSeal, 1, .done, .jobState .sealed⟩] ∧
    (run (.jobSeal 1 1) (sJob (job0 .opened) (clip0 .safe []) view0)).replyLog = [⟨kindJobSeal, 1, .done, .jobState .done⟩] := by
  decide +kernel

/-- JOB_STOP: modes 0 and 3, no job, an ended job, a DRAIN of a STOPPING job, a DRAIN and a CUT of an OPEN one. -/
theorem test_JobStopStops :
    let s := sJob (job0 .opened) (clip0 .landing [copy0 .writing]) view0
    (run (.jobStop 1 1 0) s).replyLog = [⟨kindJobStop, 1, .badArg, .codeAlone⟩] ∧
    (run (.jobStop 1 1 3) s).replyLog = [⟨kindJobStop, 1, .badArg, .codeAlone⟩] ∧
    (run (.jobStop 1 2 1) s).replyLog = [⟨kindJobStop, 1, .noSuch, .codeAlone⟩] ∧
    (run (.jobStop 1 1 1) (sJob (job0 .stopped) (clip0 .safe []) view0)).replyLog = [⟨kindJobStop, 1, .wrongState, .codeAlone⟩] ∧
    (run (.jobStop 1 1 1) (sJob (job0 .stopping) (clip0 .landing []) view0)).replyLog =
      [⟨kindJobStop, 1, .done, .jobStop .stopping ⟨0, 0, 0, 0⟩⟩] ∧
    (run (.jobStop 1 1 1) s).replyLog = [⟨kindJobStop, 1, .done, .jobStop .stopping ⟨0, 0, 0, 0⟩⟩] ∧
    (run (.jobStop 1 1 2) s).replyLog = [⟨kindJobStop, 1, .done, .jobStop .stopped ⟨0, 0, 0, 1⟩⟩] := by decide +kernel

/-- Copies that a cut keeps and drops, the kept one first: the five steps in their order, for JOB_STOP, CLIP_CANCEL and
CARD_RELEASE. -/
theorem test_cut_order :
    let c := { clipD .landing [copy0 .verified, { repairing .card with port := 2 }, { copy0 .writing with port := 1 }] with
      cause := none }
    let s := sClip c
    let x := [Instr.repairDiscard 1 2, .workItemEnded 0 (.repair 1 2), .clipDiscard 1, .trailerRemoval 2 1, .verifyRemoval 2 1,
      .runAbandonment 2 1, .trailerRemoval 1 1, .verifyRemoval 1 1, .runAbandonment 1 1, .placementClose 0 1]
    cutSequence .full 0 c = x ∧ s.bayOfClip c = some 0 ∧ s.verifyOfClip c = .full ∧
    (run (.clipCancel 1 1) s).wire = .noticeQueued (.clip 1 1 .cancelled none none) :: x ∧
    x <+: (run (.jobStop 1 1 2) s).wire.drop 1 ∧ x <+: (run (.cardRelease 1 0 1) s).wire.drop 1 := by decide +kernel

theorem test_cut_order_reading :
    let c := clip0 .reading [copy0 .writing]
    (run (.clipCancel 1 1) (sClip c)).wire = .noticeQueued (.clip 1 1 .cancelled none none) ::
      [.workItemEnded 0 (.clip 1), .clipDiscard 1, .trailerRemoval 0 1, .verifyRemoval 0 1, .runAbandonment 0 1] := by
  decide +kernel

/-- A DRAIN of a job with a QUEUED clip alone, and with a LANDING clip. -/
theorem test_JobStopStops_drain :
    let q := run (.jobStop 1 1 1) (sClip (clip0 .queued [pending0]))
    let l := run (.jobStop 1 1 1) (sClip (clip0 .landing [copy0 .writing]))
    (q.job? 1).map Job.state = some .stopped ∧ (q.clip? 1).map Clip.state = some .cancelled ∧
    (l.job? 1).map Job.state = some .stopping ∧ l.clip? 1 = some (clip0 .landing [copy0 .writing]) := by decide +kernel

/-- JOB_STOP and a forced CARD_RELEASE: what is sent, in its order, the record, the counts; a clip being admitted. -/
theorem test_JobStopStops_sent :
    let s := sAdm { adm0 with answers := [⟨1, .fits 2 1⟩] } [pending0]
    let l := sClip (clip0 .landing [copy0 .writing, { sibling2 with state := .verified }])
    let c := clip0 .landing [copy0 .writing, sibling2]
    let d := run (.jobStop 1 1 1) s
    let e (m : StopMode) := [Instr.noticeQueued (.job 1 .stopped (some m) ⟨0, 0, 0, 1⟩), .bayJobState 0 .stopped]
    TablesOk s ∧ TablesOk l ∧
    d.wire = [Instr.noticeQueued (.clip 1 1 .cancelled none none), .holdWithdrawal 1 1] ++ e .drain ∧
    d.clip? 1 = some { clip0 .cancelled [] with copies := [{ pending0 with state := .dropped, cause := some .cancelled }] } ∧
    (run (.jobStop 1 1 2) l).wire = cutSent .full 0 c ++ e .cut ∧ (run (.cardRelease 1 0 1) l).wire.take 6 = cutSent .full 0 c ∧
    ((run (.jobStop 1 1 2) l).job? 1).map Job.counts = some ⟨0, 0, 0, 1⟩ := by
  refine ⟨?_, ?_, by decide +kernel⟩ <;> unfold TablesOk <;> decide +kernel

/-- CLIP_CANCEL: ids 0 and 65536, no clip, a terminal one, one that waits, one that is read. -/
theorem test_ClipCancelCancels :
    let s := sJob (job0 .opened) (clip0 .queued [copy0 .pending]) BayView.reset
    (run (.clipCancel 1 0) s).replyLog = [⟨kindClipCancel, 1, .badArg, .codeAlone⟩] ∧
    (run (.clipCancel 1 65536) s).replyLog = [⟨kindClipCancel, 1, .badArg, .codeAlone⟩] ∧
    (run (.clipCancel 1 65535) s).replyLog = [⟨kindClipCancel, 1, .noSuch, .codeAlone⟩] ∧
    (run (.clipCancel 1 1) (sJob (job0 .opened) (clip0 .safe []) view0)).replyLog = [⟨kindClipCancel, 1, .wrongState, .codeAlone⟩] ∧
    (run (.clipCancel 1 1) s).replyLog = [⟨kindClipCancel, 1, .done, .clipCancel .cancelled⟩] ∧
    .clipDiscard 1 ∈ (run (.clipCancel 1 1) (sJob (job0 .opened) (clip0 .reading [copy0 .writing]) view0)).wire := by
  decide +kernel

/-- CLIP_CANCEL of a clip that is being admitted, enquired for and confirming; and of the last clip of a STOPPING job. -/
theorem test_ClipCancelCancels_admission :
    let a (p : AdmPhase) := { adm0 with phase := p, answers := [⟨1, .fits 2 1⟩], confirmed := [0] }
    let s (p : AdmPhase) := sAdm (a p) [pending0]
    let k := [{ pending0 with state := .skipped, placement := some ⟨0, 2, 1⟩ }]
    let l := sJob (job0 .stopping) (clip0 .landing [copy0 .writing]) view0
    let go := run (.clipCancel 1 1)
    let n := Instr.noticeQueued (.clip 1 1 .cancelled none none)
    TablesOk (s .enquiring) ∧ TablesOk l ∧ (go (s .enquiring)).wire = [n, .holdWithdrawal 1 1] ∧
    (go (s .confirming)).wire = [n, .runAbandonment 0 1] ∧ (go (s .trying)).wire = [n] ∧
    (go (sClip (clip0 .queued k))).wire = [n, .placementClose 0 1] ∧
    ((go (s .enquiring)).view 0).adm = some { a .enquiring with cancelled := true } ∧
    ((go l).job? 1).map (fun j => (j.state, j.counts)) = some (.stopped, ⟨0, 0, 0, 1⟩) := by
  refine ⟨?_, ?_, by decide +kernel⟩ <;> unfold TablesOk <;> decide +kernel

/-- CLIP_CANCEL of a READING clip, and of the LANDING one with the bay's last card-sourced repair: the next clip is tried, or the
point held over; with another repair outstanding nothing. -/
theorem test_ClipCancelCancels_point :
    let go (c : Clip) (v : BayView) := sentAdm (run (.clipCancel 1 1) (withNext c v))
    let n := Instr.noticeQueued (.clip 1 1 .cancelled none none)
    let e := [Instr.clipDiscard 1, .trailerRemoval 0 1, .verifyRemoval 0 1, .runAbandonment 0 1]
    let r := clip0 .reading [copy0 .writing]
    let l := clipD .landing [repairing .card]
    let ends := [Instr.repairDiscard 1 0, .workItemEnded 0 (.repair 1 0)]
    TablesOk (withNext r view0) ∧ (withNext r view0).lki.receive = [] ∧
    go r view0 = (n :: .workItemEnded 0 (.clip 1) :: e ++ [.holdEnquiry 0 2 512], some next2) ∧
    go r { view0 with adm := some next2 } = (n :: .workItemEnded 0 (.clip 1) :: e, some { next2 with heldOver := true }) ∧
    go l oneRepair = (n :: ends ++ e ++ [.holdEnquiry 0 2 512], some next2) ∧
    go l { oneRepair with repairs := [⟨1, 0⟩, ⟨2, 0⟩] } = (n :: ends ++ e, none) := by
  refine ⟨?_, by decide +kernel⟩
  unfold TablesOk
  decide +kernel

/-- Settled copies. -/
theorem test_ClipCancelCancels_settled :
    [CopyState.pending, .writing, .written, .verifying, .verified, .repairing, .failed, .dropped, .skipped].map
      (fun st => (copySettled .full (copy0 st), copySettled .off (copy0 st))) =
      [(false, false), (false, false), (false, true), (false, false), (true, true), (false, false), (true, true), (true, true),
        (true, true)] := by decide

/-- CARD_RELEASE: bay 8, force 2, no job, not CLEAR, CLEAR, forced with the job running and ended. -/
theorem test_CardReleaseDecides :
    let s := sJob (job0 .opened) (clip0 .queued []) view0
    (run (.cardRelease 1 8 0) s).replyLog = [⟨kindCardRelease, 1, .badArg, .codeAlone⟩] ∧
    (run (.cardRelease 1 0 2) s).replyLog = [⟨kindCardRelease, 1, .badArg, .codeAlone⟩] ∧
    (run (.cardRelease 1 7 0) s).replyLog = [⟨kindCardRelease, 1, .wrongState, .codeAlone⟩] ∧
    (run (.cardRelease 1 0 0) s).replyLog = [⟨kindCardRelease, 1, .notSafe, .codeAlone⟩] ∧
    (run (.cardRelease 1 0 0) (sJob (job0 .done) (clip0 .safe []) view0)).replyLog =
      [⟨kindCardRelease, 1, .done, .release .done false⟩] ∧
    s.job? 1 = some (job0 .opened) ∧
    (run (.cardRelease 1 0 1) s).replyLog = [⟨kindCardRelease, 1, .done, .release .stopped true⟩] ∧
    (run (.cardRelease 1 0 1) (sJob (job0 .done) (clip0 .safe []) view0)).replyLog =
      [⟨kindCardRelease, 1, .done, .release .done true⟩] := by decide +kernel

/-- CLEAR: all SAFE, a clip with damage, another card, a job not DONE, no job. -/
theorem test_CardReleaseDecides_clear :
    (sJob (job0 .done) (clip0 .safe []) view0).clearOf 0 = true ∧
    (sJob (job0 .done) { clip0 .safe [] with damage := [3] } view0).clearOf 0 = false ∧
    (sJob (job0 .done) (clip0 .failed []) view0).clearOf 0 = false ∧
    (sJob (job0 .done) (clip0 .safe []) BayView.reset).clearOf 0 = false ∧
    (sJob (job0 .sealed) (clip0 .safe []) view0).clearOf 0 = false ∧ State.reset.clearOf 0 = false := by decide +kernel

theorem test_JobRetireRemoves :
    (run (.jobRetire 1 1) State.reset).replyLog = [⟨kindJobRetire, 1, .noSuch, .codeAlone⟩] ∧
    (run (.jobRetire 1 1) (sJob (job0 .sealed) (clip0 .queued []) view0)).replyLog = [⟨kindJobRetire, 1, .wrongState, .codeAlone⟩] ∧
    (run (.jobRetire 1 1) (sJob (job0 .stopped) (clip0 .failed []) view0)).jm.clips = [] ∧
    (run (.jobRetire 1 1) (sJob (job0 .done) (clip0 .safe []) view0)).replyLog =
      [⟨kindJobRetire, 1, .done, .retire 1 0 .done none false ⟨0, 0, 0, 0⟩⟩] := by decide +kernel

/-! ## Card reads and queries -/

/-- CARD_READ: bay 8, count 0, four reads outstanding, no lane free to grant, a bay that is EMPTY, a bay that is MOUNTED
with the first block the last of the card. -/
theorem test_CardReadIsEntered :
    (run (.cardRead 1 8 0 1) State.reset).replyLog = [⟨kindCardRead, 1, .badArg, .codeAlone⟩] ∧
    (run (.cardRead 1 7 0 0) State.reset).replyLog = [⟨kindCardRead, 1, .badArg, .codeAlone⟩] ∧
    (run (.cardRead 1 7 0 1) { State.reset with lki := { LinkIf.reset with reads := List.replicate 4 read0 } }).replyLog =
      [⟨kindCardRead, 1, .busy, .codeAlone⟩] ∧
    (run (.cardRead 1 0 7 65) { State.reset with arb := { Arbiter.reset with asking := some ⟨2, 0⟩ } }).lki.reads = [read0] ∧
    State.reset.freeActiveLane = some 0 ∧ State.reset.laneOf 0 = none ∧
    (run (.cardRead 1 0 0 1) State.reset).replyLog = [⟨kindCardRead, 1, .wrongState, .cardRead 0 0 []⟩] ∧
    (run (.cardRead 1 0 8 1) (sBay bayM)).replyLog = [⟨kindCardRead, 1, .badArg, .codeAlone⟩] ∧
    ((run (.cardRead 1 0 7 65535) (sBay bayM)).lane 0).holder = some (.host ⟨0, 0, 7, 1, 0, []⟩) := by decide +kernel

/-- CARD_READ while the host waits for a frame. -/
theorem test_CardReadIsEntered_waits :
    let s : State := { sUp with lki := { linkUp0 with inWaiting := 1 }, arb := { Arbiter.reset with asking := some ⟨2, 0⟩ } }
    (run (.cardRead 1 0 7 65) s).lki.reads = [read0] ∧ (run (.cardRead 1 0 7 65) s).arb.requests = [0] := by decide +kernel

/-- Bays 0 and 1 MOUNTED; bay 0 holds lane 0, and the oldest host card read on the list is for it. -/
def sPassed (ids : List Nat) : State :=
  { (sBay bayM).setBay 1 bayM with
    arb := { Arbiter.reset with
      lanes := Arbiter.reset.lanes.set 0 { Lane.reset with holder := some (.host { hostRead0 with id := 9 }) }, requests := ids }
    lki := { LinkIf.reset with reads := [read0, { read0 with id := 1, bay := 1 }], nextRead := 2 } }

/-- A host card read whose bay holds a lane is passed over, on the list and by the one that joins it; the round of grants. -/
theorem test_CardReadIsEntered_passed :
    let s := sPassed [0, 1]
    let t := run (.cardRead 2 1 7 1) (sPassed [0])
    LaneNext s 1 ∧ HostNext s { read0 with id := 1, bay := 1 } ∧ GrantRound s s.grants ∧
    s.grants.lane 1 = { Lane.reset with holder := some (.host ⟨1, 1, 7, 1, 0, []⟩) } ∧ s.grants.arb.requests = [0] ∧
    (sPassed [0]).freeActiveLane = some 1 ∧ (sPassed [0]).laneOf 1 = none ∧ holderBay ((sPassed [0]).lane 0) = some 0 ∧
    (t.lane 1).holder = some (.host ⟨2, 1, 7, 1, 0, []⟩) ∧ t.arb.requests = [0] :=
  ⟨(State.laneNext_iff _ _).mpr (by decide +kernel), (State.hostNext_iff _ _).mpr (by decide +kernel), State.grants_round _,
    by decide +kernel⟩

theorem test_QueriesAndIdentReport_refused :
    ∀ x ∈ [(Instr.bayQuery 1 8, kindBayQuery), (.portQuery 1 4, kindPortQuery), (.jobQuery 1 0, kindJobQuery),
      (.jobQuery 1 9, kindJobQuery), (.clipQuery 1 0, kindClipQuery), (.clipQuery 1 65536, kindClipQuery)],
    (run x.1 State.reset).replyLog = [⟨x.2, 1, .badArg, .codeAlone⟩] := by decide +kernel

theorem test_QueriesAndIdentReport :
    (run (.jobQuery 1 8) State.reset).replyLog = [⟨kindJobQuery, 1, .noSuch, .codeAlone⟩] ∧
    (run (.clipQuery 1 65535) State.reset).replyLog = [⟨kindClipQuery, 1, .noSuch, .codeAlone⟩] ∧
    (run (.jobQuery 1 1) (sJob (job0 .done) (clip0 .safe []) view0)).replyLog =
      [⟨kindJobQuery, 1, .done, .job (job0 .done) false true⟩] ∧
    (run (.clipQuery 1 1) (sJob (job0 .done) (clip0 .safe []) view0)).replyLog =
      [⟨kindClipQuery, 1, .done, .clip (clip0 .safe [])⟩] ∧
    (run (.poolQuery 1) State.reset).replyLog =
      [⟨kindPoolQuery, 1, .done, .pool ⟨32, 1024, 0, 0, [], [0, 0, 0, 0], []⟩⟩] ∧
    ((run (.bayQuery 1 7) State.reset).replyLog.map Reply.code) = [.done] ∧
    ((run (.portQuery 1 3) State.reset).replyLog.map Reply.code) = [.done] ∧
    (run (.ident 1) State.reset).lki.freshStart = false := by decide +kernel

/-- What the bay, port and pool queries report, from records in which the fields differ. -/
theorem test_QueriesAndIdentReport_fields :
    let b := bayInfo 0 { bayJ with clear := true, sig := some { sig0 with capacity := 9 } }
    let p := portInfo 0 { portO with graceTimer := some 30, holds := [⟨2, 4, false, none⟩, ⟨3, 5, false, some .portLost⟩] }
    let q := poolInfo { Pool.reset with
      extents := [(0, { filling0 with claim := { claim0 with clip := 2 } }), (1, ⟨.full, claim0, 512, some [1, 3], none⟩),
        (2, { filling0 with claim := ⟨2, .repair, some 0, 0⟩ })]
      waits := [⟨.lane 0 0, claim0⟩], window := 1 }
    b.away = true ∧ b.job = some 1 ∧ b.clear = true ∧ b.cardPresent = true ∧ (bayInfo 0 bayJ).away = false ∧
    p.room = 11 ∧ p.capacity = 20 ∧ p.unitBytes = 4096 ∧ p.nHolds = 2 ∧ p.nOpen = 1 ∧ p.graceLeft.isSome = true ∧
    q.nFree = 1021 ∧ q.nFilling = 2 ∧ q.nFull = 1 ∧ q.clips = [⟨2, 1, 1⟩, ⟨1, 1, 0⟩] ∧ q.perPort = [0, 1, 0, 1] ∧
    q.waits = [⟨⟨.lane 0 0, claim0⟩, true⟩] := by decide +kernel

/-! ## Bays -/

theorem test_ProbesMountOrFault :
    ((run (.cardSeated 0) State.reset).bay 0).state = .probing ∧
    ((run (.cardSeated 0) (sBay bayM)).bay 0).state = .mounted ∧
    ((run (.probeCompletion ⟨0, false⟩ (some sig0)) sProbing).bay 0).state = .mounted ∧
    ((run (.probeCompletion ⟨0, false⟩ (some { sig0 with capacity := 1 })) sProbing).bay 0).health.window = some 2 ∧
    ((run (.probeCompletion ⟨0, false⟩ (some { sig0 with capacity := 4294967295 })) sProbing).bay 0).state = .mounted ∧
    ((run (.probeCompletion ⟨0, false⟩ (some { sig0 with capacity := 0 })) sProbing).bay 0).state = .faulted ∧
    ((run (.probeCompletion ⟨0, false⟩ (some { sig0 with capacity := 4294967296 })) sProbing).bay 0).state = .faulted ∧
    ((run (.probeCompletion ⟨0, false⟩ none) sProbing).bay 0).state = .faulted ∧
    (run (.probeCompletion ⟨0, false⟩ none) (sBay bayM)).wire = [] ∧
    ((run (.probeTimerExpiry ⟨0, false⟩) sProbing).bay 0).state = .faulted ∧ (run (.probeTimerExpiry ⟨0, false⟩) (sBay bayM)).wire = [] := by
  decide +kernel

/-- The answer and the expiry of a probe that has ended, while a new one runs. -/
theorem test_ProbesMountOrFault_late :
    run (.probeCompletion ⟨0, true⟩ (some sig0)) sProbing = sProbing ∧ run (.probeCompletion ⟨0, true⟩ none) sProbing = sProbing ∧
    run (.probeTimerExpiry ⟨0, true⟩) sProbing = sProbing := by decide +kernel

/-- CARD_LOSS and CARD_LEAVES: a mounted card with a lane, a card in a FAULTED bay, an EMPTY bay. -/
theorem test_CardLossEndsReads :
    let s := sLane lane0 { bayJ with reading := some work0 }
    s.laneOf 0 = some 0 ∧ (s.lane 0).ack = none ∧
    ((run (.cardLoss 0 true) s).bay 0).state = .probing ∧ ((run (.cardLoss 0 false) s).bay 0).state = .empty ∧
    ((run (.cardLoss 0 false) s).lane 0).holder = none ∧ .cardLostReport 0 ∈ (run (.cardLeaves 0) s).wire ∧
    ((run (.cardLoss 0 false) (sBay { Bay.reset with state := .faulted, cardPresent := true })).bay 0).state = .empty ∧
    ((run (.cardLeaves 0) sProbing).bay 0).probeTimer = none ∧ (run (.cardLeaves 0) State.reset).wire = [] := by
  decide +kernel

theorem test_CardLossEndsReads_gives :
    let s := sRead bayJ lane0 work0
    (run (.cardLoss 0 true) (sHost bayM hostRead0)).replyLog = [⟨kindCardRead, 1, .wrongState, .cardRead 1 0 block⟩] ∧
    (run (.cardLeaves 0) (sHost bayM hostRead0)).replyLog = [⟨kindCardRead, 1, .wrongState, .cardRead 1 0 block⟩] ∧
    (run (.cardLoss 0 false) s).pool.extents = [] ∧ (run (.cardLeaves 0) s).pool.extents = [] ∧
    (run (.cardLoss 0 false) { s with jm := (sClip (clip0 .reading [])).jm }).pool = s.pool := by decide +kernel

/-- A card lost and still seated: the report, the notice of the loss and that of the insertion. -/
theorem test_CardLossEndsReads_insert :
    (run (.cardLoss 0 true) (sBay bayM)).wire = [.cardLostReport 0,
      .noticeQueued (.bay 0 (.cardLost .mounted) .empty .disengaged), .noticeQueued (.bay 0 .insert .probing .disengaged)] := by
  decide +kernel

theorem test_CardLossEndsReads_leaves :
    let s := sBay bayM
    run (.cardLeaves 0) s = run (.cardLoss 0 false) (s.arrive (.cardLeaves 0)) ∧
    .noticeQueued (.bay 0 (.cardLost .mounted) .empty .disengaged) ∈ (run (.cardLeaves 0) s).wire := by decide +kernel

/-- A card lost, and work ended, while the lane has a claim out: its answer is awaited no more. -/
theorem test_CardLossEndsReads_claim :
    let s := sLane { lane0 with extent := none, claim := some claim0 } { bayJ with reading := some work0 }
    (run (.cardLoss 0 true) s).arb.unawaited = [⟨.lane 0 0, claim0⟩] ∧
    (run (.workItemEnded 0 (.clip 1)) s).arb.unawaited = [⟨.lane 0 0, claim0⟩] ∧
    (run (.cardLoss 0 true) (sLane lane0 { bayJ with reading := some work0 })).arb.unawaited = [] := by decide +kernel

theorem test_EjectLockHoldsCard :
    (run (.ejectButton 0) (sBay bayM)).wire = [.cardLeaves 0] ∧ (run (.ejectButton 0) (sBay bayJ)).wire = [] ∧
    (run (.ejectButton 0) State.reset).wire = [] ∧
    ((run (.bayJobBound 0 1 sig0 .opened) (sBay bayM)).bay 0).lock = .engaged ∧
    (run (.bayJobRemoved 0) (sBay bayJ)).wire = [.noticeQueued (.bay 0 .lockChange .mounted .disengaged)] ∧
    (run (.bayJobRemoved 0) (sBay { bayJ with lock := .disengaged })).wire = [] ∧
    (run (.bayReleaseAccepted 0) (sBay bayJ)).wire = [.noticeQueued (.bay 0 .lockChange .mounted .disengaged)] ∧
    (run (.bayReleaseAccepted 0) (sBay bayM)).wire = [] := by decide +kernel

/-- The lamp's rows, and the copies that set it. -/
theorem test_BayCopiesDriveLamp :
    lampOf bayM = .unlit ∧ lampOf { bayJ with state := .off } = .unlit ∧ lampOf { bayJ with state := .faulted } = .redFlashing ∧
    lampOf { bayJ with sig := none } = .redFlashing ∧ lampOf { bayJ with clear := true } = .greenSteady ∧
    lampOf { bayJ with health := { bayJ.health with mode := .careful } } = .amberFlashing ∧ lampOf bayJ = .amberSteady ∧
    ((run (.bayJobState 0 .done) (sBay bayJ)).bay 0).lamp = .redSteady ∧
    ((run (.bayClearChange 0 true) (sBay bayJ)).bay 0).lamp = .greenSteady ∧
    ((run (.bayClearChange 0 true) (sBay bayM)).bay 0).clear = false := by decide +kernel

/-- A window's expiry with LO, and one more than LO, retry events. -/
theorem test_HealthWindowsExpire :
    ((run (.healthWindowExpiry 0) (sBay (careful 8))).bay 0).health.mode = .normal ∧
    ((run (.healthWindowExpiry 0) (sBay (careful 9))).bay 0).health.mode = .careful ∧
    ((run (.healthWindowExpiry 0) (sBay bayJ)).bay 0).health.window = some 10 ∧
    ((run (.healthWindowExpiry 0) State.reset).bay 0).health.window = none := by decide +kernel

theorem test_BayReadWorkChanges :
    ((run (.bayReadWork 0 work0) (sBay bayJ)).lane 0).holder = some (.work 0 (.clip 1)) ∧
    ((run (.bayReadWork 0 { work0 with item := .repair 1 2 }) (sBay Bay.reset)).bay 0).repairs =
      [{ work0 with item := .repair 1 2 }] ∧
    ((run (.poolOffer 0 claim0) { sBay { bayJ with waiting := true } with
      arb := { Arbiter.reset with lanes := Vector.replicate 4 { lane0 with holder := some (.work 1 (.clip 2)) } } }).bay 0).offered =
      some (.clip 1) ∧
    ((run (.workItemEnded 0 (.clip 1)) (sLane lane0 { bayJ with reading := some work0 })).lane 0).holder = none ∧
    ((run (.waitRemoved (.lane 0 0) claim0) (sBay { bayM with waiting := true })).bay 0).waiting = false := by decide +kernel

/-- The end of an item: its extent, what an offer has set aside for it, and the bay's place for it. -/
theorem test_BayReadWorkChanges_gives :
    let s (a : Option SetAside) (w : List Wait) (ms : List Instr) : State := { sRead { bayJ with waiting := true } lane0 work0 with
      pool := { Pool.reset with extents := [(0, { filling0 with aside := a })], waits := w }, wire := ms }
    let e := run (.workItemEnded 0 (.clip 1))
    let answer := Instr.claimAnswer (.lane 0 0) claim0 none
    (e (s none [] [])).pool.extents = [] ∧ (e (s (some (.bay 0)) [] [])).pool.extents = [] ∧
    (e (s none [] [.clipDiscard 1])).pool = (s none [] []).pool ∧ ((e (s none [] [])).bay 0).waiting = true ∧
    bayPlaces (s none [waiting0] []).pool 0 (.clip 1) = [⟨.lane 0 0, none, claim0, none⟩] ∧
    (e (s none [waiting0] [])).pool.waits = [] ∧ ((e (s none [waiting0] [])).bay 0).waiting = false ∧
    ((e (s none [waiting0] [answer])).bay 0).waiting = true ∧
    (run (.workItemEnded 0 (.clip 2)) (s none [waiting0] [])).pool = (s none [waiting0] []).pool := by decide +kernel

/-- A grant: the bay, its work item, the lane prepared and its first claim; and in CAREFUL a burst of 1. -/
theorem test_BayReadWorkChanges_grant :
    let s := sBay { bayJ with reading := some work0 }
    let l : Lane := { lane0 with extent := none, claim := some claim0, burst := (Config.planRow 0).burst }
    s.bayEligible 0 = true ∧ bayItem (s.bay 0) = some (.clip 1) ∧ s.arb.pointer = 7 ∧
    s.loadState (.clip 1) = digestInitial ∧ (s.grantOne.map (fun t => t.lane 0)) = some l ∧
    s.grantOne.map (fun t => t.wire) = some [.extentClaim (.lane 0 0) claim0] ∧
    ((sBay { careful 0 with reading := some work0 }).grantOne.map (fun t => (t.lane 0).burst)) = some 1 := by decide +kernel

/-- The bay next in the round. -/
theorem test_BayReadWorkChanges_round :
    let s := sBay { bayJ with reading := some work0 }
    LaneNext s 0 ∧ (∀ r, ¬ HostNext s r) ∧ BayNext s 0 ∧ s.grantOne = some (turnGiven s 0 0 (.clip 1)) := by
  refine ⟨(State.laneNext_iff _ _).mpr (by decide +kernel), fun r h => ?_, ((State.nextBay_iff _ _ (.clip 1)).mp ?_).1, ?_⟩
  · exact absurd ((State.hostNext_iff _ _).mp h) (by
      rw [show (sBay { bayJ with reading := some work0 }).nextHostRead = none by decide +kernel]; exact nofun)
  all_goals decide +kernel

/-- A word of removal that the bay takes before its lane takes the answer "wait" (log 54). -/
theorem test_BayReadWorkChanges_overtaken :
    let s := sRead bayJ { lane0 with extent := none, claim := some claim0 } work0
    let t := run (.claimAnswer (.lane 0 0) claim0 none) (run (.waitRemoved (.lane 0 0) claim0) s)
    (t.bay 0).waiting = true ∧ t.pool.waits = [] ∧ t.wire = [.burstEndReport (.clip 1) digestInitial] := by decide +kernel

/-- Work ended returns the lane; an offer for a read that has ended, without a discard to come and with one. -/
theorem test_BayReadWorkChanges_ends :
    let e := run (.workItemEnded 0 (.clip 1)) (sLane lane0 { bayJ with reading := some work0 })
    let s (ms : List Instr) : State := { sBay { bayM with waiting := true } with
      pool := { Pool.reset with extents := [(0, { filling0 with aside := some (.bay 0) })] }, wire := ms }
    e.lane 0 = Lane.reset ∧ e.wire = [] ∧ setAsideFor (s []).pool (.lane 0 0) claim0 = some 0 ∧
    (run (.poolOffer 0 claim0) (s [])).pool.extents = [] ∧
    (run (.poolOffer 0 claim0) (s [.clipDiscard 1])).pool.extents = (s []).pool.extents ∧
    (run (.poolOffer 0 claim0) (s [.claimAnswer (.lane 1 0) claim0 (some 0)])).pool.extents = (s []).pool.extents := by
  decide +kernel

/-! ## Lanes -/

/-- A block that is not the last, the last of the clip, and the last of an extent with the turn going on and ending. -/
theorem test_BlocksArePlacedAndDigested :
    let s := sRead bayJ lane0 work0
    block.length = 512 ∧ bayWork (s.bay 0) (.clip 1) = some work0 ∧ (s.lane 0).extent = some 0 ∧
    (run (.blockReadAttempt 0 (some block)) s).wire = [] ∧
    ((run (.blockReadAttempt 0 (some block)) s).lane 0).unit.map DigestState.count = some 512 ∧
    ((run (.blockReadAttempt 0 (some block)) (sRead bayJ lane0 { work0 with length := 512 })).lane 0).ack =
      some ⟨0, claim0, 512⟩ ∧
    .extentClaim (.lane 0 0) ⟨1, .first, none, 1⟩ ∈ (run (.blockReadAttempt 0 (some block))
      (sRead bayJ { lane0 with unit := some ⟨0#64, 4193792⟩ } { work0 with length := 4194816 })).wire ∧
    ((run (.blockReadAttempt 0 (some block))
      (sRead bayJ { lane0 with unit := some ⟨0#64, 4193792⟩, filled := 7 } { work0 with length := 4194816 })).lane 0).filled = 0 ∧
    (run (.blockReadAttempt 0 (some block)) State.reset).wire = [] := by decide +kernel

/-- The end of a turn: the lane is returned, and granted anew where its bay is eligible. -/
theorem test_BlocksArePlacedAndDigested_turn :
    let l := { lane0 with unit := some ⟨0#64, 4193792⟩, filled := 7 }
    let w := { work0 with length := 4194816 }
    let t (x : Bay) := run (.blockReadAttempt 0 (some block)) (sRead x l w)
    ((t bayJ).lane 0).filled = 0 ∧ ((t bayJ).lane 0).holder = some (.work 0 (.clip 1)) ∧
    (t { bayJ with waiting := true }).lane 0 = Lane.reset ∧
    (t { bayJ with waiting := true }).wire.map (fun m => decide (m = .extentComplete 0 claim0 4194304)) = [true, false] := by
  decide +kernel

/-- A card-sourced repair: a block that is not the last, one before a block of the damage list, the last; and the extents in
which bytes are placed. -/
theorem test_BlocksArePlacedAndDigested_repair :
    let go (w : ReadWork) (l : Lane) := run (.blockReadAttempt 0 (some block)) (sRepair bayJ l w)
    let end4 := { laneR with unit := some ⟨0#64, 4193792⟩ }
    (go work0 laneR).wire = [] ∧ ((go work0 laneR).lane 0).unit.map DigestState.count = some 512 ∧
    ((go { work0 with length := 2048, runs := [⟨0, 4⟩], damage := [1] } laneR).lane 0).unit.map DigestState.count = some 1024 ∧
    ((go { work0 with length := 2048, runs := [⟨0, 4⟩], damage := [1, 2] } laneR).lane 0).unit.map DigestState.count = some 1536 ∧
    ((go { work0 with length := 512 } laneR).lane 0).ack = some ⟨0, claimR, 512⟩ ∧
    ((go { work0 with length := 512 } laneR).lane 0).filled = 1 ∧
    .extentClaim (.lane 0 0) { claimR with seq := 1 } ∈ (go { work0 with length := 4194816, runs := [⟨0, 9000⟩] } end4).wire ∧
    poolPlace (sRepair bayJ laneR work0).pool 0 claim0 0 block = (sRepair bayJ laneR work0).pool ∧
    (poolPlace (sRepair bayJ laneR work0).pool 0 claimR 0 [1#8]).mem = [(0, 1#8)] := by decide +kernel

theorem test_HostReadsAreAnswered :
    (run (.blockReadAttempt 0 (some block)) (sHost bayM hostRead0)).replyLog =
      [⟨kindCardRead, 1, .done, .cardRead 2 0 (block ++ block)⟩] ∧
    ((run (.blockReadAttempt 0 (some block)) (sHost bayM { hostRead0 with count := 3 })).lane 0).holder =
      some (.host ⟨0, 0, 7, 3, 2, block ++ block⟩) ∧
    ((run (.blockReadAttempt 0 none) (sHost { careful 0 with fails := 6 } hostRead0)).bay 0).fails = 7 ∧
    (run (.blockReadAttempt 0 none) (sHost { careful 0 with fails := 7 } hostRead0)).replyLog =
      [⟨kindCardRead, 1, .mediaError, .cardRead 1 8 block⟩] := by decide +kernel

/-- Failed attempts of a host card read in NORMAL: the third, the fourth and the eighth. -/
theorem test_HostReadsAreAnswered_normal :
    let f (n : Nat) := run (.blockReadAttempt 0 none) (sHost { bayM with fails := n } hostRead0)
    ((f 2).bay 0).health.mode = .normal ∧ ((f 2).bay 0).health.count = 1 ∧ ((f 3).bay 0).health.mode = .careful ∧
    ((f 3).lane 0).holder = some (.host hostRead0) ∧ ((f 7).bay 0).health.mode = .careful ∧
    (f 7).replyLog = [⟨kindCardRead, 1, .mediaError, .cardRead 1 8 block⟩] := by decide +kernel

/-- A host card read by which its bay enters CAREFUL: the fourth failure, a retry event past UP, the eighth failure. -/
theorem test_HostReadsAreAnswered_careful :
    let f (x : Bay) := run (.blockReadAttempt 0 none) (sHost x hostRead0)
    let past := { bayM with health := { bayM.health with count := 24 } }
    f { bayM with fails := 3 } = carefulEntered (sHost { bayM with fails := 3 } hostRead0) 0 1 ∧
    f past = carefulEntered (sHost past hostRead0) 0 0 ∧
    ((f { bayM with fails := 7 }).bay 0) = carefulRecord { bayM with fails := 7 } 0 ∧
    (f { bayM with fails := 7 }).lane 0 = Lane.reset := by decide +kernel

/-- A failed attempt: the third and the fourth in NORMAL, UP and UP + 1 retry events, the seventh and the eighth in CAREFUL,
ABORT, SALVAGE with 16 and with 15 blocks substituted. -/
theorem test_FailedAttemptsAreJudged :
    let w := { work0 with policy := .salvage }
    let fail (x : Bay) (w : ReadWork) := run (.blockReadAttempt 0 none) (sRead x lane0 w)
    ((fail { bayJ with fails := 2 } work0).bay 0).health.mode = .normal ∧
    ((fail { bayJ with fails := 3 } work0).bay 0).health.mode = .careful ∧
    ((fail { bayJ with health := { bayJ.health with count := 23 } } work0).bay 0).health.mode = .normal ∧
    ((fail { bayJ with health := { bayJ.health with count := 24 } } work0).bay 0).health.mode = .careful ∧
    ((fail { careful 0 with fails := 6 } work0).bay 0).fails = 7 ∧
    .mediaFailure 1 ∈ (fail { careful 0 with fails := 7 } work0).wire ∧
    .mediaFailure 1 ∈ (fail { careful 0 with fails := 7, uncorrectable := 16 } w).wire ∧
    .blockSubstitution 1 0 ∈ (fail { careful 0 with fails := 7, uncorrectable := 15 } w).wire := by decide +kernel

theorem test_onlyLane (x : Bay) (l : Lane) (w : ReadWork) : OnlyLane (sRead x l w) 0 0 ∧ OnlyLane (sRepair x l w) 0 0 := by
  refine ⟨fun m h => ?_, fun m h => ?_⟩ <;> (revert h; fin_cases m <;> intro h <;> first | rfl | cases h)

/-- A bay enters CAREFUL while its lane reads for it: the fourth failure of a block, a retry event past UP, and both; the mode, the
window, the count, the lamp, and the turn that then ends. -/
theorem test_FailedAttemptsAreJudged_careful :
    let past (n : Nat) := { bayJ with fails := n, health := { bayJ.health with count := 24 } }
    ∀ x ∈ [({ bayJ with fails := 3 }, 1), (past 0, 0), (past 3, 1)],
      let s := sRead x.1 lane0 work0
      let r := sRepair x.1 laneR work0
      let t := run (.blockReadAttempt 0 none) s
      t = (carefulEntered s 0 x.2).setLane 0 { lane0 with endTurn := true } ∧
      run (.blockReadAttempt 0 none) r = (carefulEntered r 0 x.2).setLane 0 { laneR with endTurn := true } ∧
      ((t.bay 0).health.mode, (t.bay 0).health.window, (t.bay 0).health.count, (t.bay 0).lamp) =
        (.careful, some 10, x.2, .amberFlashing) := by decide +kernel

/-- A block replaced by zeros by an eighth failure in NORMAL: the bay's count of uncorrectable blocks, the block's failed attempts, the
monitor, the digest unit, the turn; and the last block of an extent, and of the clip. -/
theorem test_FailedAttemptsAreJudged_zeros :
    let f (n : Nat) (length : Nat) := run (.blockReadAttempt 0 none) (sRead { bayJ with fails := 7, waiting := true, uncorrectable := 15 }
      { lane0 with unit := some ⟨0#64, n⟩ } { work0 with policy := .salvage, length := length })
    let x := (f 0 1024).bay 0
    (x.uncorrectable, x.fails, x.health.mode, x.health.count, x.health.window) = (16, 0, .careful, 0, some 10) ∧
    ((f 0 1024).lane 0).unit.map DigestState.count = some 512 ∧ ((f 0 1024).lane 0).endTurn = true ∧
    (f 4193792 4194816).lane 0 = Lane.reset ∧
    ((f 4193792 4194816).bay 0).uncorrectable = 16 ∧ ((f 0 512).lane 0).ack = some ⟨0, claim0, 512⟩ := by decide +kernel

/-- The extent of a read that an uncorrectable block ends: given back, or kept for the discard that the report will bring. -/
theorem test_FailedAttemptsAreJudged_gives :
    let x := { careful 0 with fails := 7 }
    let clip := sRead x lane0 work0
    let repair := sRepair x laneR work0
    let f := run (.blockReadAttempt 0 none)
    (f clip).pool.extents = [] ∧ (f { clip with jm := (sClip (clip0 .reading [])).jm }).pool = clip.pool ∧
    (f repair).pool.extents = [] ∧
    (f { repair with jm := (sClip (clip0 .landing [{ repairing .card with port := 2 }])).jm }).pool = repair.pool := by
  decide +kernel

theorem test_AcksAndClaimAnswers_due :
    let s (c : Clip) (m : Instr) : State := { sClip c with wire := [m] }
    let k := { repairing .card with port := 2 }
    (s (clip0 .reading []) (.mediaFailure 1)).discardDue (.lane 0 0) claim0 = true ∧
    (s (clip0 .queued []) (.mediaFailure 1)).discardDue (.lane 0 0) claim0 = false ∧
    (s (clip0 .landing [k]) (.repairSourceFailure 1 2)).discardDue (.lane 0 0) claimR = true ∧
    (s (clip0 .landing [k]) (.repairSourceFailure 1 1)).discardDue (.lane 0 0) claimR = false ∧
    (s (clip0 .landing [k]) (.mediaFailure 1)).discardDue (.lane 0 0) claimR = false := by decide +kernel

theorem test_FailedAttemptsAreJudged_repair :
    let fail (x : Bay) := run (.blockReadAttempt 0 none) (sRepair x laneR { work0 with policy := .salvage })
    ((fail bayJ).bay 0).fails = 1 ∧ ((fail { bayJ with fails := 3 }).bay 0).health.mode = .careful ∧
    ((fail { careful 0 with fails := 6 }).bay 0).fails = 7 ∧
    (fail { careful 0 with fails := 7 }).wire = [.repairSourceFailure 1 2] ∧
    ((fail { careful 0 with fails := 7 }).bay 0).repairs = [] ∧ ((fail { careful 0 with fails := 7 }).lane 0).extent = none := by
  decide +kernel

/-- The eighth failure reached in NORMAL: CAREFUL is entered and the block is uncorrectable. -/
theorem test_FailedAttemptsAreJudged_normal :
    let x := { bayJ with fails := 7 }
    let r := run (.blockReadAttempt 0 none) (sRepair x laneR work0)
    let c := run (.blockReadAttempt 0 none) (sRead x lane0 work0)
    r.wire = [.noticeQueued (.bay 0 (.healthMode .careful) .mounted .engaged), .repairSourceFailure 1 2] ∧
    (r.bay 0).health.mode = .careful ∧ (c.bay 0).health.mode = .careful ∧ .mediaFailure 1 ∈ c.wire := by decide +kernel

theorem test_AcksAndClaimAnswers :
    let acked := sRead bayJ { lane0 with extent := none, ack := some ⟨0, claim0, 512⟩ } work0
    let asking := sRead bayJ { lane0 with extent := none, claim := some claim0 } work0
    .extentComplete 0 claim0 512 ∈ (run (.readCompletionAck 0 (.clip 1)) acked).wire ∧
    (run (.readCompletionAck 0 (.clip 1)) State.reset).wire = [] ∧
    ((run (.claimAnswer (.lane 0 0) claim0 (some 0)) asking).lane 0).extent = some 0 ∧
    ((run (.claimAnswer (.lane 0 0) claim0 none) asking).bay 0).waiting = true ∧
    ((run (.claimAnswer (.lane 0 0) claim0 none) asking).lane 0).holder = none ∧
    (run (.claimAnswer (.lane 0 0) claim0 none) State.reset).wire = [] := by decide +kernel

/-- The lane is returned by an acknowledgment and by an answer "wait", and granted to the next bay that is eligible. -/
theorem test_AcksAndClaimAnswers_returns :
    let acked := sLane { lane0 with extent := none, ack := some ⟨0, claim0, 512⟩ } bayJ
    let asking := sRead bayJ { lane0 with extent := none, claim := some claim0 } work0
    let next := asking.setBay 1 { bayJ with reading := some { work0 with item := .clip 2 } }
    (run (.readCompletionAck 0 (.clip 1)) acked).lane 0 = Lane.reset ∧
    (run (.claimAnswer (.lane 0 0) claim0 none) asking).lane 0 = Lane.reset ∧
    ((run (.claimAnswer (.lane 0 0) claim0 none) next).lane 0).holder = some (.work 1 (.clip 2)) := by decide +kernel

/-- A granted claim of a repair whose first two blocks are on the damage list; and answers that nobody awaits: granted and "wait",
where no discard is due, also when the clip is READING, and where the report of the card's loss is on its way. -/
theorem test_AcksAndClaimAnswers_repair :
    let s := sRepair bayJ { laneR with extent := none, claim := some claimR }
      { work0 with length := 2048, runs := [⟨0, 4⟩], damage := [0, 1] }
    let t := run (.claimAnswer (.lane 0 0) claimR (some 0)) s
    let p : State := { State.reset with pool := { Pool.reset with
      extents := [(0, filling0)], waits := [⟨.lane 0 0, claim0⟩] } }
    let reads : State := { p with jm := (sJob (job0 .opened) (clip0 .reading []) view0).jm }
    let lost : State := { reads with wire := [.cardLostReport 0] }
    (t.lane 0).unit.map DigestState.count = some 1024 ∧ (t.lane 0).extent = some 0 ∧ t.wire = [] ∧
    (run (.claimAnswer (.lane 0 0) claim0 none) p).pool.waits = [] ∧
    (run (.claimAnswer (.lane 0 0) claim0 (some 0)) { p with pool := { p.pool with waits := [] } }).pool.extents = [] ∧
    p.discardDue (.lane 0 0) claim0 = false ∧ reads.discardDue (.lane 0 0) claim0 = false ∧
    lost.discardDue (.lane 0 0) claim0 = true ∧
    (run (.claimAnswer (.lane 0 0) claim0 none) lost).pool.waits = p.pool.waits := by decide +kernel

/-- The answer to an abandoned claim comes before the one to the present claim of the same identity: what it gave is given back, and
the lane and the engine wait on; an extent that the present claim's answer brings too stands. -/
theorem test_AcksAndClaimAnswers_abandoned :
    let asking : State := { sRead bayJ { lane0 with extent := none, claim := some claim0 } work0 with
      arb := { Arbiter.reset with
        lanes := Vector.ofFn (fun n => if n = 0 then { lane0 with extent := none, claim := some claim0 } else Lane.reset)
        unawaited := [⟨.lane 0 0, claim0⟩] } }
    let two : State := { asking with pool := { asking.pool with extents := [(0, filling0), (1, filling0)] } }
    let same : State := { asking with wire := [.claimAnswer (.lane 0 0) claim0 (some 0)] }
    let t := run (.claimAnswer (.lane 0 0) claim0 (some 0)) two
    let u := run (.claimAnswer (.lane 0 0) claim0 (some 1)) t
    let e := { portO with verifyQ := [sibling0], engine := { engine0 with claim := some claimR }, unawaited := [claimR] }
    let g := run (.claimAnswer (.engine 0) claimR none) (sPort e)
    t.arb.unawaited = [] ∧ (t.lane 0).claim = some claim0 ∧ t.pool.extents = [(1, filling0)] ∧ (u.lane 0).extent = some 1 ∧
    u.pool.extents = [(1, filling0)] ∧
    (run (.claimAnswer (.lane 0 0) claim0 (some 0)) { same with wire := same.wire ++ same.wire }).pool.extents = [(0, filling0)] ∧
    (g.port 0).unawaited = [] ∧ (g.port 0).engine.claim = some claimR ∧
    ((run (.claimAnswer (.engine 0) claimR (some 7)) g).port 0).share = ⟨.verify, 1⟩ := by decide +kernel

/-! ## The staging pool -/

/-- EXTENT_CLAIM: an extent set aside, the lowest free extent below the window, the window reached, and indexes that rise. -/
theorem test_ClaimsAreAnswered :
    let aside := sPool [(0, { filling0 with aside := some (.bay 0) })] []
    let taken := sPool [(0, filling0), (2, { filling0 with claim := { claim0 with clip := 2 } })] []
    (run (.extentClaim (.lane 0 0) claim0) aside).wire = [.claimAnswer (.lane 0 0) claim0 (some 0)] ∧
    (run (.extentClaim (.lane 0 0) claim0) taken).wire = [.claimAnswer (.lane 0 0) claim0 (some 1)] ∧
    (run (.extentClaim (.lane 0 0) claim0) { taken with pool := { taken.pool with window := 1 } }).pool.waits = [waiting0] ∧
    (run (.extentClaim (.lane 0 0) claim0) { taken with pool := { taken.pool with window := 2 } }).pool.waits = [] ∧
    (taken.pool.extents.map Prod.fst).Pairwise (· < ·) := by decide +kernel

/-- An extent set aside for the bay and for an engine, taken up; and other claims. -/
theorem test_ClaimsAreAnswered_aside :
    let e (a : SetAside) : Extent := { filling0 with aside := some a }
    let p := (sPool [(0, filling0), (1, e (.bay 0)), (2, e (.bay 0)), (3, e (.engine 1))] []).pool
    setAsideFor p (.lane 2 0) claim0 = some 1 ∧ setAsideFor p (.engine 1) claim0 = some 3 ∧
    setAsideFor p (.lane 0 1) claim0 = none ∧ setAsideFor p (.lane 0 0) { claim0 with seq := 1 } = none ∧
    clearAside p 1 = { p with extents := [(0, filling0), (1, filling0), (2, e (.bay 0)), (3, e (.engine 1))] } ∧
    heldCount p 1 = 4 ∧ extentAt p 3 = some (e (.engine 1)) := by decide +kernel

theorem test_FullExtentsGetPendingSets :
    (run (.extentComplete 0 claim0 512) (sPool [(0, filling0)] [])).wire = [.pendingSetQuestion 0 claim0] ∧
    (run (.extentComplete 0 claim0 512) (sPool [(0, full0 none)] [])).wire = [] ∧
    (run (.pendingSetAnswer 0 claim0 [3, 1]) (sPool [(0, full0 none)] [])).wire =
      [.extentAppend 1 0 claim0 512, .extentAppend 3 0 claim0 512] ∧
    (run (.pendingSetAnswer 0 claim0 []) (sPool [(0, full0 none)] [])).pool.extents = [] ∧
    (run (.pendingSetAnswer 0 claim0 []) (sPool [(0, full0 none)] [waiting0])).pool.waits = [] ∧
    (run (.pendingSetAnswer 0 claim0 [1]) (sPool [(0, full0 (some [1]))] [])).wire = [] := by decide +kernel

theorem test_ReleasesAndDiscardsFreeExtents :
    (run (.extentRelease 1 [(0, claim0)]) (sPool [(0, full0 (some [1, 3]))] [])).pool.extents = [(0, full0 (some [3]))] ∧
    (run (.extentRelease 1 [(0, claim0)]) (sPool [(0, full0 (some [1]))] [])).pool.extents = [] ∧
    (run (.extentRelease 2 [(0, claim0)]) (sPool [(0, full0 (some [1]))] [])).pool.extents = [(0, full0 (some [1]))] ∧
    (run (.clipDiscard 1) (sPool [(0, full0 (some [1]))] [waiting0])).wire =
      [.extentRemoval 1 0 claim0, .waitRemoved (.lane 0 0) claim0] ∧
    (run (.clipDiscard 2) (sPool [(0, full0 (some [1]))] [])).pool.extents = [(0, full0 (some [1]))] ∧
    (run (.repairDiscard 1 2) (sPool [(0, { filling0 with claim := ⟨1, .repair, some 2, 0⟩ }), (1, filling0)] [])).pool.extents =
      [(1, filling0)] := by decide +kernel

/-- A release of two extents, one freed, with a request waiting; and discards beside a request of another read: it stands at the
window, and is offered the extent below it. -/
theorem test_ReleasesAndDiscardsFreeExtents_waits :
    let c1 : ClaimId := { claim0 with seq := 1 }
    let es := [(0, full0 (some [1])), (1, ⟨.full, c1, 512, some [1, 3], none⟩)]
    let w : Wait := ⟨.engine 2, ⟨2, .repair, some 3, 0⟩⟩
    let r := run (.extentRelease 1 [(0, claim0), (1, c1)]) (sPool es [w])
    let x : ClaimId := ⟨1, .repair, some 2, 0⟩
    let d := run (.repairDiscard 1 2) (sPool [(0, ⟨.full, x, 512, some [2], none⟩)] [⟨.engine 0, { x with seq := 1 }⟩, w])
    let full : State := { State.reset with pool := { Pool.reset with
      extents := [(0, { filling0 with claim := { claim0 with clip := 2 } })], waits := [w, waiting0], window := 1 } }
    r.pool.extents = [(0, ⟨.filling, w.claim, 0, none, some (.engine 2)⟩), (1, ⟨.full, c1, 512, some [3], none⟩)] ∧
    r.wire = [.siblingOffer 2 0 w.claim] ∧ r.pool.waits = [] ∧
    .extentRemoval 2 0 x ∈ d.wire ∧ .waitRemoved (.engine 0) { x with seq := 1 } ∈ d.wire ∧ .siblingOffer 2 0 w.claim ∈ d.wire ∧
    (run (.clipDiscard 1) full).pool.waits = [w] := by decide +kernel

/-- The order of offers: a lane's request before a port's, a lower lane's first, one at the window passed over. -/
theorem test_ReleasesAndDiscardsFreeExtents_order :
    let at2 : Extent := { filling0 with claim := { claim0 with clip := 2 } }
    let e : Wait := ⟨.engine 0, claimR⟩
    let l1 : Wait := ⟨.lane 1 3, { claim0 with clip := 3 }⟩
    let l0 : Wait := ⟨.lane 0 2, { claim0 with clip := 2 }⟩
    let s : State := { State.reset with pool := { Pool.reset with
      extents := [(0, full0 (some [1])), (1, at2), (2, ⟨.full, { claim0 with clip := 4 }, 512, some [1], none⟩)]
      waits := [e, l1, l0], window := 1 } }
    let r := run (.extentRelease 1 [(0, claim0), (2, { claim0 with clip := 4 })]) s
    orderedWaits s.pool.waits = [l0, l1, e] ∧ nextWait s.pool = some l1 ∧ IndexesRise s.pool ∧
    r.wire = [.poolOffer 3 l1.claim, .siblingOffer 0 2 claimR] ∧ r.pool.waits = [l0] ∧
    (run (.clipDiscard 4) s).wire =
      [.extentRemoval 1 2 { claim0 with clip := 4 }, .poolOffer 3 l1.claim] := by
  refine ⟨by decide +kernel, by decide +kernel, ⟨by decide, by decide⟩, by decide +kernel⟩

/-! ## Reports to the job manager -/

theorem test_PendingSetsAreNamed :
    let q (c : Clip) (x : ClaimId) := (run (.pendingSetQuestion 0 x) (sClip c)).wire
    q (clip0 .safe [copy0 .writing]) claim0 = [.pendingSetAnswer 0 claim0 []] ∧
    q (clip0 .reading [copy0 .writing]) claim0 = [.pendingSetAnswer 0 claim0 [0]] ∧
    q (clip0 .landing [repairing .card]) ⟨1, .repair, some 0, 0⟩ = [.pendingSetAnswer 0 ⟨1, .repair, some 0, 0⟩ [0]] ∧
    q (clip0 .landing [copy0 .written]) ⟨1, .repair, some 0, 0⟩ = [.pendingSetAnswer 0 ⟨1, .repair, some 0, 0⟩ []] := by
  decide +kernel

theorem test_ReadingReportsAreStored :
    ((run (.burstEndReport (.clip 1) ⟨5#64, 512⟩) (sClip (clip0 .reading []))).clip? 1).map Clip.bytesRead = some 512 ∧
    ((run (.burstEndReport (.clip 1) ⟨5#64, 512⟩) (sClip (clip0 .landing []))).clip? 1) = some (clip0 .landing []) ∧
    ((run (.burstEndReport (.repair 1 0) ⟨5#64, 512⟩) (sClip (clip0 .landing [repairing .card]))).clip? 1).map Clip.copies =
      some [{ repairing .card with repair := some ⟨.card, false, some ⟨5#64, 512⟩, true⟩ }] ∧
    ((run (.blockSubstitution 1 4) (sClip { clip0 .reading [] with damage := [3, 5] })).clip? 1).map Clip.damage = some [3, 4, 5] ∧
    ((run (.blockSubstitution 1 5) (sClip { clip0 .reading [] with damage := [3, 5] })).clip? 1).map Clip.damage = some [3, 5] := by
  decide +kernel

theorem test_BayViewsFollowCards :
    let s := sClip (clip0 .reading [copy0 .writing])
    s.jobOf 0 = some (job0 .opened) ∧ (s.view 0).repairs = [] ∧
    (((run (.cardLostReport 0) s).clip? 1).map Clip.state) = some .queued ∧
    .clipDiscard 1 ∈ (run (.cardLostReport 0) s).wire ∧ .runAbandonment 0 1 ∈ (run (.cardLostReport 0) s).wire ∧
    ((run (.mountReport 0 sig0) State.reset).view 0).sig = some sig0 ∧ State.reset.jobOf 0 = none := by decide +kernel

/-- MOUNT_REPORT: an admission that begins, one in progress, and CLEAR of a job that is DONE. -/
theorem test_BayViewsFollowCards_mount :
    let s := sJob (job0 .opened) (clip0 .queued [pending0]) BayView.reset
    let h := sJob (job0 .opened) (clip0 .queued [pending0]) { BayView.reset with adm := some adm0 }
    let d := sJob (job0 .done) (clip0 .safe []) BayView.reset
    ((run (.mountReport 0 sig0) s).view 0).adm = some adm0 ∧ (run (.mountReport 0 sig0) s).wire = [.holdEnquiry 0 1 512] ∧
    ((run (.mountReport 0 sig0) h).view 0).adm = some { adm0 with heldOver := true } ∧
    ((run (.mountReport 0 sig0) d).view 0).clear = true ∧ .bayClearChange 0 true ∈ (run (.mountReport 0 sig0) d).wire ∧
    ((run (.mountReport 0 { sig0 with capacity := 9 }) d).view 0).clear = false := by decide +kernel

/-- The card of a STOPPING job lost; and a card-sourced repair outstanding, with a sibling that may serve and with none. -/
theorem test_BayViewsFollowCards_lost :
    let s := run (.cardLostReport 0) (sJob (job0 .stopping) (clip0 .reading [copy0 .writing]) view0)
    let v := { view0 with repairs := [⟨1, 0⟩] }
    let c := clipD .landing [repairing .card, sibling2]
    let a := run (.cardLostReport 0) (sChoice c v portO)
    let n := run (.cardLostReport 0) (sChoice c v portR)
    (s.clip? 1).map (fun c => (c.state, c.copies.map Copy.state)) = some (.cancelled, [.dropped]) ∧
    (s.job? 1).map (fun j => (j.state, j.counts)) = some (.stopped, ⟨0, 0, 0, 1⟩) ∧
    source0 ((a.clip? 1).bind (fun c => copyOn c 0)) = some (.repairing, some (.port 2), none) ∧
    .repairDiscard 1 0 ∈ a.wire ∧ (a.view 0).repairs = [] ∧ .siblingAppend 2 ⟨1, 512, 9#64, 0, 0, some 0⟩ ∈ a.wire ∧
    source0 ((n.clip? 1).bind (fun c => copyOn c 0)) = some (.failed, none, some .noRepairSource) := by decide +kernel

/-- The card lost of a job with another clip, whose card-sourced repair is outstanding. -/
theorem test_BayViewsFollowCards_several :
    let k : Clip := { clipD .landing [repairing .card] with id := 2 }
    let s : State := ({ State.reset with jm := { JobManager.reset with
      jobs := [{ job0 .opened with clips := [2, 1] }], clips := [clip0 .reading [copy0 .writing], k] } } : State).setView 0
      { view0 with repairs := [⟨2, 0⟩] }
    let t := run (.cardLostReport 0) s
    s.jobOf 0 = some { job0 .opened with clips := [2, 1] } ∧ (t.clip? 1).map Clip.state = some .queued ∧
    .workItemEnded 0 (.clip 1) ∈ t.wire ∧ .clipDiscard 1 ∈ t.wire ∧ .repairDiscard 2 0 ∈ t.wire := by decide +kernel

/-- The card lost with a READING clip and two card-sourced repairs outstanding: each chooses its source anew. -/
theorem test_BayViewsFollowCards_each :
    let k : Clip := { clipD .landing [repairing .card, { repairing .card with port := 1 }, sibling2] with id := 2 }
    let s : State := (({ State.reset with jm := { JobManager.reset with
      jobs := [{ job0 .opened with clips := [1, 2], copySet := [⟨0, true⟩, ⟨1, true⟩, ⟨2, true⟩] }]
      clips := [clip0 .reading [copy0 .writing], k], nextId := 3 } } : State).setView 0
      { view0 with repairs := [⟨2, 0⟩, ⟨2, 1⟩] }).setPort 2 { portR with openPl := [⟨2, 0, 2, false⟩] }
    let t := run (.cardLostReport 0) s
    let source (p : Fin 4) := source0 ((t.clip? 2).bind (fun c => copyOn c p))
    TablesOk s ∧ source 0 = some (.repairing, some (.port 2), none) ∧ source 1 = some (.repairing, some (.port 2), none) ∧
    (t.view 0).repairs = [] ∧ .repairDiscard 2 0 ∈ t.wire ∧ .workItemEnded 0 (.repair 2 1) ∈ t.wire ∧
    (t.clip? 1).map Clip.state = some .queued := by
  refine ⟨?_, by decide +kernel⟩
  unfold TablesOk
  decide +kernel

/-- A report of an earlier read in transit when the clip is read anew: the read starts from the initial running state, a state handed on
in it comes before, and the late report is dropped. -/
theorem test_ReadingReportsAreStored_late :
    let m (n : Nat) := Instr.burstEndReport (.clip 1) ⟨5#64, n⟩
    let x := Instr.blockSubstitution 1 7
    let c := { clip0 .queued [{ pending0 with state := .skipped }] with attempts := 1 }
    let s := run (.mountReport 0 sig0) { sJob (job0 .opened) c BayView.reset with wire := [m 4194304, x] }
    let r : Option Clip := some { c with state := .reading, attempts := 2, running := some digestInitial }
    s.clip? 1 = r ∧ s.jm.late = [m 4194304, x] ∧ s.loadState (.clip 1) = digestInitial ∧
    (s.send (m 8388608)).loadState (.clip 1) = ⟨5#64, 8388608⟩ ∧
    (run (m 4194304) s).clip? 1 = r ∧ (run (m 4194304) s).jm.late = [x] ∧ (run x s).clip? 1 = r ∧
    ((run (m 8388608) s).clip? 1).map Clip.bytesRead = some 8388608 := by decide +kernel

/-- The card lost while an admission is in progress: the point is held over; while none is, none begins. -/
theorem test_BayViewsFollowCards_point :
    let go (c : Clip) (v : BayView) := ((run (.cardLostReport 0) (withNext c v)).view 0).adm
    let r := clip0 .reading [copy0 .writing]
    let l := clipD .landing [repairing .card]
    (withNext r view0).readingOf 0 = some r ∧ go r { view0 with adm := some next2 } = some { next2 with heldOver := true } ∧
    go r view0 = none ∧ go l { oneRepair with adm := some next2 } = some { next2 with heldOver := true } ∧
    go l oneRepair = none := by decide +kernel

/-- READ_COMPLETION: no expected digest, one that differs with the mark set, with three attempts, and with neither. -/
theorem test_ReadsEndClips :
    let r (c : Clip) := ((run (.readCompletion 0 1 ⟨0#64, 512⟩) (sClip c)).clip? 1).map (fun c => (c.state, c.cause))
    let x := { clip0 .reading [copy0 .writing] with expected := some 0#64 }
    r (clip0 .reading [copy0 .writing]) = some (.landing, none) ∧
    r { x with expected := some (BitVec.allOnes 64) } = some (.landing, none) ∧
    r { x with mismatch := true } = some (.failed, some .sourceDigest) ∧
    r { x with attempts := 3 } = some (.failed, some .sourceDigest) ∧ r { x with attempts := 2 } = some (.queued, none) ∧
    (run (.readCompletion 0 1 ⟨0#64, 512⟩) State.reset).wire = [.readCompletionAck 0 (.clip 1)] ∧
    ((run (.mediaFailure 1) (sClip (clip0 .reading [copy0 .writing]))).clip? 1).map Clip.cause = some (some .media) := by
  decide +kernel

/-- The first mismatch: the record that is read again, and the CANCELLED one of a STOPPING job. -/
theorem test_ReadsEndClips_again :
    let x := { clip0 .reading [copy0 .writing] with expected := some 0#64, attempts := 1, bytesRead := 512, damage := [3] }
    let s := run (.readCompletion 0 1 ⟨0#64, 512⟩) (sClip x)
    let z := run (.readCompletion 0 1 ⟨0#64, 512⟩) (sJob (job0 .stopping) x view0)
    s.clip? 1 = some { clip0 .queued [pending0] with expected := some 0#64, attempts := 1, mismatch := true } ∧
    .runAbandonment 0 1 ∈ s.wire ∧ (z.clip? 1).map Clip.state = some .cancelled ∧
    .noticeQueued (.clip 1 1 .cancelled none none) ∈ z.wire := by decide +kernel

/-- READ_COMPLETION with every copy settled: the clip is decided at once; and of a clip of length 0: its trailers. -/
theorem test_ReadsEndClips_landing :
    let k := { copy0 .failed with cause := some .writeError }
    let s := run (.readCompletion 0 1 ⟨0#64, 512⟩) (sJob (job0 .sealed) (clip0 .reading [k]) view0)
    let z := run (.readCompletion 0 1 ⟨BitVec.allOnes 64, 0⟩) (sClip { clip0 .reading [copy0 .writing] with length := 0, runs := [] })
    (s.clip? 1).map (fun c => (c.state, c.cause)) = some (.failed, some .writeError) ∧ (s.job? 1).map Job.state = some .done ∧
    .noticeQueued (.clip 1 1 .failed none (some .writeError)) ∈ s.wire ∧
    .trailerAppend 0 1 ⟨1, 1, 0, 0#64, sig0, [], 0, [65#8]⟩ ∈ z.wire ∧ (z.clip? 1).map Clip.state = some .landing := by
  decide +kernel

/-- A clip FAILED by a mismatch and by the medium: its record, what is sent, the count, the job. -/
theorem test_ReadsEndClips_failed :
    let x := { clip0 .reading [copy0 .writing, { sibling2 with state := .failed }] with expected := some 0#64, attempts := 3 }
    let s := sJob (job0 .sealed) x view0
    let t := run (.readCompletion 0 1 ⟨0#64, 512⟩) s
    let m := run (.mediaFailure 1) s
    let sent (c : Cause) := [Instr.noticeQueued (.clip 1 1 .failed none (some c)), .clipDiscard 1, .runAbandonment 0 1,
      .placementClose 2 1, .noticeQueued (.job 1 .done none ⟨0, 0, 1, 0⟩), .bayJobState 0 .done]
    TablesOk s ∧ NoneFollows s (job0 .sealed) 1 ∧ t.wire = .readCompletionAck 0 (.clip 1) :: sent .sourceDigest ∧
    m.wire = sent .media ∧ (t.clip? 1).map (fun c => (c.copies.map Copy.state, c.digest, c.mismatch)) =
      some ([.dropped, .failed], some (BitVec.allOnes 64), false) ∧
    (m.job? 1).map (fun j => (j.state, j.counts)) = some (.done, ⟨0, 0, 1, 0⟩) := by
  refine ⟨?_, .inl (alone _ _), by decide +kernel⟩
  unfold TablesOk
  decide +kernel

/-- A clip that leaves READING by its completion, by the medium and by a mismatch: the next clip is tried, or the point held over. -/
theorem test_ReadsEndClips_point :
    let r := clip0 .reading [copy0 .writing]
    let x := { r with expected := some 0#64, attempts := 1 }
    let go (m : Instr) (c : Clip) (v : BayView) := sentAdm (run m (withNext c v))
    let m := Instr.readCompletion 0 1 ⟨0#64, 512⟩
    let held : BayView := { view0 with adm := some next2 }
    let k := Instr.readCompletionAck 0 (.clip 1)
    let f := [Instr.noticeQueued (.clip 1 1 .failed none (some .media)), .clipDiscard 1, .runAbandonment 0 1]
    TablesOk (withNext r view0) ∧ go m r view0 = ([k, .holdEnquiry 0 2 512], some next2) ∧
    go m r held = ([k], some { next2 with heldOver := true }) ∧
    go m x view0 = ([k, .clipDiscard 1, .runAbandonment 0 1, .holdEnquiry 0 1 512], some { adm0 with rest := [2] }) ∧
    go (.mediaFailure 1) r view0 = (f ++ [.holdEnquiry 0 2 512], some next2) ∧
    go (.mediaFailure 1) r held = (f, some { next2 with heldOver := true }) := by
  refine ⟨?_, by decide +kernel⟩
  unfold TablesOk
  decide +kernel

/-- A completion and a media failure of an earlier read: dropped, the completion acknowledged. -/
theorem test_ReadsEndClips_late :
    let r := Instr.readCompletion 0 1 ⟨0#64, 512⟩
    let s : State := let s := sClip (clip0 .reading [copy0 .writing])
      { s with wire := [r, .mediaFailure 1], jm := { s.jm with late := [r, .mediaFailure 1] } }
    run r s = { s with wire := [.mediaFailure 1, .readCompletionAck 0 (.clip 1)], jm := { s.jm with late := [.mediaFailure 1] } } ∧
    run (.mediaFailure 1) s = { s with wire := [r], jm := { s.jm with late := [r] } } := by decide +kernel

/-- The next clip at its fourth start is FAILED, and the one after it is tried. -/
theorem test_ReadsEndClips_next :
    let s : State := ({ State.reset with jm := { JobManager.reset with
      jobs := [{ job0 .opened with clips := [1, 2, 3] }], nextId := 4
      clips := [clip0 .reading [copy0 .writing], { clip0 .queued [pending0] with id := 2, attempts := 3 },
        { clip0 .queued [pending0] with id := 3 }] } } : State).setView 0 view0
    sentAdm (run (.readCompletion 0 1 ⟨0#64, 512⟩) s) = ([.readCompletionAck 0 (.clip 1),
      .noticeQueued (.clip 2 1 .failed none (some .sourceLost)), .holdEnquiry 0 3 512], some { adm0 with clip := 3 }) := by
  decide +kernel

theorem test_RepairReadsAreJudged :
    let s := sClip (clipD .landing [repairing .card])
    let q := sClip (clipD .landing [repairing (.port 2)])
    ((run (.repairReadCompletion 3 1 0 9#64) s).clip? 1).map Clip.copies =
      some [{ repairing .card with repair := some ⟨.card, false, none, false⟩ }] ∧
    .repairDiscard 1 0 ∈ (run (.repairReadCompletion 3 1 0 8#64) s).wire ∧
    .repairDiscard 1 0 ∈ (run (.repairSourceFailure 1 0) s).wire ∧ (run (.repairSourceFailure 1 0) q).wire = [] ∧
    ((run (.siblingReadCompletion 2 1 0 (some 9#64)) q).clip? 1).map Clip.copies =
      some [{ repairing (.port 2) with repair := some ⟨.port 2, false, none, false⟩ }] ∧
    .repairDiscard 1 0 ∈ (run (.siblingReadCompletion 2 1 0 none) q).wire := by decide +kernel

/-- The last card-sourced repair of a bay ends: the waiting clip is tried, or the point held over; with another outstanding
nothing. -/
theorem test_RepairReadsAreJudged_point :
    let l := clipD .landing [repairing .card, sibling2]
    let s (v : BayView) := (withNext l v).setPort 2 portO
    let m (d : Digest) := Instr.repairReadCompletion 3 1 0 d
    let k := Instr.readCompletionAck 3 (.repair 1 0)
    let a := [Instr.repairDiscard 1 0, .siblingAppend 2 ⟨1, 512, 9#64, 0, 0, some 0⟩]
    let go (i : Instr) (v : BayView) := sentAdm (run i (s v))
    TablesOk (s oneRepair) ∧ go (m 9#64) oneRepair = ([k, .holdEnquiry 0 2 512], some next2) ∧
    go (m 8#64) oneRepair = (k :: a ++ [.holdEnquiry 0 2 512], some next2) ∧
    go (.repairSourceFailure 1 0) oneRepair = (a ++ [.holdEnquiry 0 2 512], some next2) ∧
    go (m 9#64) { oneRepair with repairs := [⟨1, 0⟩, ⟨2, 1⟩] } = ([k], none) ∧
    go (.repairSourceFailure 1 0) { oneRepair with adm := some next2 } = (a, some { next2 with heldOver := true }) ∧
    sentAdm (run (m 8#64) (withNext (clipD .landing [repairing .card]) oneRepair)) = ([k, .repairDiscard 1 0,
      .noticeQueued (.clip 1 1 .failed none (some .noRepairSource)), .placementClose 0 1, .holdEnquiry 0 2 512], some next2) := by
  refine ⟨?_, by decide +kernel⟩
  unfold TablesOk
  decide +kernel

/-- Reports of an earlier card read of a repair, in transit when the repair is given to the card anew: they are late, the read starts
from the initial running state. -/
theorem test_RepairReadsAreJudged_late :
    let k : Copy := { copy0 .verifying with digest := some 8#64 }
    let ms := [Instr.burstEndReport (.repair 1 0) ⟨5#64, 4194304⟩, .repairReadCompletion 3 1 0 9#64, .repairSourceFailure 1 0]
    let s := run (.verifyCompletion 0 1 true) { sClip (clipD .landing [k]) with wire := ms }
    s.jm.late = ms ∧ s.loadState (.repair 1 0) = digestInitial ∧
    ms.map (fun m => ((run m s).clip? 1, (run m s).jm.late)) = ms.map (fun m => (s.clip? 1, ms.erase m)) ∧
    .readCompletionAck 3 (.repair 1 0) ∈ (run (.repairReadCompletion 3 1 0 9#64) s).wire := by decide +kernel

/-- The choice after a card repair that failed, with a sibling that may serve and with none. -/
theorem test_RepairReadsAreJudged_choice :
    let c := clipD .landing [repairing .card, sibling2]
    let card (x : Port) := run (.repairReadCompletion 3 1 0 8#64) (sChoice c view0 x)
    sourceOn 0 (card portO) = some (.repairing, some (.port 2), none) ∧
    sourceOn 0 (card portR) = some (.failed, none, some .noRepairSource) ∧
    sourceOn 0 (run (.repairSourceFailure 1 0) (sChoice c view0 portO)) = some (.repairing, some (.port 2), none) := by
  decide +kernel

/-- The sibling at fault: its first attempt, read again from the card, and its second. -/
theorem test_RepairReadsAreJudged_sibling :
    let sib (n : Nat) := run (.siblingReadCompletion 2 1 0 none)
      (sChoice (clipD .landing [repairing (.port 2), { sibling2 with attempts := n }]) view0 portO)
    sourceOn 0 (sib 1) = some (.repairing, some .card, none) ∧ sourceOn 2 (sib 1) = some (.repairing, some .card, none) ∧
    sourceOn 0 (sib 2) = some (.repairing, some .card, none) ∧
    sourceOn 2 (sib 2) = some (.failed, none, some .verifyMismatch) ∧ ((sib 1).view 0).repairs.length = 2 := by
  decide +kernel

/-- The last unsettled copy finds no source: by the card's loss, by a failed card read, by a failed verify, by the loss of the
source's drive; and with the sibling at fault. -/
theorem test_NoSourceDecides :
    let s (ks : List Copy) (v : BayView) := sJob (job0 .sealed) (clipD .landing ks) v
    let card (m : Instr) := ended (run m (s [repairing .card] { view0 with repairs := [⟨1, 0⟩] }))
    let sib (n : Nat) (m : Instr) := ended (run m (s [repairing (.port 2), { sibling2 with attempts := n }] BayView.reset))
    let no : Option Ending := some ⟨.failed, some .noRepairSource, .done, ⟨0, 0, 1, 0⟩⟩
    let part : Option Ending := some ⟨.partialSafe, some .noRepairSource, .done, ⟨0, 1, 0, 0⟩⟩
    card (.cardLostReport 0) = no ∧ card (.repairReadCompletion 3 1 0 8#64) = no ∧ card (.repairSourceFailure 1 0) = no ∧
    ended (run (.verifyCompletion 0 1 false) (s [copy0 .verifying] BayView.reset)) = no ∧
    sib 1 (.driveLossReport 2) = part ∧ sib 1 (.portFaultReport 2) = part ∧ sib 1 (.siblingReadCompletion 2 1 0 none) = no ∧
    sib 2 (.siblingReadCompletion 2 1 0 none) = no := by decide +kernel

theorem test_NoSourceDecides_tables : TablesOk (sJob (job0 .sealed) (clipD .landing [repairing (.port 2), sibling2]) view0) := by
  unfold TablesOk
  decide +kernel

/-- The last unsettled copy settles by a grace expiry and by a port's fault. -/
theorem test_PortReportsReachClips_decided :
    let e (m : Instr) (st : CopyState) := ended (run m (sJob (job0 .sealed) (clipD .landing [copy0 st, sibling2]) view0))
    TablesOk (sJob (job0 .sealed) (clipD .landing [copy0 .writing, sibling2]) view0) ∧
    ∀ st ∈ [CopyState.writing, .written, .verifying, .repairing],
      e (.graceExpiryReport 0) st = some ⟨.partialSafe, some .portLost, .done, ⟨0, 1, 0, 0⟩⟩ ∧
      e (.portFaultReport 0) st = some ⟨.partialSafe, some .portFault, .done, ⟨0, 1, 0, 0⟩⟩ := by
  refine ⟨?_, by decide +kernel⟩
  unfold TablesOk
  decide +kernel

/-- The parts of the decision from the answers: the first required PENDING copy not answered fits, its reason, the holds to
confirm, the copies skipped. -/
theorem test_AdmissionTakesAnswers_parts :
    let k (p : Fin 4) (r : Bool) : Copy := { pending0 with port := p, required := r }
    let c := clip0 .queued [{ k 3 true with state := .failed }, k 0 false, k 1 true, k 2 true]
    let as : List TakenAnswer := [⟨2, .notReady⟩, ⟨1, .noRoom⟩, ⟨0, .fits 2 1⟩]
    refusedCopy c as = some (k 1 true) ∧ waitReasonOf as 1 = .space ∧ waitReasonOf as 2 = .port ∧ fitPorts as = [0] ∧
    confirmPorts c as = [0] ∧ refusedCopy c [⟨2, .fits 2 1⟩, ⟨1, .fits 2 1⟩, ⟨0, .noRoom⟩] = none ∧
    skipCopy as (k 1 true) = { k 1 true with state := .skipped, cause := some .space } ∧
    skipCopy as (k 2 true) = { k 2 true with state := .skipped, cause := some .portLost } ∧ skipCopy as (k 0 true) = k 0 true ∧
    placeCopy (.placed ⟨8, 2, 1⟩) (k 0 true) = { k 0 true with state := .writing, placement := some ⟨8, 2, 1⟩ } ∧
    placeCopy (.notReady (some .portLost)) (k 0 true) = { k 0 true with state := .failed, cause := some .portLost } ∧
    (sAdm adm0 []).awaits .enquiring 0 1 0 = true ∧ (sAdm adm0 []).awaits .confirming 0 1 0 = false := by decide +kernel

/-- HOLD_ANSWER: one answer still awaited, the last answer with the required copy refused, and with all fits. -/
theorem test_AdmissionTakesAnswers_holds :
    let last (x : HoldAnswer) := run (.holdAnswer 0 1 x) (sAdm adm0 [pending0])
    (((run (.holdAnswer 0 1 .noRoom) (sAdm { adm0 with awaiting := [0, 1] } [pending0])).view 0).adm).map Admission.awaiting =
      some [1] ∧
    (((last .noRoom).clip? 1).map (fun c => (c.state, c.wait))) = some (.waiting, some .space) ∧
    (((last .notReady).clip? 1).map (fun c => (c.state, c.wait))) = some (.waiting, some .port) ∧
    (last (.fits 2 1)).wire = [.holdConfirmation 0 1] ∧ (run (.holdAnswer 0 1 .noRoom) State.reset).wire = [] := by
  decide +kernel

/-- A clip refused while another one is left to try, with a hold on another port; and with a point held over: the admission begins
once more. A card-sourced repair given meanwhile stops nothing. -/
theorem test_AdmissionTakesAnswers_next :
    let go (x : HoldAnswer) (a : Admission) (v : BayView) :=
      sentAdm (run (.holdAnswer 0 1 x) (withNext (clip0 .queued [pending0]) { v with adm := some a }))
    let n := Instr.noticeQueued (.clip 1 1 .waiting (some .space) none)
    go .noRoom { adm0 with rest := [2], answers := [⟨1, .fits 2 1⟩] } view0 =
      ([.holdWithdrawal 1 1, n, .holdEnquiry 0 2 512], some next2) ∧
    go .noRoom { adm0 with heldOver := true } view0 = ([n, .holdEnquiry 0 1 512], some { adm0 with rest := [2] }) ∧
    go .noRoom { adm0 with heldOver := true } oneRepair = ([n], none) ∧
    go (.fits 2 1) adm0 oneRepair = ([.holdConfirmation 0 1],
      some { adm0 with phase := .confirming, answers := [⟨0, .fits 2 1⟩], confirmed := [0] }) := by decide +kernel

/-- A clip of length 0 that has left READING at once: the next clip is tried. -/
theorem test_AdmissionTakesAnswers_zero_next :
    let z (ks : List Copy) := { clip0 .queued ks with length := 0, runs := [] }
    let s (p : AdmPhase) (ks : List Copy) := withNext (z ks) { view0 with adm := some { adm0 with phase := p } }
    let k := { pending0 with required := false }
    TablesOk (s .enquiring [k]) ∧ sentAdm (run (.holdAnswer 0 1 .noRoom) (s .enquiring [k])) =
      ([.noticeQueued (.clip 1 1 .safe none none), .holdEnquiry 0 2 512], some next2) ∧
    sentAdm (run (.confirmationAnswer 0 1 (.placed ⟨0, 1, 0⟩)) (s .confirming [pending0])) =
      ([.trailerAppend 0 1 ⟨1, 1, 0, 0#64, sig0, [], 0, [65#8]⟩, .holdEnquiry 0 2 512], some next2) := by
  refine ⟨?_, by decide +kernel⟩
  unfold TablesOk
  decide +kernel

/-- A required copy that an earlier read left FAILED: it is not enquired, and the clip is admitted. -/
theorem test_AdmissionTakesAnswers_failed_before :
    let k := { copy0 .failed with port := 1, cause := some .writeError }
    (run (.holdAnswer 0 1 (.fits 2 1)) (sAdm adm0 [pending0, k])).wire = [.holdConfirmation 0 1] := by decide +kernel

/-- The last answer taken while the job is away. -/
theorem test_AdmissionTakesAnswers_away :
    let s := sJob (job0 .opened) (clip0 .queued [pending0]) { BayView.reset with adm := some adm0 }
    (run (.holdAnswer 0 1 (.fits 2 1)) s).wire = [.holdWithdrawal 0 1] ∧
    ((run (.holdAnswer 0 1 (.fits 2 1)) s).view 0).adm = none ∧
    (run (.holdAnswer 0 1 (.fits 2 1)) s).jm.clips = s.jm.clips := by decide +kernel

/-- The notice on entering WAITING, none when the reason stands; no copy with a hold to confirm; the last answer of a clip cancelled
while other clips wait. -/
theorem test_AdmissionTakesAnswers_ends :
    let skip := run (.holdAnswer 0 1 .noRoom) (sAdm adm0 [{ pending0 with required := false }])
    let w : State := sJob (job0 .opened) { clip0 .waiting [pending0] with wait := some .space } { view0 with adm := some adm0 }
    let gone := run (.holdAnswer 0 1 (.fits 2 1)) (sAdm { adm0 with cancelled := true } [pending0])
    let more := run (.holdAnswer 0 1 (.fits 2 1)) (sAdm { adm0 with cancelled := true, awaiting := [0, 1] } [pending0])
    (run (.holdAnswer 0 1 .noRoom) (sAdm adm0 [pending0])).wire = [.noticeQueued (.clip 1 1 .waiting (some .space) none)] ∧
    (run (.holdAnswer 0 1 .noRoom) w).wire = [] ∧
    (run (.holdAnswer 0 1 .notReady) w).wire = [.noticeQueued (.clip 1 1 .waiting (some .port) none)] ∧
    (skip.clip? 1).map (fun c => (c.state, c.copies.map Copy.state)) = some (.reading, [.skipped]) ∧ (skip.view 0).adm = none ∧
    skip.wire = [.bayReadWork 0 ⟨.clip 1, 512, [⟨0, 1⟩], .abort, []⟩] ∧
    gone.wire = [.holdWithdrawal 0 1, .holdEnquiry 0 1 512] ∧ (gone.view 0).adm = some adm0 ∧
    more.wire = [.holdWithdrawal 0 1] := by decide +kernel

theorem test_AdmissionTakesAnswers_confirmations :
    let a := { adm0 with phase := .confirming }
    let x : ConfirmAnswer := .placed ⟨0, 2, 1⟩
    (((run (.confirmationAnswer 0 1 x) (sAdm { a with awaiting := [0, 1] } [pending0])).clip? 1).map Clip.copies) =
      some [copy0 .writing] ∧
    (((run (.confirmationAnswer 0 1 x) (sAdm a [pending0])).clip? 1).map Clip.state) = some .reading ∧
    .bayReadWork 0 ⟨.clip 1, 512, [⟨0, 1⟩], .abort, []⟩ ∈ (run (.confirmationAnswer 0 1 x) (sAdm a [pending0])).wire ∧
    (run (.confirmationAnswer 0 1 (.notReady none)) (sAdm a [pending0])).wire = [] := by decide +kernel

/-- The last confirmation of a clip of length 0: LANDING with digest 0 and its trailer appended, or FAILED where another digest is
expected a second time; and of a clip cancelled meanwhile. -/
theorem test_AdmissionTakesAnswers_zero :
    let a := { adm0 with phase := .confirming }
    let go (c : Clip) := run (.confirmationAnswer 0 1 (.placed ⟨0, 1, 0⟩)) (sJob (job0 .opened) c { view0 with adm := some a })
    let z := { clip0 .queued [pending0] with length := 0, runs := [] }
    let t := go z
    let f := go { z with expected := some 5#64, mismatch := true }
    let gone := run (.confirmationAnswer 0 1 (.placed ⟨0, 2, 1⟩)) (sAdm { a with cancelled := true } [pending0])
    (t.clip? 1).map (fun c => (c.state, c.digest, c.attempts)) = some (.landing, some 0#64, 1) ∧
    .trailerAppend 0 1 ⟨1, 1, 0, 0#64, sig0, [], 0, [65#8]⟩ ∈ t.wire ∧
    (f.clip? 1).map (fun c => (c.state, c.cause)) = some (.failed, some .sourceDigest) ∧ .clipDiscard 1 ∈ f.wire ∧
    (gone.clip? 1).map Clip.copies = some [pending0] ∧ gone.wire = [.holdEnquiry 0 1 512] := by decide +kernel

/-- A clip of length 0 with no hold to confirm, and at an admission point with no PENDING copy: decided at once, the bay not told;
FAILED by a digest that differs; sent back by the first mismatch. -/
theorem test_AdmissionTakesAnswers_zero_ends :
    let z (ks : List Copy) := { clip0 .queued ks with length := 0, runs := [] }
    let h (c : Clip) (n : Nat) := run (.holdAnswer 0 1 .noRoom)
      (sJob (job0 .sealed) { c with attempts := n } { view0 with adm := some adm0 })
    let k := [{ pending0 with required := false }]
    let e := { z k with expected := some 5#64 }
    let p := run (.mountReport 0 sig0) (sJob (job0 .sealed) (z [{ pending0 with state := .skipped }]) BayView.reset)
    TablesOk (sJob (job0 .sealed) (z k) { view0 with adm := some adm0 }) ∧
    ((h (z k) 0).clip? 1).map (fun c => (c.state, c.digest)) = some (.safe, some 0#64) ∧
    ((h (z k) 0).job? 1).map Job.state = some .done ∧
    (h (z k) 0).wire = [.noticeQueued (.clip 1 1 .safe none none), .noticeQueued (.job 1 .done none ⟨1, 0, 0, 0⟩),
      .bayJobState 0 .done, .bayClearChange 0 true] ∧
    ((h e 2).clip? 1).map (fun c => (c.state, c.cause)) = some (.failed, some .sourceDigest) ∧
    (h e 2).wire.take 2 = [.noticeQueued (.clip 1 1 .failed none (some .sourceDigest)), .clipDiscard 1] ∧
    ((h e 0).clip? 1).map Clip.mismatch = some true ∧ .clipDiscard 1 ∈ (h e 0).wire ∧
    (p.clip? 1).map Clip.state = some .failed := by
  refine ⟨?_, by decide +kernel⟩
  unfold TablesOk
  decide +kernel

theorem test_WriteReportsMoveCopies :
    let s := sClip (clipD .landing [copy0 .writing])
    (run (.extentWriteCompletion 0 1 .first 0) s).wire =
      [.trailerAppend 0 1 ⟨1, 1, 512, 9#64, sig0, [], 0, [65#8]⟩] ∧
    (run (.extentWriteCompletion 0 1 .first 1) s).wire = [] ∧
    .trailerAppend 0 1 ⟨1, 2, 512, 9#64, sig0, [], 0, [65#8]⟩ ∈
      (run (.extentWriteCompletion 0 1 .repair 0) (sClip (clipD .landing [repairing .card]))).wire ∧
    (run (.trailerWriteCompletion 0 1) s).wire = [.verifyAppend 0 ⟨1, 512, 9#64, 0, 1, none⟩] ∧
    (run (.trailerWriteCompletion 0 1) (sClip (clipD .landing [copy0 .written]))).wire = [] ∧
    ((run (.writeFailureReport 0 1) (sClip (clip0 .reading [copy0 .writing]))).clip? 1).map Clip.copies =
      some [{ copy0 .writing with state := .failed, cause := some .writeError }] ∧
    (run (.writeFailureReport 0 1) (sClip (clipD .landing [copy0 .written]))).wire = [] := by decide +kernel

/-- The last extent's completion for a copy that does not await it, one returned to PENDING among them, is dropped. -/
theorem test_WriteReportsMoveCopies_dropped :
    let go (u : Purpose) (k : Copy) := (run (.extentWriteCompletion 0 1 u 0) (sClip (clipD .landing [k]))).wire
    extentCount 512 = 1 ∧ go .first pending0 = [] ∧ go .repair (copy0 .writing) = [] ∧ go .first (repairing .card) = [] := by
  decide +kernel

/-- The trailer and the failure that end the bay's last card-sourced repair: the waiting clip is tried, or the point held over. -/
theorem test_WriteReportsMoveCopies_point :
    let go (m : Instr) (ks : List Copy) (v : BayView) := sentAdm (run m (withNext (clipD .landing ks) v))
    let w := [repairing .card, { copy0 .writing with port := 1 }]
    let e := [Instr.repairDiscard 1 0, .workItemEnded 0 (.repair 1 0)]
    let held : BayView := { oneRepair with adm := some next2 }
    TablesOk (withNext (clipD .landing w) oneRepair) ∧
    go (.trailerWriteCompletion 0 1) w oneRepair =
      (e ++ [.verifyAppend 0 ⟨1, 512, 9#64, 0, 1, none⟩, .holdEnquiry 0 2 512], some next2) ∧
    go (.writeFailureReport 0 1) w oneRepair = (e ++ [.holdEnquiry 0 2 512], some next2) ∧
    go (.writeFailureReport 0 1) w held = (e, some { next2 with heldOver := true }) ∧
    go (.writeFailureReport 0 1) [repairing .card] oneRepair = (e ++ [.noticeQueued (.clip 1 1 .failed none (some .writeError)),
      .placementClose 0 1, .holdEnquiry 0 2 512], some next2) := by
  refine ⟨?_, by decide +kernel⟩
  unfold TablesOk
  decide +kernel

/-- The last copy settles under OFF, and by a write failure beside a copy that has succeeded and beside none; a trailer written
while the repair's source is still read. -/
theorem test_WriteReportsMoveCopies_ends :
    let off := sJob { job0 .sealed with verify := .off } (clipD .landing [copy0 .writing]) view0
    let fail (st : CopyState) := run (.writeFailureReport 0 1) (sClip (clipD .landing [copy0 .writing, { copy0 st with port := 1 }]))
    let t := run (.trailerWriteCompletion 0 1) (sClip (clipD .landing [repairing (.port 2)]))
    let o := run (.trailerWriteCompletion 0 1) off
    (o.clip? 1).map Clip.state = some .safe ∧ (o.job? 1).map (fun j => (j.state, j.counts)) = some (.done, ⟨1, 0, 0, 0⟩) ∧
    .placementClose 0 1 ∈ o.wire ∧ .noticeQueued (.job 1 .done none ⟨1, 0, 0, 0⟩) ∈ o.wire ∧
    ((fail .verified).clip? 1).map (fun c => (c.state, c.cause)) = some (.partialSafe, some .writeError) ∧
    ((fail .skipped).clip? 1).map (fun c => (c.state, c.cause)) = some (.failed, some .writeError) ∧
    t.wire = [.repairDiscard 1 0, .siblingCancel 2 1 0, .verifyAppend 0 ⟨1, 512, 9#64, 0, 1, none⟩] := by decide +kernel

/-- A write failure of a REPAIRING copy: the read of its source is ended, the card's and a sibling's. -/
theorem test_WriteReportsMoveCopies_repair :
    let f (x : RepairSource) := (run (.writeFailureReport 0 1)
      (sClip (clipD .landing [repairing x, { copy0 .writing with port := 1 }]))).wire
    f .card = [.repairDiscard 1 0, .workItemEnded 0 (.repair 1 0)] ∧ f (.port 2) = [.repairDiscard 1 0, .siblingCancel 2 1 0] ∧
    ((run (.writeFailureReport 0 1) (sClip (clipD .landing [repairing .card]))).clip? 1).map Clip.state = some .failed := by
  decide +kernel

theorem test_VerifyReportsMoveCopies :
    let s (st : CopyState) (n : Nat) (d : Option Digest) := sClip (clipD .landing [{ copy0 st with attempts := n, digest := d }])
    let after (c : Instr) (t : State) := (((run c t).clip? 1).bind (fun c => copyOn c 0)).map (fun k => (k.state, k.attempts, k.cause))
    after (.verifyStart 0 1) (s .written 1 none) = some (.verifying, 1, none) ∧
    (((run (.verifyDigestReport 0 1 (some 9#64)) (s .verifying 1 none)).clip? 1).bind (fun c => copyOn c 0)).map Copy.digest =
      some (some 9#64) ∧
    after (.verifyCompletion 0 1 true) (s .verifying 1 (some 9#64)) = some (.verified, 1, none) ∧
    after (.verifyCompletion 0 1 false) (s .verifying 1 (some 9#64)) = some (.repairing, 2, none) ∧
    after (.verifyCompletion 0 1 true) (s .verifying 2 (some 8#64)) = some (.failed, 2, some .verifyMismatch) ∧
    after (.verifyCompletion 0 1 true) (s .verifying 2 none) = some (.failed, 2, some .verifyMismatch) ∧
    (run (.verifyStart 0 1) (s .verified 1 none)).wire = [] ∧ (run (.verifyCompletion 0 1 true) (s .written 1 none)).wire = [] := by
  decide +kernel

/-- The last verify of a clip: SAFE, PARTIAL and FAILED; and the source of the repair: the card, a sibling, none. -/
theorem test_VerifyReportsMoveCopies_ends :
    let k (n : Nat) (d : Digest) : Copy := { copy0 .verifying with attempts := n, digest := some d }
    let go (ks : List Copy) := ((run (.verifyCompletion 0 1 true) (sClip (clipD .landing ks))).clip? 1).map (fun c => (c.state, c.cause))
    let src (v : BayView) (x : Port) := source0 (((run (.verifyCompletion 0 1 true)
      (sChoice (clipD .landing [k 1 8#64, sibling2]) v x)).clip? 1).bind (fun c => copyOn c 0))
    go [k 1 9#64] = some (.safe, none) ∧ go [k 2 8#64, sibling2] = some (.partialSafe, some .verifyMismatch) ∧
    go [k 2 8#64] = some (.failed, some .verifyMismatch) ∧
    src view0 portO = some (.repairing, some .card, none) ∧ src BayView.reset portO = some (.repairing, some (.port 2), none) ∧
    src BayView.reset portR = some (.failed, none, some .noRepairSource) := by decide +kernel

/-- The repair of a clip of length 0 is its trailer, appended again. -/
theorem test_VerifyReportsMoveCopies_zero :
    let c := { clipD .landing [copy0 .verifying] with length := 0, runs := [] }
    let t := run (.verifyCompletion 0 1 false) (sClip c)
    sourceOn 0 t = some (.repairing, some .none, none) ∧
    t.wire = [.trailerAppend 0 1 ⟨1, 2, 0, 9#64, sig0, [], 0, [65#8]⟩] := by decide +kernel

theorem test_PortReportsReachClips :
    let s := sJob (job0 .opened) { clip0 .waiting [pending0] with wait := some .port } { view0 with adm := some adm0 }
    let r := sClip (clipD .landing [repairing (.port 2)])
    s.bayWaitsFor 0 0 = true ∧ ((run (.areaInstalledReport 0) s).view 0).adm = some { adm0 with heldOver := true } ∧
    ((run (.driveReturnReport 0) s).view 0).adm = some { adm0 with heldOver := true } ∧
    (run (.areaInstalledReport 1) s).jm = s.jm ∧
    (run (.roomFreedReport 0 2) s).jm = s.jm ∧
    .siblingCancel 2 1 0 ∈ (run (.driveLossReport 2) r).wire ∧ (run (.driveLossReport 1) r).wire = [] ∧
    (((run (.graceExpiryReport 0) (sClip (clipD .landing [copy0 .writing]))).clip? 1).bind (fun c => copyOn c 0)).map Copy.cause =
      some (some .portLost) ∧
    (((run (.portFaultReport 0) (sClip (clipD .landing [copy0 .written]))).clip? 1).bind (fun c => copyOn c 0)).map Copy.cause =
      some (some .portFault) := by decide +kernel

/-- Room freed by clip 2 of job 2 in bay 1 reaches bay 0, whose clip 1 waits for the port, while clip 2 is not terminal. -/
theorem test_PortReportsReachClips_room :
    let w := { clip0 .waiting [pending0] with wait := some .port }
    let s (st : ClipState) : State := ({ State.reset with jm := { JobManager.reset with
      jobs := [job0 .opened, { job0 .opened with id := 2, bay := 1, clips := [2] }]
      clips := [w, { clip0 st [] with id := 2, job := 2 }] } } : State).setView 0 { view0 with adm := some adm0 }
    ((s .landing).clip? 2).bind (s .landing).bayOfClip = some 1 ∧ (s .landing).bayWaitsFor 0 1 = false ∧
    (s .landing).bayWaitsFor 0 0 = true ∧
    ((run (.roomFreedReport 0 2) (s .landing)).view 0).adm = some { adm0 with heldOver := true } ∧
    (run (.roomFreedReport 0 2) (s .cancelled)).jm = (s .cancelled).jm := by decide +kernel

/-- An admission that begins, one that cannot, and a fourth start; a drive lost whose repair read has completed. -/
theorem test_PortReportsReachClips_begins :
    let w := { clip0 .waiting [pending0] with wait := some .port }
    let go (c : Clip) (v : BayView) := run (.areaInstalledReport 0) (sJob (job0 .opened) c v)
    let x : Copy := { repairing (.port 2) with repair := some ⟨.port 2, false, none, false⟩ }
    let l := run (.driveLossReport 2) (sChoice (clipD .landing [x, sibling2]) BayView.reset { portO with state := .lost })
    let m := run (.driveLossReport 2) (sChoice (clipD .landing [x, sibling2]) view0 { portO with state := .lost })
    (go { w with attempts := 2 } view0).wire = [.holdEnquiry 0 1 512] ∧ ((go w view0).view 0).adm = some adm0 ∧
    (go w BayView.reset).wire = [] ∧ ((go w BayView.reset).view 0).adm = none ∧
    ((go { w with attempts := 3 } view0).clip? 1).map (fun c => (c.state, c.cause)) = some (.failed, some .sourceLost) ∧
    readsFrom 2 x = true ∧
    source0 ((l.clip? 1).bind (fun c => copyOn c 0)) = some (.failed, none, some .noRepairSource) ∧
    source0 ((m.clip? 1).bind (fun c => copyOn c 0)) = some (.repairing, some .card, none) := by decide +kernel

/-- A drive returned and room freed begin an admission, with the first clip READING at once when it has no PENDING copy. -/
theorem test_PortReportsReachClips_points :
    let w := { clip0 .waiting [pending0] with wait := some .port }
    let s (c : Clip) : State := ({ State.reset with jm := { JobManager.reset with
      jobs := [{ job0 .opened with clips := [3, 1] }, { job0 .opened with id := 2, bay := 1, clips := [2] }]
      clips := [w, { clip0 .landing [] with id := 2, job := 2 }, { c with id := 3 }] } } : State).setView 0 view0
    let q (c : Clip) := run (.driveReturnReport 0) (s c)
    let none0 := { clip0 .waiting [{ pending0 with state := .skipped }] with wait := some .port }
    (q (clip0 .queued [pending0])).wire = [.holdEnquiry 0 1 512] ∧
    (run (.roomFreedReport 0 2) (s (clip0 .queued [pending0]))).wire = [.holdEnquiry 0 1 512] ∧
    ((q none0).clip? 3).map Clip.state = some .reading ∧
    (q none0).wire = [.bayReadWork 0 ⟨.clip 3, 512, [⟨0, 1⟩], .abort, []⟩] ∧ ((q none0).view 0).adm = none := by decide +kernel

/-- A port's fault and a grace expiry: the repair of a copy there is ended, and a repair that reads from there chooses anew. -/
theorem test_PortReportsReachClips_repairs :
    let s (c : Clip) := (sJob (job0 .opened) c view0).setPort 2 { portO with state := .faulted, area := none, openPl := [] }
    let c := clipD .landing [repairing .card, { copy0 .writing with port := 1 }]
    let f := run (.portFaultReport 2) (s (clipD .landing [repairing (.port 2), sibling2]))
    .siblingCancel 2 1 0 ∈ f.wire ∧ .repairDiscard 1 0 ∈ f.wire ∧ sourceOn 0 f = some (.repairing, some .card, none) ∧
    (run (.graceExpiryReport 0) (s c)).wire = [.repairDiscard 1 0, .workItemEnded 0 (.repair 1 0)] ∧
    (run (.portFaultReport 0) (s c)).wire = [.repairDiscard 1 0, .workItemEnded 0 (.repair 1 0)] := by decide +kernel

/-- A grace expiry and a fault that end the bay's last card-sourced repair: the waiting clip, on another port, is tried. -/
theorem test_PortReportsReachClips_last :
    let s (v : BayView) := two .opened (clipD .landing [repairing .card, { copy0 .writing with port := 1 }])
      (clip0 .queued [{ pending0 with port := 2 }]) v
    let e := [Instr.repairDiscard 1 0, .workItemEnded 0 (.repair 1 0)]
    let r := (e ++ [.holdEnquiry 2 2 512], some { next2 with awaiting := [2] })
    TablesOk (s oneRepair) ∧ sentAdm (run (.graceExpiryReport 0) (s oneRepair)) = r ∧
    sentAdm (run (.portFaultReport 0) (s oneRepair)) = r ∧
    sentAdm (run (.portFaultReport 0) (s { oneRepair with adm := some next2 })) = (e, some { next2 with heldOver := true }) := by
  refine ⟨?_, by decide +kernel⟩
  unfold TablesOk
  decide +kernel

/-! ## Ports -/

/-- HOLD_ENQUIRY: the footprint that just fits, one unit more, a port that is not READY. -/
theorem test_HoldsAndPlacements_enquiry :
    (run (.holdEnquiry 0 1 57344) (sPort portR)).wire = [.holdAnswer 0 1 (.fits 15 14)] ∧
    (run (.holdEnquiry 0 1 57345) (sPort portR)).wire = [.holdAnswer 0 1 .noRoom] ∧
    (run (.holdEnquiry 0 1 0) (sPort portR)).wire = [.holdAnswer 0 1 (.fits 1 0)] ∧
    (run (.holdEnquiry 0 1 0) (sPort portA)).wire = [.holdAnswer 0 1 .notReady] := by decide +kernel

theorem test_HoldsAndPlacements :
    let h : Hold := ⟨1, 2, true, none⟩
    let s := sPort { portR with holds := [h] }
    (run (.holdConfirmation 0 1) s).wire = [.confirmationAnswer 0 1 (.placed ⟨24, 2, 1⟩)] ∧
    ((run (.holdConfirmation 0 1) s).port 0).area.map Area.fill = some 5 ∧
    (run (.holdConfirmation 0 1) (sPort { portA with holds := [{ h with void := some .portLost }] })).wire =
      [.confirmationAnswer 0 1 (.notReady (some .portLost))] ∧
    (run (.holdConfirmation 0 2) s).wire = [.confirmationAnswer 0 2 (.notReady none)] ∧
    (run (.holdWithdrawal 0 1) s).wire = [.roomFreedReport 0 1] ∧
    (run (.holdWithdrawal 0 1) (sPort { portR with holds := [{ h with marked := false }] })).wire = [] ∧
    ((run (.placementClose 0 1) (sPort portO)).port 0).openPl = [] ∧
    ((run (.runAbandonment 0 1) (sPort portO)).port 0).area.map (fun a => (a.abandoned, a.fill)) = some (2, 3) ∧
    ((run (.runAbandonment 0 2) (sPort portO)).port 0) = portO := by decide +kernel

theorem test_WriteQueueTakesEntries :
    takesCopy portO 1 = true ∧ takesCopy portR 1 = false ∧
    takesCopy { portO with openPl := [⟨1, 0, 2, true⟩] } 1 = false ∧
    (run (.extentAppend 0 5 claim0 3) (sPort portR)).wire = [.extentRelease 0 [(5, claim0)]] ∧
    ((run (.extentAppend 0 5 claim0 3) (sPort portO)).port 0).write = some ⟨1, 0, List.replicate 512 0#8⟩ ∧
    ((run (.trailerAppend 0 1 trailer0) (sPort portO)).port 0).write.map DriveWrite.block = some 8 ∧
    (run (.trailerAppend 0 1 trailer0) (sPort portR)).wire = [] ∧
    ((run (.extentRemoval 0 5 claim0) (sPort { portO with writeQ := [.extent 5 claim0 3 0] })).port 0).writeQ = [] ∧
    ((run (.trailerRemoval 0 1) (sPort { portO with writeQ := [.trailer 1 trailer0] })).port 0).writeQ = [] := by
  decide +kernel

/-- A removal while a write is in progress: of the entry being written, and of another. -/
theorem test_WriteQueueTakesEntries_removal :
    let e := WriteEntry.extent 5 claim0 3 0
    let w : DriveWrite := ⟨2, 0, []⟩
    let s (es : List WriteEntry) := sPort { portO with writeQ := es, write := some w }
    let x := run (.extentRemoval 0 5 claim0)
    let t := run (.trailerRemoval 0 1)
    ((x (s [e])).port 0).write = none ∧ (x (s [e])).wire = [] ∧
    ((x (s [e, .trailer 1 trailer0])).port 0).write.map DriveWrite.block = some 8 ∧ (x (s [e, .trailer 1 trailer0])).wire = [] ∧
    ((x (s [.trailer 1 trailer0, e])).port 0) = { portO with writeQ := [.trailer 1 trailer0], write := some w } ∧
    ((t (s [.trailer 1 trailer0])).port 0).write = none ∧ ((t (s [e, .trailer 1 trailer0])).port 0).write = some w := by
  decide +kernel

/-- The write side alone takes the chunk; and the trailer record, byte by byte. -/
theorem test_WriteQueueTakesEntries_trailer :
    let m := trailerRecord 3 258 { trailer0 with damage := [7], runStart := 24 }
    let n : Nat → List Byte := List.replicate (α := Byte) (a := 0#8)
    TrailerFits 258 { trailer0 with damage := [7], runStart := 24 } ∧ m.length = 512 ∧
    m.take 173 = [0x45#8, 0x5A#8, 0x4F#8, 0x43#8, 0x38#8, 0x34#8, 0x54#8, 0x52#8, 1#8, 0#8, 1#8, 3#8, 2#8, 1#8, 1#8, 1#8, 0#8, 2#8] ++
      n 6 ++ [9#8] ++ n 7 ++ List.replicate 16 7#8 ++ [8#8] ++ n 3 ++ [7#8] ++ n 63 ++ [24#8] ++ n 7 ++ [1#8, 65#8] ++ n 47 ∧
    (m.drop 173).take 331 = n 331 ∧ fieldAt m 504 8 = (digestOf (m.take 504)).toNat ∧
    ((run (.extentAppend 0 5 claim0 3) (sPort { portO with share := ⟨.write, 4⟩ })).port 0).share = ⟨.write, 5⟩ ∧
    ((run (.trailerAppend 0 1 trailer0) (sPort { portO with share := ⟨.verify, 4⟩ })).port 0).share = ⟨.write, 1⟩ := by
  refine ⟨by unfold TrailerFits; decide, trailerRecord_length _ _ _, by decide +kernel, by decide +kernel, ?_, by decide +kernel,
    by decide +kernel⟩
  rw [trailerRecord_digest, trailerRecord_take]

theorem test_VerifyQueueTakesEntries :
    (run (.verifyAppend 0 verify0) (sPort portR)).wire = [] ∧
    (run (.verifyAppend 0 verify0) (sPort portO)).wire = [.verifyStart 0 1] ∧
    ((run (.verifyAppend 0 verify0) (sPort portO)).port 0).read = some ⟨.data, 0, 1, false⟩ ∧
    (run (.siblingAppend 0 sibling0) (sPort portO)).wire = [.extentClaim (.engine 0) ⟨1, .repair, some 2, 0⟩] ∧
    ((run (.siblingAppend 0 sibling0) (sPort { portO with state := .lost })).port 0).verifyQ = [] ∧
    ((run (.verifyRemoval 0 1) (sPort { portO with verifyQ := [sibling0, verify0] })).port 0).verifyQ = [sibling0] ∧
    ((run (.siblingCancel 0 1 2) (sPort { portO with verifyQ := [sibling0, verify0] })).port 0).verifyQ = [verify0] := by
  decide +kernel

/-- A removal while a read is in progress: of the entry being read, and of another; what a cancelled sibling read has of the pool. -/
theorem test_VerifyQueueTakesEntries_removal :
    let r : DriveRead := ⟨.data, 0, 1, false⟩
    let v := { portO with verifyQ := [verify0], engine := engine0, read := some r }
    let n := { portO with verifyQ := [verify0, { verify0 with clip := 2 }], engine := { engine0 with chunk := 1 }, read := some r }
    let w := { portS with engine := { engine0 with state := .waiting } }
    let c := run (.siblingCancel 0 1 2)
    ((run (.verifyRemoval 0 1) (sPort v)).port 0) = portO ∧ (run (.verifyRemoval 0 1) (sPort v)).wire = [] ∧
    ((run (.verifyRemoval 0 1) (sPort n)).port 0).engine.chunk = 0 ∧ (run (.verifyRemoval 0 1) (sPort n)).wire = [.verifyStart 0 2] ∧
    ((run (.verifyRemoval 0 2) (sPort n)).port 0) = { n with verifyQ := [verify0] } ∧
    (run (.siblingCancel 0 1 2) (sPort v)).port 0 = v ∧
    (c (sEngine portS none)).pool.extents = [] ∧ (c (sEngine portS (some (.engine 0)))).pool.extents = [] ∧
    (c { sEngine portS none with wire := [.repairDiscard 1 2] }).pool = (sEngine portS none).pool ∧
    enginePlaces 0 w = [⟨.engine 0, none, claimR, none⟩] ∧
    (c { sPort w with pool := { Pool.reset with waits := [⟨.engine 0, claimR⟩] } }).pool.waits = [] := by decide +kernel

/-- The engine starts the head entry, also of a clip of length 0; the ratio of a plan at the end of a chunk; and a claim that is out
when its entry is cancelled. -/
theorem test_VerifyQueueTakesEntries_link :
    let v := (run (.verifyAppend 0 verify0) (sPort { portO with share := ⟨.verify, 2⟩ })).port 0
    let z := run (.verifyAppend 0 { verify0 with length := 0, dataUnits := 0 }) (sPort portO)
    let b (plan : Fin 4) (n : Nat) : State := { sPort { portO with
        writeQ := [.extent 5 claim0 3 0, .extent 5 claim0 3 0], write := some ⟨1, 0, []⟩, verifyQ := [verify0], share := ⟨.write, n⟩ } with
      arb := { Arbiter.reset with plan := plan } }
    let c (plan : Fin 4) (n : Nat) := (run (.writeCompletion ⟨0, false⟩) (b plan n)).port 0
    let e := { portO with verifyQ := [sibling0], engine := { engine0 with claim := some claimR } }
    v.engine = { engine0 with unit := v.engine.unit } ∧ v.share = ⟨.verify, 3⟩ ∧ z.wire = [.verifyStart 0 1, .verifyDigestReport 0 1 (some 0#64)] ∧
    (z.port 0).read = some ⟨.trailer, 0, 1, false⟩ ∧ (c 0 0).share = ⟨.write, 1⟩ ∧ (c 0 1).share = ⟨.verify, 1⟩ ∧
    (c 0 1).engine.state = .reading ∧ (c 1 2).share = ⟨.write, 3⟩ ∧ (c 1 2).write.isSome = true ∧ (c 1 3).share = ⟨.verify, 1⟩ ∧
    ((run (.siblingCancel 0 1 2) (sPort e)).port 0).unawaited = [claimR] ∧
    ((run (.verifyRemoval 0 1) (sPort e)).port 0).unawaited = [] := by decide +kernel

/-- The link after an append: the share of an engine on its way through an entry, and its next chunk at its place. -/
theorem test_VerifyQueueTakesEntries_share :
    let x : Port := { portO with verifyQ := [{ verify0 with length := 4194305 }], engine := { engine0 with chunk := 1 } }
    let go (x : Port) := (run (.trailerAppend 0 1 trailer0) (sPort x)).port 0
    (go { x with share := ⟨.write, 1⟩ }).share = ⟨.verify, 1⟩ ∧
    (go { x with share := ⟨.write, 1⟩ }).read = some ⟨.data, 8192, 1, false⟩ ∧
    (go { x with share := ⟨.verify, 1⟩ }).share = ⟨.write, 1⟩ ∧ (go { x with share := ⟨.verify, 1⟩ }).write.isSome = true ∧
    (go { x with engine := { engine0 with ack := true }, share := ⟨.write, 1⟩ }).share = ⟨.write, 2⟩ := by decide +kernel

theorem test_SiblingReadsGoOn :
    let c : ClaimId := ⟨1, .repair, some 2, 0⟩
    let w := { portO with verifyQ := [sibling0], engine := { engine0 with state := .waiting } }
    let a := { portO with verifyQ := [sibling0], engine := { engine0 with extent := some 7, ack := true } }
    headClaims w c = true ∧ ((run (.siblingOffer 0 7 c) (sPort w)).port 0).engine.extent = some 7 ∧
    ((run (.siblingOffer 0 7 c) (sPort w)).port 0).read = some ⟨.sibling, 0, 1, false⟩ ∧
    (run (.siblingOffer 0 7 c) (sPort portO)).wire = [] ∧
    ((run (.waitRemoved (.engine 0) c) (sPort w)).port 0).verifyQ = [] ∧
    (run (.waitRemoved (.engine 0) c) (sPort a)).port 0 = a ∧
    (run (.siblingCompletionAck 0 1 2) (sPort a)).wire = [.extentComplete 7 c 512] ∧
    (run (.siblingCompletionAck 0 1 2) (sPort { a with engine := { a.engine with noValue := true } })).wire = [] ∧
    (run (.siblingCompletionAck 0 1 2) (sPort w)).wire = [] := by decide +kernel

/-- The acknowledgment of a read that gave no value: its extent is given back. -/
theorem test_SiblingReadsGoOn_noValue :
    let a (v : Bool) := { portS with engine := { portS.engine with ack := true, noValue := v } }
    let g := run (.siblingCompletionAck 0 1 2)
    (g (sEngine (a true) none)).pool.extents = [] ∧ (g (sEngine (a true) none)).wire = [] ∧
    (g (sEngine (a false) none)).pool = (sEngine portS none).pool ∧
    g (sEngine { a true with verifyQ := [{ sibling0 with clip := 2 }] } none) =
      sEngine { a true with verifyQ := [{ sibling0 with clip := 2 }] } none := by decide +kernel

/-- An offer for another entry: the extent is given back where no discard is due, and kept where the discard is on its way. -/
theorem test_SiblingReadsGoOn_givenBack :
    let c : ClaimId := ⟨1, .repair, some 2, 0⟩
    let s (ms : List Instr) : State := { sPort portO with
      pool := { Pool.reset with extents := [(7, { filling0 with claim := c, aside := some (.engine 0) })] }, wire := ms }
    headClaims ((s []).port 0) c = false ∧ (run (.siblingOffer 0 7 c) (s [])).pool.extents = [] ∧
    (run (.siblingOffer 0 7 c) (s [.repairDiscard 1 2])).pool.extents = (s []).pool.extents := by decide +kernel

/-- An offer that overtakes the answer "wait": the engine reads on, and the answer, awaited no more, changes nothing. -/
theorem test_SiblingReadsGoOn_overtaken :
    let x := { portO with verifyQ := [sibling0], engine := { engine0 with claim := some claimR } }
    let t := run (.siblingOffer 0 7 claimR) (sPort x)
    (t.port 0).engine.extent = some 7 ∧ (t.port 0).unawaited = [claimR] ∧
    ((run (.claimAnswer (.engine 0) claimR none) t).port 0) = { t.port 0 with unawaited := [] } := by decide +kernel

/-- CLAIM_ANSWER taken by a verify engine: granted, "wait", and not awaited. -/
theorem test_AcksAndClaimAnswers_engine :
    let c : ClaimId := ⟨1, .repair, some 2, 0⟩
    let s := sPort { portO with verifyQ := [sibling0], engine := { engine0 with claim := some c } }
    ((run (.claimAnswer (.engine 0) c (some 7)) s).port 0).read = some ⟨.sibling, 0, 1, false⟩ ∧
    ((run (.claimAnswer (.engine 0) c none) s).port 0).engine.state = .waiting ∧
    ((run (.claimAnswer (.engine 0) c none) (sPort portO)).port 0) = portO := by decide +kernel

theorem test_DrivesAreIdentified :
    let lost := { portR with state := .lost, graceTimer := some 30 }
    ((run (.driveConnected 0) State.reset).port 0).ident = some 5 ∧
    ((run (.driveConnected 0) (sPort { Port.reset with unidentified := true })).port 0).ident = none ∧
    ((run (.driveIdentified ⟨0, false⟩ (some drive0)) (sFound Port.reset)).port 0).state = .attached ∧
    ((run (.driveIdentified ⟨0, false⟩ (some { drive0 with capacity := 281474976710655, blockSize := 4096 })) (sFound Port.reset)).port 0).state =
      .attached ∧
    ((run (.driveIdentified ⟨0, false⟩ (some { drive0 with capacity := 281474976710656 })) (sFound Port.reset)).port 0).unidentified = true ∧
    ((run (.driveIdentified ⟨0, false⟩ (some { drive0 with capacity := 0 })) (sFound Port.reset)).port 0).unidentified = true ∧
    ((run (.driveIdentified ⟨0, false⟩ (some drive0)) (sFound lost)).port 0).state = .ready ∧
    ((run (.driveIdentified ⟨0, false⟩ (some { drive0 with capacity := 1 })) (sFound lost)).port 0).otherDrive = true ∧
    (run (.driveIdentified ⟨0, false⟩ (some drive0)) State.reset).wire = [] ∧
    ((run (.identTimerExpiry ⟨0, false⟩) (sFound Port.reset)).port 0).unidentified = true ∧
    ((run (.identTimerExpiry ⟨0, false⟩) (sFound lost)).port 0).otherDrive = true ∧ (run (.identTimerExpiry ⟨0, false⟩) State.reset).wire = [] := by
  decide +kernel

/-- The notice of a drive's return; what was left on the timer is a free value. -/
theorem test_DrivesAreIdentified_notice : ∃ left, left ≤ 30 ∧ Instr.noticeQueued (.port 0 (.returned left) .ready) ∈
    (run (.driveIdentified ⟨0, false⟩ (some drive0)) (sFound { portR with state := .lost, graceTimer := some 30 })).wire :=
  ⟨timeLeft 0 30, Nat.min_le_left _ _, List.mem_cons_self⟩

/-- The drive that returns finds its queues and its tally, and an engine goes on with the entry at its head. -/
theorem test_DrivesAreIdentified_resumes :
    let lost := { portO with state := .lost, graceTimer := some 30, tally := 2, verifyQ := [verify0] }
    let t := (run (.driveIdentified ⟨0, false⟩ (some drive0)) (sFound lost)).port 0
    let w := (run (.driveIdentified ⟨0, false⟩ (some drive0)) (sFound { lost with writeQ := [.trailer 1 trailer0], verifyQ := [] })).port 0
    t.verifyQ = [verify0] ∧ t.tally = 2 ∧ t.engine.state = .reading ∧ t.read = some ⟨.data, 0, 1, false⟩ ∧
    w.write.map DriveWrite.block = some 8 := by decide +kernel

/-- The answer and the expiry of an identification that has ended, while a new one runs. -/
theorem test_DrivesAreIdentified_late :
    run (.driveIdentified ⟨0, true⟩ (some drive0)) (sFound Port.reset) = sFound Port.reset ∧
    run (.identTimerExpiry ⟨0, true⟩) (sFound Port.reset) = sFound Port.reset := by decide +kernel

theorem test_LostDrivesHaveGrace :
    let lost := { portO with state := .lost, graceTimer := some 30, writeQ := [.extent 5 claim0 3 0], holds := [⟨2, 1, false, none⟩] }
    ((run (.driveLoss 0 false) (sPort portO)).port 0).graceTimer = some 30 ∧
    .driveLossReport 0 ∈ (run (.driveLoss 0 true) (sPort portO)).wire ∧
    ((run (.driveLoss 0 false) (sPort portA)).port 0).state = .detached ∧
    ((run (.driveLoss 0 false) (sPort { portA with state := .faulted })).port 0).state = .detached ∧
    ((run (.driveLoss 0 false) (sPort lost)).port 0).state = .lost ∧
    ((run (.driveLoss 0 false) State.reset).port 0).state = .detached ∧
    ((run (.graceTimerExpiry 0) (sPort lost)).port 0).holds = [⟨2, 1, false, some .portLost⟩] ∧
    .extentRelease 0 [(5, claim0)] ∈ (run (.graceTimerExpiry 0) (sPort lost)).wire ∧
    (run (.graceTimerExpiry 0) (sPort portO)).wire = [] := by decide +kernel

/-- A loss in DETACHED abandons the identification; one begins anew where the drive still answers. -/
theorem test_LostDrivesHaveGrace_detached :
    let loss (c : Bool) := (run (.driveLoss 0 c) (sFound Port.reset)).port 0
    (loss false).ident = none ∧ (loss false).state = .detached ∧ (loss true).ident = some 5 ∧
    (run (.driveLoss 0 true) (sFound Port.reset)).wire = [] := by decide +kernel

/-- After a loss and after grace: the identification, the flags, the notice, the engine's extent. -/
theorem test_LostDrivesHaveGrace_flags :
    let loss (c : Bool) (x : Port) := (run (.driveLoss 0 c) (sPort x)).port 0
    let lost := { portO with state := .lost, graceTimer := some 30, otherDrive := true }
    let grace (x : Port) := run (.graceTimerExpiry 0) (sPort x)
    (loss true portO).ident = some 5 ∧ (loss false portO).ident = none ∧ (loss true portA).ident = some 5 ∧
    (loss true { portA with state := .faulted, unidentified := true }).ident = none ∧
    (loss true { portA with unidentified := true }).unidentified = true ∧
    (loss false { portA with unidentified := true }).unidentified = false ∧
    ((grace lost).port 0).ident = some 5 ∧ ((grace lost).port 0).otherDrive = false ∧
    ((grace { lost with drivePresent := false }).port 0).ident = none ∧
    .noticeQueued (.port 0 (.graceExpiry ⟨3, 0, 1⟩) .detached) ∈ (grace lost).wire ∧
    (run (.driveLoss 0 true) (sEngine portS none)).pool.extents = [] ∧
    (run (.driveLoss 0 true) { sEngine portS none with jm := (sClip (clip0 .landing [{ repairing (.port 0) with port := 2 }])).jm }).pool =
      (sEngine portS none).pool := by decide +kernel

/-- A LOST port's drive loss clears the mark of another drive; only an identification in progress is started again. -/
theorem test_LostDrivesHaveGrace_again :
    let s (i : Option Nat) := sPort { portO with state := .lost, graceTimer := some 30, otherDrive := i.isNone, ident := i }
    ((run (.driveLoss 0 true) (s none)).port 0).otherDrive = false ∧ ((run (.driveLoss 0 true) (s none)).port 0).ident = none ∧
    ((run (.driveLoss 0 true) (s (some 5))).port 0).ident = some 5 ∧
    ((run (.driveLoss 0 false) (s (some 5))).port 0).ident = none := by decide +kernel

/-- A drive lost, an area dropped and a port switched off while the verify engine has a claim out. -/
theorem test_LostDrivesHaveGrace_claim :
    let x := { portR with verifyQ := [sibling0], engine := { engine0 with claim := some claimR } }
    let u (c : Instr) := ((run c (sPort x)).port 0).unawaited
    u (.driveLoss 0 true) = [claimR] ∧ u (.areaDrop 1 0) = [claimR] ∧ u (.portpwr 1 0 1) = [claimR] := by decide +kernel

theorem test_WritesEndOrFail :
    let w (n : Nat) := { portO with writeQ := [.extent 5 claim0 3 0, .trailer 2 trailer0], write := some ⟨n, 0, []⟩ }
    (run (.writeCompletion ⟨0, false⟩) (sPort (w 1))).wire = [.extentRelease 0 [(5, claim0)], .extentWriteCompletion 0 1 .first 0] ∧
    (run (.writeCompletion ⟨0, false⟩) (sPort { w 1 with writeQ := [.trailer 1 trailer0] })).wire = [.trailerWriteCompletion 0 1] ∧
    (run (.writeCompletion ⟨0, false⟩) (sPort portO)).wire = [] ∧ (run (.writeFailure ⟨0, false⟩) (sPort portO)).wire = [] ∧
    ((run (.writeFailure ⟨0, false⟩) (sPort (w 1))).port 0).write = some ⟨2, 0, []⟩ ∧
    ((run (.writeFailure ⟨0, false⟩) (sPort { w 2 with tally := 1 })).port 0).writeQ = [.trailer 2 trailer0] ∧
    ((run (.writeFailure ⟨0, false⟩) (sPort { w 2 with tally := 1 })).port 0).state = .ready ∧
    ((run (.writeFailure ⟨0, false⟩) (sPort { w 2 with tally := 2 })).port 0).state = .faulted ∧
    run (.writeCompletion ⟨0, true⟩) (sPort (w 1)) = sPort (w 1) ∧
    run (.writeFailure ⟨0, true⟩) (sPort { w 2 with tally := 2 }) = sPort { w 2 with tally := 2 } := by decide +kernel

/-- A port's fault: the notice with what the area held, the release of every extent in the queue, the engine's extent. -/
theorem test_WritesEndOrFail_fault :
    let x := { portS with tally := 2, write := some ⟨2, 0, []⟩, writeQ := [.extent 5 claim0 3 0, .extent 6 { claim0 with clip := 2 } 3 0] }
    let t := run (.writeFailure ⟨0, false⟩) (sEngine x none)
    (t.port 0).state = .faulted ∧ t.pool.extents = [] ∧
    t.wire = [.extentRelease 0 [(5, claim0)], .writeFailureReport 0 1, .portFaultReport 0,
      .extentRelease 0 [(6, { claim0 with clip := 2 })], .noticeQueued (.port 0 (.fault ⟨3, 0, 1⟩) .faulted)] := by decide +kernel

/-- The next entry is started although its clip has no open placement: an extent and a trailer. -/
theorem test_WritesEndOrFail_next :
    let next (e : WriteEntry) := ((run (.writeCompletion ⟨0, false⟩)
      (sPort { portR with writeQ := [.extent 5 claim0 3 0, e], write := some ⟨1, 0, []⟩ })).port 0).write
    (next (.trailer 2 { trailer0 with runStart := 40 })).map DriveWrite.block = some 48 ∧
    next (.extent 6 { claim0 with clip := 2, seq := 1 } 3 16) = some ⟨1, 8208, List.replicate 512 0#8⟩ := by decide +kernel

/-- A second failure that does not fault the port: the release, then the report; then the next write, or the verify engine's chunk. -/
theorem test_WritesEndOrFail_second :
    let x := { portO with write := some ⟨2, 0, []⟩, writeQ := [.extent 5 claim0 3 0, .trailer 1 trailer0] }
    let sent := [Instr.extentRelease 0 [(5, claim0)], .writeFailureReport 0 1]
    let f (x : Port) := run (.writeFailure ⟨0, false⟩) (sPort x)
    let w := f { x with writeQ := x.writeQ ++ [.trailer 2 trailer0] }
    let v := f { x with verifyQ := [verify0] }
    w.wire = sent ∧ (w.port 0).write.map DriveWrite.tries = some 1 ∧ (w.port 0).writeQ = [.trailer 2 trailer0] ∧
    v.wire = sent ++ [.verifyStart 0 1] ∧ (v.port 0).read = some ⟨.data, 0, 1, false⟩ ∧
    (f x).port 0 = withoutCopy x 1 ∧ (f x).wire = sent := by decide +kernel

theorem test_VerifyReadsAreDigested :
    let d := { portO with verifyQ := [verify0], engine := engine0, read := some ⟨.data, 0, 1, false⟩ }
    let t := { d with read := some ⟨.trailer, 8, 1, true⟩, engine := { engine0 with chunk := 1 } }
    (run (.verifyChunkRead 0 (some block)) (sPort d)).wire.length = 1 ∧
    ((run (.verifyChunkRead 0 (some block)) (sPort d)).port 0).read = some ⟨.trailer, 8, 1, false⟩ ∧
    ((run (.verifyChunkRead 0 none) (sPort d)).port 0).read = some ⟨.data, 0, 1, true⟩ ∧
    (run (.verifyChunkRead 0 none) (sPort { d with read := some ⟨.data, 0, 1, true⟩ })).wire = [.verifyDigestReport 0 1 none] ∧
    (run (.trailerRead 0 (some block)) (sPort t)).wire = [.verifyCompletion 0 1 false] ∧
    (run (.trailerRead 0 none) (sPort t)).wire = [.verifyCompletion 0 1 false] ∧
    (run (.trailerRead 0 none) (sPort portO)).wire = [] := by decide +kernel

/-- SIBLING_CHUNK_READ: the last extent's worth, one that is not the last, an error, an error again. -/
theorem test_VerifyReadsAreDigested_sibling :
    let c : ClaimId := ⟨1, .repair, some 2, 0⟩
    let x (again : Bool) := { portO with
      verifyQ := [sibling0], engine := { engine0 with extent := some 0 }, read := some ⟨.sibling, 0, 1, again⟩ }
    let s (p : Port) : State := { sPort p with pool := { Pool.reset with extents := [(0, { filling0 with claim := c })] } }
    (run (.siblingChunkRead 0 (some block)) (s (x false))).wire.length = 1 ∧
    ((run (.siblingChunkRead 0 (some block)) (s (x false))).port 0).engine.ack = true ∧
    (run (.siblingChunkRead 0 (some block)) (s { x false with verifyQ := [{ sibling0 with length := 4194305 }] })).wire =
      [.extentComplete 0 c 512, .extentClaim (.engine 0) { c with seq := 1 }] ∧
    ((run (.siblingChunkRead 0 none) (s (x false))).port 0).read = some ⟨.sibling, 0, 1, true⟩ ∧
    (run (.siblingChunkRead 0 none) (s (x true))).wire = [.siblingReadCompletion 0 1 2 none] := by decide +kernel

/-- Where the engine goes on: to the next chunk of data, to the trailer after the last, to the next claim of a sibling read, and to the
write side in its turn. -/
theorem test_VerifyReadsAreDigested_next :
    let d (n : Nat) := { portO with
      verifyQ := [{ verify0 with length := n }], engine := engine0, read := some ⟨.data, 0, 1, false⟩ }
    let go (x : Port) := (run (.verifyChunkRead 0 (some block)) (sPort x)).port 0
    (go (d 4194816)).read = some ⟨.data, 8192, 1, false⟩ ∧ (go (d 4194816)).engine.chunk = 1 ∧
    (go (d 512)).read = some ⟨.trailer, 8, 1, false⟩ ∧
    (go { d 512 with writeQ := [.trailer 1 trailer0], share := ⟨.verify, 1⟩ }).share = ⟨.write, 1⟩ ∧
    ((run (.trailerRead 0 (some block)) (sPort { d 512 with
      verifyQ := [verify0, { verify0 with clip := 2 }], read := some ⟨.trailer, 8, 1, false⟩ })).wire) =
      [.verifyCompletion 0 1 false, .verifyStart 0 2] ∧
    extentCount 4194304 = 1 ∧ extentCount 4194305 = 2 ∧ extentCount 0 = 0 ∧ extentLength 4194305 1 = 1 := by decide +kernel

/-- The trailer's checks: a record as it was written, and the marker and each of the fields failing by itself. -/
theorem test_VerifyReadsAreDigested_trailer :
    let m := trailerRecord 0 1 trailer0
    let ok (m : List Byte) := trailerPasses verify0 m
    ok m = true ∧ ok (m.set 0 0#8) = false ∧ ok (trailerRecord 0 2 trailer0) = false ∧
    ok (trailerRecord 0 1 { trailer0 with length := 511 }) = false ∧ ok (trailerRecord 0 1 { trailer0 with digest := 8#64 }) = false ∧
    ok (trailerRecord 3 1 { trailer0 with job := 2, attempt := 2 }) = true :=
  ⟨trailerPasses_record 0 verify0 trailer0 (by decide) rfl (by decide) rfl, by decide +kernel, by decide +kernel,
    by decide +kernel, by decide +kernel, trailerPasses_record 3 verify0 _ (by decide) rfl (by decide) rfl⟩

/-! ## Invariants -/

theorem test_reset_memory_canonical : State.reset.pool.mem.wf := by decide

/-- Bytes placed, one overwritten, one put back to what an unwritten byte reads as. -/
theorem test_memory_writes :
    Memory.writeBytes [] 4194304 [1#8, 0#8, 3#8] = [(4194304, 1#8), (4194306, 3#8)] ∧
    Memory.write [(5, 1#8), (7, 3#8)] 6 2#8 = [(5, 1#8), (6, 2#8), (7, 3#8)] ∧
    Memory.write [(5, 1#8), (7, 3#8)] 5 0#8 = [(7, 3#8)] ∧ Memory.readBytes [(5, 1#8), (7, 3#8)] 5 3 = [1#8, 0#8, 3#8] := by
  decide

/-- StepsKeepBays: a state with a job bound and a lane held for the bay. -/
theorem test_StepsKeepBays : BaysOk (sLane lane0 bayJ) := by
  refine ⟨fun b => ?_, ?_⟩
  · unfold BayOk
    revert b
    decide +kernel
  · unfold ArbiterOk
    decide +kernel

/-- StepsKeepPool: a state in which a clip holds an extent. -/
theorem test_StepsKeepPool : PoolOk (sPool [(0, filling0)] [waiting0]) := by
  refine ⟨⟨by decide, by decide⟩, fun clip => ?_, by decide⟩
  exact Nat.le_trans (List.length_filter_le _ _) (by decide)

/-- StepsKeepPorts: an area whose holds fill it to C − R, and a write in progress. -/
theorem test_StepsKeepPorts : ∀ p, PortOk ((sPort { portO with
    holds := [⟨2, 15, false, none⟩], writeQ := [.extent 5 claim0 3 0], write := some ⟨1, 0, []⟩ }).port p) := by
  have room : ∀ x : Port, (∀ a ∈ x.area, a.fill + heldUnits x.holds ≤ a.length / a.unit - a.reserve) → RoomOk x :=
    fun x h a ha => h a ha
  intro p
  unfold PortOk
  refine ⟨?_, ?_, ?_, ?_, ?_, ?_, ?_, room _ ?_, ?_, ?_, ?_⟩ <;> revert p <;> decide +kernel

/-- StepsKeepLink: 128 notices and four reads. -/
theorem test_StepsKeepLink : LinkOk { sUp with lki := { linkUp0 with
    notices := List.replicate 128 notice0, nextRead := 4
    reads := [read0, { read0 with id := 1 }, { read0 with id := 2 }, { read0 with id := 3 }] } } := by
  unfold LinkOk
  decide +kernel

/-- StepsKeepTables: a job and a clip of the highest id. -/
theorem test_StepsKeepTables : TablesOk
    (sJob { job0 .opened with id := 8, clips := [65535] } { clip0 .queued [pending0] with id := 65535, job := 8 } view0) := by
  unfold TablesOk
  decide +kernel

end Sys2Proof.Tests
end

section

namespace Sys2Proof.Machine

/-! ## Bays and lanes left as they are -/

/-- The bays' records and the arbiter with its lanes stand. -/
def BaysStand (s t : State) : Prop := t.bays = s.bays ∧ t.arb = s.arb

theorem BaysStand.refl (s : State) : BaysStand s s := ⟨rfl, rfl⟩

theorem BaysStand.trans {s t u : State} (h : BaysStand s t) (k : BaysStand t u) : BaysStand s u :=
  ⟨k.1.trans h.1, k.2.trans h.2⟩

theorem BaysStand.of_link {s t : State} (h : LinkOnly s t) : BaysStand s t := ⟨h.1, h.2.1⟩

theorem BaysStand.arrive (s : State) (m : Instr) : BaysStand s (s.arrive m) := ⟨rfl, rfl⟩

theorem BaysStand.jobs {s t u : State} (h : BaysStand s t) (k : JobOnly t u) : BaysStand s u := h.trans ⟨k.1, k.2.1⟩

theorem JobOnly.stand {s t u : State} (k : JobOnly t u) (h : BaysStand s t) : BaysStand s u := h.jobs k

theorem BaysStand.answer {s t : State} (h : BaysStand s t) (k n : Nat) (c : ReplyCode) (b : ReplyBody) :
    BaysStand s (t.answer k n c b) :=
  h.trans (of_link (t.answer_spec k n c b))

theorem BaysStand.refuse {s t : State} (h : BaysStand s t) (k n : Nat) (c : ReplyCode) :
    BaysStand s (t.refuse k n c) :=
  h.trans (of_link (t.refuse_spec k n c))

theorem BaysStand.settle {s t : State} (h : BaysStand s t) : BaysStand s t.linkSettle :=
  h.trans (of_link t.linkSettle_spec)

theorem BaysStand.giveBackAll {s t : State} (h : BaysStand s t) (gs : List Given) : BaysStand s (t.giveBackAll gs) :=
  h.trans (by simp [BaysStand])

theorem BaysStand.giveBack {s t : State} (h : BaysStand s t) (a : Option SetAside) (r : Requester) (c : ClaimId)
    (i : Option Nat) : BaysStand s (t.giveBack a r c i) :=
  h.trans (by simp [BaysStand])

theorem BaysStand.runLink {s t : State} (h : BaysStand s t) (p : Fin 4) : BaysStand s (t.runLink p) :=
  h.trans (by simp [BaysStand])

theorem BaysStand.offerRound {s t : State} (h : BaysStand s t) : BaysStand s t.offerRound :=
  h.trans (by simp [BaysStand])

/-- A command leaves the bays and the arbiter as they are. -/
def LeavesBays (c : Instr) : Prop := ∀ s, ∃ t, exec c s = .next t ∧ BaysStand s t

/-! ### The link interface -/

theorem linkUp_leavesBays : LeavesBays .linkUp := fun _ => ⟨_, rfl, .settle ⟨rfl, rfl⟩⟩

theorem receiveFrame_leavesBays (x : List Byte) : LeavesBays (.receiveFrame x) := by
  refine fun s => ⟨_, rfl, ?_⟩
  split
  · exact .settle ⟨rfl, rfl⟩
  · exact .refl s

theorem sendFrame_leavesBays : LeavesBays .sendFrame := by
  refine fun s => ⟨_, rfl, ?_⟩
  split
  · exact .settle ⟨rfl, rfl⟩
  · exact .refl s

theorem noticeQueued_leavesBays (n : Notice) : LeavesBays (.noticeQueued n) :=
  fun _ => ⟨_, rfl, .settle ⟨rfl, rfl⟩⟩

theorem ident_leavesBays (tag : Nat) : LeavesBays (.ident tag) := fun _ => ⟨_, rfl, .answer ⟨rfl, rfl⟩ _ _ _ _⟩

/-! ### Settings and queries -/

theorem poolFreeQuestion_leavesBays (p : Fin 4) : LeavesBays (.poolFreeQuestion p) := by
  refine fun s => ⟨_, rfl, ?_⟩
  dsimp only
  split <;> exact .refl s

theorem storeGrace_stand (g : Nat) (ports : List (Fin 4)) (s : State) :
    BaysStand s (ports.foldl (fun u p => u.storeGrace g p) s) := by
  induction ports generalizing s with
  | nil => exact .refl s
  | cons p ps ih => exact ih (s.storeGrace g p)

theorem grace_leavesBays (tag sel g : Nat) : LeavesBays (.grace tag sel g) := by
  refine fun s => ⟨_, rfl, ?_⟩
  split
  · exact .refuse (.arrive s _) _ _ _
  · exact .answer (.trans (.arrive s _) (storeGrace_stand _ _ _)) _ _ _ _

theorem setPortPower_stand (s : State) (p : Fin 4) (v : Power) : BaysStand s (s.setPortPower p v) := by
  unfold State.setPortPower
  split
  · exact .refl s
  · cases v <;> simp [BaysStand]

theorem portpwr_leavesBays (tag port power : Nat) : LeavesBays (.portpwr tag port power) := by
  refine fun s => ⟨_, rfl, ?_⟩
  split
  · split
    · exact .refuse (.arrive s _) _ _ _
    · exact .giveBackAll (.answer (.trans (.arrive s _) (setPortPower_stand _ _ _)) _ _ _ _) _
  · exact .refuse (.arrive s _) _ _ _

theorem areaSet_leavesBays (tag port start length unit reserve fill : Nat) (label : List Byte) :
    LeavesBays (.areaSet tag port start length unit reserve fill label) := by
  refine fun s => ⟨_, rfl, ?_⟩
  dsimp only
  split
  · exact .refuse (.arrive s _) _ _ _
  · split
    · split
      · exact .refuse (.arrive s _) _ _ _
      · exact .answer ⟨rfl, rfl⟩ _ _ _ _
    · exact .refuse (.arrive s _) _ _ _

theorem areaDrop_leavesBays (tag port : Nat) : LeavesBays (.areaDrop tag port) := by
  refine fun s => ⟨_, rfl, ?_⟩
  split
  · exact .refuse (.arrive s _) _ _ _
  · split
    · exact .giveBackAll (.answer ⟨rfl, rfl⟩ _ _ _ _) _
    · exact .refuse (.arrive s _) _ _ _

theorem bayQuery_leavesBays (tag v : Nat) : LeavesBays (.bayQuery tag v) := by
  refine fun s => ⟨_, rfl, ?_⟩
  split
  · exact .refuse (.arrive s _) _ _ _
  · exact .answer ⟨rfl, rfl⟩ _ _ _ _

theorem portQuery_leavesBays (tag v : Nat) : LeavesBays (.portQuery tag v) := by
  refine fun s => ⟨_, rfl, ?_⟩
  split
  · exact .refuse (.arrive s _) _ _ _
  · exact .answer ⟨rfl, rfl⟩ _ _ _ _

theorem jobQuery_leavesBays (tag v : Nat) : LeavesBays (.jobQuery tag v) := by
  refine fun s => ⟨_, rfl, ?_⟩
  split
  · split
    · exact .refuse (.arrive s _) _ _ _
    · exact .answer (.arrive s _) _ _ _ _
  · exact .refuse (.arrive s _) _ _ _

theorem clipQuery_leavesBays (tag v : Nat) : LeavesBays (.clipQuery tag v) := by
  refine fun s => ⟨_, rfl, ?_⟩
  split
  · split
    · exact .refuse (.arrive s _) _ _ _
    · exact .answer (.arrive s _) _ _ _ _
  · exact .refuse (.arrive s _) _ _ _

theorem poolQuery_leavesBays (tag : Nat) : LeavesBays (.poolQuery tag) :=
  fun s => ⟨_, rfl, .answer (.arrive s _) _ _ _ _⟩

/-! ### Jobs and clips -/

theorem openJob_stand (s : State) (j : Job) : BaysStand s (s.openJob j) := by
  unfold State.openJob
  exact JobOnly.stand (.evalClear _ _) ⟨rfl, rfl⟩

theorem jobOpen_leavesBays (tag job bay verify damage count : Nat) (slots : List CopySlot) :
    LeavesBays (.jobOpen tag job bay verify damage count slots) := by
  refine fun s => ⟨_, rfl, ?_⟩
  split
  · split
    · exact .refuse (.arrive s _) _ _ _
    · split
      · exact .refuse (.arrive s _) _ _ _
      · exact .answer (.trans (.arrive s _) (openJob_stand _ _)) _ _ _ _
  · exact .refuse (.arrive s _) _ _ _

theorem clipAdd_leavesBays (tag job : Nat) (label : List Byte) (length : Nat) (runs : List Run) (flag : Nat)
    (expect : Digest) : LeavesBays (.clipAdd tag job label length runs flag expect) := by
  refine fun s => ⟨_, rfl, ?_⟩
  split
  · exact .refuse (.arrive s _) _ _ _
  · split
    · exact .refuse (.arrive s _) _ _ _
    split
    · exact .refuse (.arrive s _) _ _ _
    split
    · exact .refuse (.arrive s _) _ _ _
    · exact .answer (.jobs ⟨rfl, rfl⟩ (.admissionPoint _ _)) _ _ _ _

theorem JobOnly.sealJob (s : State) (j : Job) : JobOnly s (s.sealJob j) := by
  unfold State.sealJob
  split <;> exact .setJobState _ _ _ _

theorem jobSeal_leavesBays (tag job : Nat) : LeavesBays (.jobSeal tag job) := by
  refine fun s => ⟨_, rfl, ?_⟩
  split
  · exact .refuse (.arrive s _) _ _ _
  · split
    · exact .refuse (.arrive s _) _ _ _
    · exact .refuse (.arrive s _) _ _ _
    · exact .answer (.arrive s _) _ _ _ _
    · exact .answer (.arrive s _) _ _ _ _
    · exact .answer (.jobs (.arrive s _) (.sealJob _ _)) _ _ _ _

theorem JobOnly.drainJob (s : State) (j : Job) : JobOnly s (s.drainJob j) := by
  have drained : JobOnly s (if (s.cancelAll j).allTerminal j then (s.cancelAll j).setJobState j.id .stopped (some .drain)
      else (s.cancelAll j).setJobState j.id .stopping (some .drain)) := by
    split <;> exact (cancelAll s j).trans (setJobState _ _ _ _)
  unfold State.drainJob
  split
  · exact drained
  · exact drained
  · exact refl s

theorem JobOnly.stopJob (s : State) (j : Job) (m : StopMode) : JobOnly s (s.stopJob j m) := by
  cases m with
  | drain => exact drainJob s j
  | cut => exact cutJob s j

theorem jobStop_leavesBays (tag job mode : Nat) : LeavesBays (.jobStop tag job mode) := by
  refine fun s => ⟨_, rfl, ?_⟩
  split
  · exact .refuse (.arrive s _) _ _ _
  · split
    · exact .refuse (.arrive s _) _ _ _
    · split
      · exact .refuse (.arrive s _) _ _ _
      · exact .answer (.jobs (.arrive s _) (.stopJob _ _ _)) _ _ _ _

theorem JobOnly.cancelClip (s : State) (c : Clip) : JobOnly s (s.cancelClip c) := by
  unfold State.cancelClip
  split
  · exact (cancelWaiting s c).trans (testJob _ _)
  · refine JobOnly.trans ?_ (afterRepairs _ _)
    split
    · exact ((cutClip s c).trans (testJob _ _)).trans (jobPoint _ _)
    · exact (cutClip s c).trans (testJob _ _)

theorem clipCancel_leavesBays (tag clip : Nat) : LeavesBays (.clipCancel tag clip) := by
  refine fun s => ⟨_, rfl, ?_⟩
  split
  · split
    · exact .refuse (.arrive s _) _ _ _
    · split
      · exact .refuse (.arrive s _) _ _ _
      · exact .answer (.jobs (.arrive s _) (.cancelClip _ _)) _ _ _ _
  · exact .refuse (.arrive s _) _ _ _

theorem JobOnly.forceRelease (s : State) (j : Job) : JobOnly s (s.forceRelease j) := by
  unfold State.forceRelease
  dsimp only
  refine JobOnly.trans ?_ (send _ _)
  refine JobOnly.trans ?_ (modJob _ _ _ fun _ h => h)
  split
  · exact refl s
  · exact cutJob s j

theorem cardRelease_leavesBays (tag bay force : Nat) : LeavesBays (.cardRelease tag bay force) := by
  refine fun s => ⟨_, rfl, ?_⟩
  split
  · split
    · exact .refuse (.arrive s _) _ _ _
    · split_ifs
      · exact .answer (.jobs (.arrive s _) (.forceRelease _ _)) _ _ _ _
      · exact .answer ⟨rfl, rfl⟩ _ _ _ _
      · exact .refuse (.arrive s _) _ _ _
  · exact .refuse (.arrive s _) _ _ _

theorem retireJob_stand (s : State) (j : Job) : BaysStand s (s.retireJob j) := by
  unfold State.retireJob
  exact JobOnly.stand (.evalClear _ _) ⟨rfl, rfl⟩

theorem jobRetire_leavesBays (tag job : Nat) : LeavesBays (.jobRetire tag job) := by
  refine fun s => ⟨_, rfl, ?_⟩
  split
  · exact .refuse (.arrive s _) _ _ _
  · split
    · exact .answer (.trans (.arrive s _) (retireJob_stand _ _)) _ _ _ _
    · exact .refuse (.arrive s _) _ _ _

/-! ### The staging pool -/

theorem answerClaim_stand (s : State) (r : Requester) (c : ClaimId) : BaysStand s (s.answerClaim r c) := by
  unfold State.answerClaim
  split
  · exact ⟨rfl, rfl⟩
  · split <;> exact ⟨rfl, rfl⟩

theorem extentClaim_leavesBays (r : Requester) (c : ClaimId) : LeavesBays (.extentClaim r c) :=
  fun s => ⟨_, rfl, .trans (.arrive s _) (answerClaim_stand _ _ _)⟩

theorem extentComplete_leavesBays (i : Nat) (c : ClaimId) (n : Nat) : LeavesBays (.extentComplete i c n) := by
  refine fun s => ⟨_, rfl, ?_⟩
  split <;> exact ⟨rfl, rfl⟩

theorem setPending_stand (s : State) (i : Nat) (e : Extent) (ports : List (Fin 4)) :
    BaysStand s (s.setPending i e ports) := by
  unfold State.setPending
  split
  · exact .offerRound ⟨rfl, rfl⟩
  · exact ⟨rfl, rfl⟩

theorem pendingSetAnswer_leavesBays (i : Nat) (c : ClaimId) (ports : List (Fin 4)) :
    LeavesBays (.pendingSetAnswer i c ports) := by
  refine fun s => ⟨_, rfl, ?_⟩
  split
  · split
    · exact .trans (.arrive s _) (setPending_stand _ _ _ _)
    · exact .arrive s _
  · exact .arrive s _

theorem extentRelease_leavesBays (p : Fin 4) (xs : List (Nat × ClaimId)) : LeavesBays (.extentRelease p xs) :=
  fun _ => ⟨_, rfl, .offerRound ⟨rfl, rfl⟩⟩

theorem discard_stand (s : State) (hit : ClaimId → Bool) : BaysStand s (s.discard hit) := by simp [BaysStand]

theorem clipDiscard_leavesBays (clip : Nat) : LeavesBays (.clipDiscard clip) :=
  fun s => ⟨_, rfl, .trans (.arrive s _) (discard_stand _ _)⟩

theorem repairDiscard_leavesBays (clip : Nat) (p : Fin 4) : LeavesBays (.repairDiscard clip p) :=
  fun s => ⟨_, rfl, .trans (.arrive s _) (discard_stand _ _)⟩

/-! ### Reports to the job manager -/

/-- A report that is dropped where it is late, or applied by the job manager. -/
theorem BaysStand.unlessLate {s t : State} (h : BaysStand s t) (m : Instr) (f : State → State)
    (k : JobOnly t (f t)) : BaysStand s (t.unlessLate m f) :=
  h.jobs (.unlessLate t m f k)

theorem pendingSetQuestion_leavesBays (i : Nat) (c : ClaimId) : LeavesBays (.pendingSetQuestion i c) :=
  fun _ => ⟨_, rfl, rfl, rfl⟩

theorem mountReport_leavesBays (b : Fin 8) (g : CardSig) : LeavesBays (.mountReport b g) := by
  refine fun s => ⟨_, rfl, ?_⟩
  have taken : BaysStand s (((s.arrive (.mountReport b g)).setView b { (s.arrive (.mountReport b g)).view b with
      sig := some g }).evalClear b) := JobOnly.stand (.evalClear _ _) ⟨rfl, rfl⟩
  split
  · split
    · exact .jobs taken (.admissionPoint _ _)
    · exact taken
  · exact taken

theorem JobOnly.loseReading (s : State) (b : Fin 8) : JobOnly s (s.loseReading b) := by
  unfold State.loseReading
  split
  · exact refl s
  · exact (send _ _).trans (reRead _ _ _)

theorem JobOnly.loseRepair (b : Fin 8) (s : State) (r : CardRepair) : JobOnly s (State.loseRepair b s r) := by
  unfold State.loseRepair
  split
  · split
    · exact reSource _ _ _
    · exact dropGiven _ _ _ _
  · exact dropGiven _ _ _ _

theorem cardLostReport_leavesBays (b : Fin 8) : LeavesBays (.cardLostReport b) := by
  refine fun s => ⟨_, rfl, .jobs (.trans (.arrive s (.cardLostReport b)) ?_) (.afterRepairs _ _)⟩
  generalize s.arrive (.cardLostReport b) = t
  dsimp only
  have lost : BaysStand t ((t.setView b { t.view b with sig := none }).loseReading b) :=
    .jobs (.refl t) ((JobOnly.setView _ _ _).trans (.loseReading _ _))
  generalize (t.setView b { t.view b with sig := none }).loseReading b = u at lost
  have cleared : BaysStand t (((u.view b).repairs.foldl (State.loseRepair b) u).evalClear b) :=
    lost.jobs ((JobOnly.foldl _ (JobOnly.loseRepair b) _ _).trans (.evalClear _ _))
  split
  · exact cleared.jobs (.admissionPoint _ _)
  · exact cleared

theorem JobOnly.storeClip (s : State) (i : Nat) (d : DigestState) : JobOnly s (s.storeClip i d) := by
  unfold State.storeClip
  split
  · exact modClip _ _ _ fun _ h => h
  · exact refl s

theorem JobOnly.storeRepair (s : State) (i : Nat) (p : Fin 4) (d : DigestState) : JobOnly s (s.storeRepair i p d) := by
  unfold State.storeRepair
  split
  · split
    · exact modCopy _ _ _ _
    · exact refl s
  · exact refl s

theorem burstEndReport_leavesBays (item : WorkItem) (d : DigestState) : LeavesBays (.burstEndReport item d) := by
  refine fun s => ⟨_, rfl, .unlessLate (.arrive s _) _ _ ?_⟩
  cases item with
  | clip c => exact .storeClip _ _ _
  | repair c p => exact .storeRepair _ _ _ _

theorem blockSubstitution_leavesBays (clip block : Nat) : LeavesBays (.blockSubstitution clip block) := by
  refine fun s => ⟨_, rfl, .unlessLate (.arrive s _) _ _ ?_⟩
  split
  · exact .modClip _ _ _ fun _ h => h
  · exact .refl _

theorem readCompletion_leavesBays (n : Fin 4) (clip : Nat) (d : DigestState) : LeavesBays (.readCompletion n clip d) := by
  refine fun s => ⟨_, rfl, .unlessLate ⟨rfl, rfl⟩ _ _ ?_⟩
  split
  · exact (JobOnly.completeRead _ _ _).trans (.jobPoint _ _)
  · exact .refl _

theorem mediaFailure_leavesBays (clip : Nat) : LeavesBays (.mediaFailure clip) := by
  refine fun s => ⟨_, rfl, .unlessLate (.arrive s _) _ _ ?_⟩
  split
  · exact (JobOnly.failClip _ _ _ _).trans (.jobPoint _ _)
  · exact .refl _

theorem JobOnly.cardFails (s : State) (c : Clip) (k : Copy) : JobOnly s (s.cardFails c k) :=
  ((send _ _).trans (modCopy _ _ _ _)).trans (chooseSource _ _ _)

theorem JobOnly.repairGone (s : State) (c : Clip) (p : Fin 4) : JobOnly s (s.repairGone c p) := by
  unfold State.repairGone
  split
  · exact dropGiven _ _ _ _
  · exact refl s

theorem repairReadCompletion_leavesBays (n : Fin 4) (clip : Nat) (p : Fin 4) (d : Digest) :
    LeavesBays (.repairReadCompletion n clip p d) := by
  refine fun s => ⟨_, rfl, .unlessLate ⟨rfl, rfl⟩ _ _ ?_⟩
  split
  · split
    · refine JobOnly.trans ?_ (.afterRepairs _ _)
      split
      · exact (JobOnly.repairGone _ _ _).trans (.modCopy _ _ _ _)
      · exact (JobOnly.repairGone _ _ _).trans (.cardFails _ _ _)
    · exact .refl _
  · exact .refl _

theorem repairSourceFailure_leavesBays (clip : Nat) (p : Fin 4) : LeavesBays (.repairSourceFailure clip p) := by
  refine fun s => ⟨_, rfl, .unlessLate (.arrive s _) _ _ ?_⟩
  split
  · split
    · exact ((JobOnly.repairGone _ _ _).trans (.cardFails _ _ _)).trans (.afterRepairs _ _)
    · exact .refl _
  · exact .refl _

theorem JobOnly.reopen (s : State) (i : Nat) (q : Fin 4) : JobOnly s (s.reopen i q) := by
  unfold State.reopen
  split
  · split
    · exact mismatchCopy _ _ _
    · exact refl s
  · exact refl s

theorem JobOnly.siblingFails (s : State) (c : Clip) (k : Copy) (q : Fin 4) : JobOnly s (s.siblingFails c k q) :=
  (((((send _ _).trans (modCopy _ _ _ _)).trans (reopen _ _ _)).trans (reSourceClip _ _ _)).trans
    (chooseSource _ _ _)).trans (decideClip _ _)

theorem siblingReadCompletion_leavesBays (p : Fin 4) (clip : Nat) (rp : Fin 4) (d : Option Digest) :
    LeavesBays (.siblingReadCompletion p clip rp d) := by
  refine fun s => ⟨_, rfl, ?_⟩
  split
  · split
    · split
      · exact JobOnly.stand (.modCopy _ _ _ _) ⟨rfl, rfl⟩
      · exact JobOnly.stand (.siblingFails _ _ _ _) ⟨rfl, rfl⟩
    · exact ⟨rfl, rfl⟩
  · exact ⟨rfl, rfl⟩

/-! ### Admission -/

theorem JobOnly.takeAnswer (s : State) (b : Fin 8) (a : Admission) (p : Fin 4) (x : HoldAnswer) :
    JobOnly s (s.takeAnswer b a p x) := by
  unfold State.takeAnswer
  dsimp only
  have taken (t : State) (h : JobOnly s t) (a' : Admission) :
      JobOnly s (if a'.awaiting = [] then (t.answersIn b a').admRun b else t) := by
    split
    · exact (h.trans (answersIn _ _ _)).trans (admRun _ _)
    · exact h
  refine taken _ ?_ { a with
    awaiting := a.awaiting.filter (fun q => decide (q ≠ p)), answers := a.answers ++ [⟨p, x⟩] }
  split
  · exact (setAdm s b _).trans (send _ _)
  · exact setAdm s b _

theorem holdAnswer_leavesBays (p : Fin 4) (clip : Nat) (x : HoldAnswer) : LeavesBays (.holdAnswer p clip x) := by
  refine fun s => ⟨_, rfl, ?_⟩
  split
  · split
    · exact .jobs (.arrive s _) (.takeAnswer _ _ _ _ _)
    · exact .arrive s _
  · exact .arrive s _

theorem JobOnly.takeConfirm (s : State) (b : Fin 8) (a : Admission) (p : Fin 4) (x : ConfirmAnswer) :
    JobOnly s (s.takeConfirm b a p x) := by
  unfold State.takeConfirm
  dsimp only
  have taken (u : State) (h : JobOnly s u) (d : Prop) [Decidable d] : JobOnly s (if d then
      (if a.cancelled then (u.holdOver b).endAdm b else u.startRead b a.clip).admRun b else u) := by
    split
    · refine JobOnly.trans ?_ (admRun _ _)
      split
      · exact (h.trans (holdOver _ _)).trans (endAdm _ _)
      · exact h.trans (startRead _ _ _)
    · exact h
  apply taken
  split
  · exact setAdm s b _
  · exact (setAdm s b _).trans (modCopy _ _ _ _)

theorem confirmationAnswer_leavesBays (p : Fin 4) (clip : Nat) (x : ConfirmAnswer) :
    LeavesBays (.confirmationAnswer p clip x) := by
  refine fun s => ⟨_, rfl, ?_⟩
  split
  · exact .arrive s _
  · split
    · split
      · exact .jobs (.arrive s _) (.takeConfirm _ _ _ _ _)
      · exact .arrive s _
    · exact .arrive s _

/-! ### Reports of the ports -/

theorem extentWriteCompletion_leavesBays (p : Fin 4) (clip : Nat) (purpose : Purpose) (seq : Nat) :
    LeavesBays (.extentWriteCompletion p clip purpose seq) := by
  refine fun s => ⟨_, rfl, ?_⟩
  split
  · split
    · exact .jobs (.arrive s _) (.appendTrailer _ _ _)
    · exact .arrive s _
  · exact .arrive s _

theorem JobOnly.trailerWritten (s : State) (c : Clip) (k : Copy) : JobOnly s (s.trailerWritten c k) := by
  unfold State.trailerWritten
  dsimp only
  have ended : JobOnly s (if k.repair.any Repair.reading then s.endRepairRead c k else s) := by
    split
    · exact endRepairRead _ _ _
    · exact refl s
  have written := ended.trans (modCopy _ c.id k.port (fun x => { x with state := .written, repair := none }))
  split
  · exact written.trans (send _ _)
  · exact written
  · exact written.trans (decideClip _ _)

theorem trailerWriteCompletion_leavesBays (p : Fin 4) (clip : Nat) : LeavesBays (.trailerWriteCompletion p clip) := by
  refine fun s => ⟨_, rfl, ?_⟩
  split
  · split
    · exact .jobs (.arrive s _) ((JobOnly.trailerWritten _ _ _).trans (.afterRepairs _ _))
    · exact .arrive s _
  · exact .arrive s _

theorem writeFailureReport_leavesBays (p : Fin 4) (clip : Nat) : LeavesBays (.writeFailureReport p clip) := by
  refine fun s => ⟨_, rfl, ?_⟩
  split
  · split
    · exact .jobs (.arrive s _) ((((JobOnly.endRepairRead _ _ _).trans (.failCopy _ _ _ _)).trans
        (.decideClip _ _)).trans (.afterRepairs _ _))
    · exact .arrive s _
  · exact .arrive s _

theorem verifyStart_leavesBays (p : Fin 4) (clip : Nat) : LeavesBays (.verifyStart p clip) := by
  refine fun s => ⟨_, rfl, ?_⟩
  split
  · split <;> exact ⟨rfl, rfl⟩
  · exact .arrive s _

theorem verifyDigestReport_leavesBays (p : Fin 4) (clip : Nat) (d : Option Digest) :
    LeavesBays (.verifyDigestReport p clip d) := by
  refine fun s => ⟨_, rfl, ?_⟩
  split
  · split <;> exact ⟨rfl, rfl⟩
  · exact .arrive s _

theorem verifyCompletion_leavesBays (p : Fin 4) (clip : Nat) (passed : Bool) :
    LeavesBays (.verifyCompletion p clip passed) := by
  refine fun s => ⟨_, rfl, ?_⟩
  split
  · split
    · split
      · exact .jobs (.arrive s _) ((JobOnly.modCopy _ _ _ _).trans (.decideClip _ _))
      · exact .jobs (.arrive s _) (.mismatchCopy _ _ _)
    · exact .arrive s _
  · exact .arrive s _

theorem areaInstalledReport_leavesBays (p : Fin 4) : LeavesBays (.areaInstalledReport p) :=
  fun s => ⟨_, rfl, .jobs (.arrive s _) (.portPoints _ _ _)⟩

theorem driveLossReport_leavesBays (p : Fin 4) : LeavesBays (.driveLossReport p) :=
  fun s => ⟨_, rfl, .jobs (.arrive s _) (.reSourceAll _ _)⟩

theorem driveReturnReport_leavesBays (p : Fin 4) : LeavesBays (.driveReturnReport p) :=
  fun s => ⟨_, rfl, .jobs (.arrive s _) (.portPoints _ _ _)⟩

theorem graceExpiryReport_leavesBays (p : Fin 4) : LeavesBays (.graceExpiryReport p) :=
  fun s => ⟨_, rfl, .jobs (.arrive s _) ((JobOnly.portFailsAll _ _ _).trans (.afterRepairs _ _))⟩

theorem portFaultReport_leavesBays (p : Fin 4) : LeavesBays (.portFaultReport p) :=
  fun s => ⟨_, rfl, .jobs (.arrive s _)
    (((JobOnly.portFailsAll _ _ _).trans (.reSourceAll _ _)).trans (.afterRepairs _ _))⟩

theorem roomFreedReport_leavesBays (p : Fin 4) (clip : Nat) : LeavesBays (.roomFreedReport p clip) := by
  refine fun s => ⟨_, rfl, ?_⟩
  split
  · exact .jobs (.arrive s _) (.portPoints _ _ _)
  · exact .arrive s _

/-! ### Ports: holds, placements, queues -/

theorem holdEnquiry_leavesBays (p : Fin 4) (clip length : Nat) : LeavesBays (.holdEnquiry p clip length) :=
  fun _ => ⟨_, rfl, rfl, rfl⟩

theorem holdConfirmation_leavesBays (p : Fin 4) (clip : Nat) : LeavesBays (.holdConfirmation p clip) :=
  fun _ => ⟨_, rfl, rfl, rfl⟩

theorem holdWithdrawal_leavesBays (p : Fin 4) (clip : Nat) : LeavesBays (.holdWithdrawal p clip) := by
  refine fun s => ⟨_, rfl, ?_⟩
  dsimp only
  split <;> exact ⟨rfl, rfl⟩

theorem placementClose_leavesBays (p : Fin 4) (clip : Nat) : LeavesBays (.placementClose p clip) :=
  fun _ => ⟨_, rfl, rfl, rfl⟩

theorem runAbandonment_leavesBays (p : Fin 4) (clip : Nat) : LeavesBays (.runAbandonment p clip) :=
  fun _ => ⟨_, rfl, rfl, rfl⟩

theorem extentAppend_leavesBays (p : Fin 4) (i : Nat) (c : ClaimId) (n : Nat) :
    LeavesBays (.extentAppend p i c n) := by
  refine fun s => ⟨_, rfl, ?_⟩
  split
  · exact .runLink ⟨rfl, rfl⟩ p
  · exact ⟨rfl, rfl⟩

theorem trailerAppend_leavesBays (p : Fin 4) (clip : Nat) (f : TrailerFields) :
    LeavesBays (.trailerAppend p clip f) := by
  refine fun s => ⟨_, rfl, ?_⟩
  split
  · exact .runLink ⟨rfl, rfl⟩ p
  · exact .arrive s _

theorem extentRemoval_leavesBays (p : Fin 4) (i : Nat) (c : ClaimId) : LeavesBays (.extentRemoval p i c) :=
  fun _ => ⟨_, rfl, .runLink ⟨rfl, rfl⟩ p⟩

theorem trailerRemoval_leavesBays (p : Fin 4) (clip : Nat) : LeavesBays (.trailerRemoval p clip) :=
  fun _ => ⟨_, rfl, .runLink ⟨rfl, rfl⟩ p⟩

theorem verifyAppend_leavesBays (p : Fin 4) (e : VerifyEntry) : LeavesBays (.verifyAppend p e) := by
  refine fun s => ⟨_, rfl, ?_⟩
  split
  · exact .runLink ⟨rfl, rfl⟩ p
  · exact .arrive s _

theorem siblingAppend_leavesBays (p : Fin 4) (e : VerifyEntry) : LeavesBays (.siblingAppend p e) := by
  refine fun s => ⟨_, rfl, ?_⟩
  split
  · exact .runLink ⟨rfl, rfl⟩ p
  · exact .arrive s _

theorem removeVerify_stand (s : State) (p : Fin 4) (hit : VerifyEntry → Bool) : BaysStand s (s.removeVerify p hit) := by
  simp [BaysStand]

theorem verifyRemoval_leavesBays (p : Fin 4) (clip : Nat) : LeavesBays (.verifyRemoval p clip) :=
  fun s => ⟨_, rfl, .trans (.arrive s _) (removeVerify_stand _ _ _)⟩

theorem siblingCancel_leavesBays (p : Fin 4) (clip : Nat) (rp : Fin 4) : LeavesBays (.siblingCancel p clip rp) :=
  fun s => ⟨_, rfl, .giveBackAll (.trans (.arrive s _) (removeVerify_stand _ _ _)) _⟩

theorem siblingOffer_leavesBays (p : Fin 4) (i : Nat) (c : ClaimId) : LeavesBays (.siblingOffer p i c) := by
  refine fun s => ⟨_, rfl, ?_⟩
  dsimp only
  split
  · exact .runLink ⟨rfl, rfl⟩ p
  · exact .giveBack (.arrive s _) _ _ _ _

theorem siblingCompletionAck_leavesBays (p : Fin 4) (clip : Nat) (rp : Fin 4) :
    LeavesBays (.siblingCompletionAck p clip rp) := by
  refine fun s => ⟨_, rfl, ?_⟩
  split
  · split
    · exact .giveBackAll (.runLink ⟨rfl, rfl⟩ p) _
    · exact .arrive s _
  · exact .arrive s _

/-! ### Ports: drives -/

theorem driveConnected_leavesBays (p : Fin 4) : LeavesBays (.driveConnected p) :=
  fun _ => ⟨_, rfl, by simp [BaysStand]⟩

theorem identFails_stand (s : State) (p : Fin 4) : BaysStand s (s.identFails p) := by simp [BaysStand]

theorem takeIdentity_stand (s : State) (p : Fin 4) (d : DriveId) : BaysStand s (s.takeIdentity p d) := by
  unfold State.takeIdentity
  split
  · exact ⟨rfl, rfl⟩
  · split
    · simp [BaysStand]
    · exact identFails_stand s p
  · exact identFails_stand s p

theorem driveIdentified_leavesBays (x : IdentEnd) (answer : Option DriveId) : LeavesBays (.driveIdentified x answer) := by
  refine fun s => ⟨_, rfl, ?_⟩
  split
  · split
    · exact takeIdentity_stand s _ _
    · exact identFails_stand s _
  · exact .refl s

theorem identTimerExpiry_leavesBays (x : IdentEnd) : LeavesBays (.identTimerExpiry x) := by
  refine fun s => ⟨_, rfl, ?_⟩
  split
  · exact identFails_stand s _
  · exact .refl s

theorem driveLost_stand (s : State) (p : Fin 4) : BaysStand s (s.driveLost p) := by simp [BaysStand]

theorem driveLoss_leavesBays (p : Fin 4) (connected : Bool) : LeavesBays (.driveLoss p connected) :=
  fun s => ⟨_, rfl, .giveBackAll (.trans (t := s.setPort p _) ⟨rfl, rfl⟩ (driveLost_stand _ p)) _⟩

theorem graceTimerExpiry_leavesBays (p : Fin 4) : LeavesBays (.graceTimerExpiry p) := by
  refine fun s => ⟨_, rfl, ?_⟩
  split
  · simp [BaysStand]
  · exact .refl s

theorem writeDone_stand (s : State) (p : Fin 4) (e : WriteEntry) : BaysStand s (s.writeDone p e) := by
  cases e <;> exact ⟨rfl, rfl⟩

theorem writeCompletion_leavesBays (x : WriteAnswer) : LeavesBays (.writeCompletion x) := by
  refine fun s => ⟨_, rfl, ?_⟩
  split
  · exact .refl s
  · split
    · exact .runLink (writeDone_stand s _ _) _
    · exact .refl s

theorem copyLost_stand (s : State) (p : Fin 4) (clip : Nat) : BaysStand s (s.copyLost p clip) := by simp [BaysStand]

theorem writeFailure_leavesBays (x : WriteAnswer) : LeavesBays (.writeFailure x) := by
  refine fun s => ⟨_, rfl, ?_⟩
  dsimp only
  split
  · exact .refl s
  · split
    · split
      · exact ⟨rfl, rfl⟩
      · exact .giveBackAll (copyLost_stand s _ _) _
    · exact .refl s

theorem chunkRead_stand (s : State) (p : Fin 4) (e : VerifyEntry) (d : List Byte) : BaysStand s (s.chunkRead p e d) := by
  unfold State.chunkRead
  dsimp only
  split <;> exact .runLink ⟨rfl, rfl⟩ p

theorem verifyChunkRead_leavesBays (p : Fin 4) (x : Option (List Byte)) : LeavesBays (.verifyChunkRead p x) := by
  refine fun s => ⟨_, rfl, ?_⟩
  split
  · split
    · split
      · exact chunkRead_stand s _ _ _
      · split
        · exact .runLink ⟨rfl, rfl⟩ p
        · exact ⟨rfl, rfl⟩
    · exact .refl s
  · exact .refl s

theorem verifyDone_stand (s : State) (p : Fin 4) (e : VerifyEntry) (passed : Bool) :
    BaysStand s (s.verifyDone p e passed) := .runLink ⟨rfl, rfl⟩ p

theorem trailerRead_leavesBays (p : Fin 4) (x : Option (List Byte)) : LeavesBays (.trailerRead p x) := by
  refine fun s => ⟨_, rfl, ?_⟩
  split
  · split
    · split
      · exact verifyDone_stand s _ _ _
      · split
        · exact verifyDone_stand s _ _ _
        · exact ⟨rfl, rfl⟩
    · exact .refl s
  · exact .refl s

theorem siblingRead_stand (s : State) (p : Fin 4) (e : VerifyEntry) (rp : Fin 4) (i : Nat) (d : List Byte) :
    BaysStand s (s.siblingRead p e rp i d) := by
  unfold State.siblingRead
  dsimp only
  split <;> exact .runLink ⟨rfl, rfl⟩ p

theorem siblingChunkRead_leavesBays (p : Fin 4) (x : Option (List Byte)) : LeavesBays (.siblingChunkRead p x) := by
  refine fun s => ⟨_, rfl, ?_⟩
  split
  · split
    · split
      · split
        · exact siblingRead_stand s _ _ _ _ _
        · split
          · exact .runLink ⟨rfl, rfl⟩ p
          · exact ⟨rfl, rfl⟩
      · exact .refl s
    · exact .refl s
  · exact .refl s

theorem engineAnswer_stand (s : State) (p : Fin 4) (c : ClaimId) (i : Option Nat) : BaysStand s (s.engineAnswer p c i) := by
  unfold State.engineAnswer
  split
  · exact .giveBack ⟨rfl, rfl⟩ _ _ _ _
  · split
    · split
      · dsimp only
        split
        · simp [BaysStand]
        · exact ⟨rfl, rfl⟩
      · exact .runLink ⟨rfl, rfl⟩ p
    · exact .giveBack (.refl s) _ _ _ _

theorem engineWaitGone_stand (s : State) (p : Fin 4) (c : ClaimId) : BaysStand s (s.engineWaitGone p c) := by
  unfold State.engineWaitGone
  split
  · exact .runLink ⟨rfl, rfl⟩ p
  · exact .refl s

/-! ## What keeps the bays' records and the lanes in agreement -/

/-- The agreement of the bays' records and of the lanes with the plan goes from one state to the other. -/
def KeepsBays (s t : State) : Prop := BaysOk s → BaysOk t

theorem KeepsBays.refl (s : State) : KeepsBays s s := id

theorem KeepsBays.trans {s t u : State} (h : KeepsBays s t) (k : KeepsBays t u) : KeepsBays s u := k ∘ h

/-- The agreement is between the bays and the arbiter, and no other block. -/
theorem KeepsBays.of_stand {s t : State} (h : BaysStand s t) : KeepsBays s t := by
  rintro ⟨bays, lanes⟩
  have lane (n : Fin 4) : t.lane n = s.lane n := State.lane_of_arb h.2 n
  refine ⟨fun b => ?_, ?_⟩
  · rw [State.bay_of_bays h.1]
    exact bays b
  · simpa only [ArbiterOk, lane, h.2] using lanes

theorem KeepsBays.then_stand {s t u : State} (h : KeepsBays s t) (k : BaysStand t u) : KeepsBays s u :=
  h.trans (of_stand k)

theorem KeepsBays.arrive (s : State) (m : Instr) : KeepsBays s (s.arrive m) := of_stand (.arrive s m)

theorem KeepsBays.send {s t : State} (h : KeepsBays s t) (m : Instr) : KeepsBays s (t.send m) := h.then_stand ⟨rfl, rfl⟩

theorem KeepsBays.giveBackAll {s t : State} (h : KeepsBays s t) (gs : List Given) : KeepsBays s (t.giveBackAll gs) :=
  h.then_stand (.giveBackAll (.refl t) gs)

/-! ### Bays -/

/-- One bay's record changes, and the arbiter stands. -/
theorem BaysOk.of_bay {s t : State} (h : BaysOk s) (b : Fin 8) (arb : t.arb = s.arb)
    (others : ∀ a, a ≠ b → t.bay a = s.bay a) (own : BayOk (t.bay b)) : BaysOk t := by
  have lane (n : Fin 4) : t.lane n = s.lane n := State.lane_of_arb arb n
  refine ⟨fun a => ?_, ?_⟩
  · by_cases e : a = b
    · exact e ▸ own
    · rw [others a e]
      exact h.1 a
  · simpa only [ArbiterOk, lane, arb] using h.2

theorem KeepsBays.setBay (s : State) (b : Fin 8) (x : Bay) (h : BayOk (s.bay b) → BayOk x) :
    KeepsBays s (s.setBay b x) :=
  fun k => k.of_bay b rfl (fun a e => State.bay_setBay_ne s b a x e) (by simpa using h (k.1 b))

/-- A bay's record whose lamp has still to be set anew. -/
def BaySound (x : Bay) : Prop := BayOk { x with lamp := lampOf x }

theorem BayOk.sound {x : Bay} (h : BayOk x) : BaySound x := ⟨rfl, h.2⟩

/-- One bay has changed its record, and sets its lamp anew (R42). -/
theorem KeepsBays.lampSet {s t : State} (b : Fin 8) (arb : t.arb = s.arb) (others : ∀ a, a ≠ b → t.bay a = s.bay a)
    (own : BayOk (s.bay b) → BaySound (t.bay b)) : KeepsBays s (t.lampSet b) := by
  intro k
  refine k.of_bay b arb (fun a e => ?_) ?_
  · exact (State.bay_setBay_ne t b a _ e).trans (others a e)
  · rw [State.lampSet, State.bay_setBay]
    exact own (k.1 b)

/-- A bay's record without what it has to read, on which nothing of the agreement rests. -/
def bayShown (x : Bay) : Bay :=
  { x with reading := none, repairs := [], waiting := false, offered := none, fails := 0, uncorrectable := 0 }

theorem BayOk.of_shown {x y : Bay} (h : bayShown y = bayShown x) (k : BayOk x) : BayOk y := by
  have shown (z : Bay) : BayOk (bayShown z) ↔ BayOk z := Iff.rfl
  rwa [← shown y, h]

theorem KeepsBays.setReads (s : State) (b : Fin 8) (x : Bay) (h : bayShown x = bayShown (s.bay b)) :
    KeepsBays s (s.setBay b x) :=
  setBay s b x (BayOk.of_shown h)

/-! ### Lanes -/

theorem holderBay_eq_none {l : Lane} : holderBay l = none ↔ l.holder = none := by
  unfold holderBay
  split <;> simp_all

theorem holder_isSome {l : Lane} : l.holder.isSome = true ↔ holderBay l ≠ none := by
  rw [Ne, holderBay_eq_none, Option.isSome_iff_ne_none]

/-- Each lane serves the bay that it has served, or is returned. -/
theorem ArbiterOk.of_holders {s t : State} (h : ArbiterOk s) (plan : t.arb.plan = s.arb.plan)
    (asking : t.arb.asking = s.arb.asking)
    (lanes : ∀ n, holderBay (t.lane n) = holderBay (s.lane n) ∨ holderBay (t.lane n) = none) : ArbiterOk t := by
  obtain ⟨none, active, one⟩ := h
  have held (n : Fin 4) (b : Fin 8) (e : holderBay (t.lane n) = some b) : holderBay (s.lane n) = some b := by
    rcases lanes n with k | k
    · rw [← k, e]
    · rw [k] at e
      cases e
  refine ⟨fun a n => ?_, fun n e => ?_, fun n m b en em => one n m b (held n b en) (held m b em)⟩
  · have free := holderBay_eq_none.2 (none (asking ▸ a) n)
    exact holderBay_eq_none.1 ((lanes n).elim (fun k => k.trans free) id)
  · obtain ⟨b, e⟩ := Option.ne_none_iff_exists'.1 (holder_isSome.1 e)
    rw [plan]
    exact active n (holder_isSome.2 (by simp [held n b e]))

theorem KeepsBays.setLane (s : State) (n : Fin 4) (x : Lane)
    (h : holderBay x = holderBay (s.lane n) ∨ holderBay x = none) : KeepsBays s (s.setLane n x) := by
  rintro ⟨bays, lanes⟩
  refine ⟨bays, lanes.of_holders rfl rfl fun m => ?_⟩
  by_cases e : m = n
  · subst e
    simpa using h
  · exact .inl (by rw [State.lane_setLane_ne s n m x e])

theorem KeepsBays.freeLane (s : State) (n : Fin 4) : KeepsBays s (s.freeLane n) :=
  fun h => setLane s n Lane.reset (.inr rfl) h

/-- A FREE active lane is given to a bay that holds none (R48, R51, R52). -/
theorem ArbiterOk.grant {s t : State} (h : ArbiterOk s) {n : Fin 4} {b : Fin 8} (next : LaneNext s n)
    (unserved : ∀ m, holderBay (s.lane m) ≠ some b) (plan : t.arb.plan = s.arb.plan)
    (asking : t.arb.asking = s.arb.asking) (given : holderBay (t.lane n) = some b)
    (others : ∀ m, m ≠ n → t.lane m = s.lane m) : ArbiterOk t := by
  obtain ⟨none, active, one⟩ := h
  obtain ⟨idle, low, -, -⟩ := next
  refine ⟨fun a => ?_, fun m e => ?_, fun m k c em ek => ?_⟩
  · simp [asking, idle] at a
  · rw [plan]
    by_cases o : m = n
    · exact o ▸ low
    · exact active m (by rwa [others m o] at e)
  · by_cases om : m = n <;> by_cases ok : k = n
    · exact om.trans ok.symm
    · rw [om, given] at em
      rw [others k ok] at ek
      exact absurd (ek.trans em.symm) (unserved k)
    · rw [ok, given] at ek
      rw [others m om] at em
      exact absurd (em.trans ek.symm) (unserved m)
    · rw [others m om] at em
      rw [others k ok] at ek
      exact one m k c em ek

/-- A host card read that stands on the arbiter's list no more. -/
def State.unlisted (s : State) (i : Nat) : State :=
  { s with arb := { s.arb with requests := s.arb.requests.filter (fun k => k != i) } }

/-- A host card read to which a lane is granted ends at once, or it holds the lane from now on (R57, R58). -/
theorem HostGiven.ends_or_holds {s u : State} {n : Fin 4} {r : CardRead} (given : HostGiven s u n r) :
    (∃ c body, u = (s.unlisted r.id).endRead r.id c body) ∨
      (s.bay r.bay).state = .mounted ∧ ∃ h : HostRead, h.bay = r.bay ∧
        u = ((s.unlisted r.id).setBay r.bay { s.bay r.bay with fails := 0 }).setLane n
          { Lane.reset with holder := some (.host h) } := by
  obtain ⟨refused, mounted⟩ := given _ rfl
  by_cases m : (s.bay r.bay).state = .mounted
  · cases sig : (s.bay r.bay).sig with
    | none => exact .inl ⟨_, _, refused (.inr sig)⟩
    | some g =>
      obtain ⟨outside, inside⟩ := mounted g m sig
      rcases Nat.lt_or_ge r.start g.capacity with l | l
      · exact .inr ⟨m, _, rfl, inside l⟩
      · exact .inl ⟨_, _, outside l⟩
  · exact .inl ⟨_, _, refused (.inl m)⟩

theorem KeepsBays.hostGiven {s u : State} {n : Fin 4} {r : CardRead} (next : LaneNext s n) (host : HostNext s r)
    (given : HostGiven s u n r) : KeepsBays s u := by
  have unlisted : KeepsBays s (s.unlisted r.id) := id
  obtain ⟨-, -, -, -, -, unserved, -⟩ := host
  rcases given.ends_or_holds with ⟨c, body, rfl⟩ | ⟨-, h, bay, rfl⟩
  · exact unlisted.then_stand (.of_link (State.endRead_spec _ _ _ _))
  · intro ok
    obtain ⟨bays, lanes⟩ := setReads (s.unlisted r.id) r.bay { s.bay r.bay with fails := 0 } rfl ok
    refine ⟨bays, lanes.grant (n := n) (b := r.bay) next unserved rfl rfl ?_ fun k e => State.lane_setLane_ne _ _ _ _ e⟩
    rw [State.lane_setLane, ← bay]
    rfl

theorem KeepsBays.turnGiven {s : State} {n : Fin 4} {b : Fin 8} (item : WorkItem) (next : LaneNext s n)
    (bay : BayNext s b) : KeepsBays s (turnGiven s n b item) := by
  rintro ⟨bays, lanes⟩
  obtain ⟨-, -, -, eligible, -⟩ := bay
  have unserved := (s.laneOf_eq_none b).1 (by
    simp only [State.bayEligible, Bool.and_eq_true, Option.isNone_iff_eq_none] at eligible
    exact eligible.2)
  refine ⟨(KeepsBays.setReads s b { s.bay b with offered := none, fails := 0 } rfl ⟨bays, lanes⟩).1,
    lanes.grant next unserved rfl rfl ?_ fun m e => ?_⟩
  · simp [Machine.turnGiven, State.lane, State.setBay, holderBay]
  · have e' : n.val ≠ m.val := fun h => e (Fin.ext h.symm)
    simp [Machine.turnGiven, State.lane, State.setBay, e']

/-- A search for grants keeps the agreement (R52). -/
theorem KeepsBays.of_round {s t : State} (h : GrantRound s t) : KeepsBays s t := by
  induction h with
  | ends s => exact refl s
  | host s u t n r next host given _ ih => exact (hostGiven next host given).trans ih
  | bay s t n b item next _ bay _ _ ih => exact (KeepsBays.turnGiven item next bay).trans ih

theorem KeepsBays.grants {s t : State} (h : KeepsBays s t) : KeepsBays s t.grants := h.trans (of_round t.grants_round)

theorem KeepsBays.returnLane {s t : State} (h : KeepsBays s t) (n : Fin 4) : KeepsBays s (t.returnLane n) :=
  (h.trans (freeLane t n)).grants

/-! ### The health monitor -/

theorem KeepsBays.shortenTurn (s : State) (b : Fin 8) : KeepsBays s (s.shortenTurn b) := by
  unfold State.shortenTurn
  split
  · exact refl s
  · split
    · exact setLane s _ _ (.inl rfl)
    · exact refl s

theorem BayOk.changeMode {x : Bay} (h : BayOk x) (m : HealthMode) : BaySound { x with health := x.health.change m } := by
  obtain ⟨-, rest⟩ := h
  exact ⟨rfl, rest⟩

theorem KeepsBays.changeMode (s : State) (b : Fin 8) (m : HealthMode) : KeepsBays s (s.changeMode b m) := by
  have changed : KeepsBays s (((s.setBay b { s.bay b with health := (s.bay b).health.change m }).bayNotice b
      (.healthMode m)).lampSet b) :=
    lampSet b rfl (fun a e => State.bay_setBay_ne s b a _ e) fun k => by
      rw [State.bayNotice_bay, State.bay_setBay]
      exact k.changeMode m
  cases m with
  | careful => exact changed.trans (shortenTurn _ b)
  | normal => exact changed

theorem KeepsBays.retryEvent (s : State) (b : Fin 8) : KeepsBays s (s.retryEvent b) := by
  have counted : KeepsBays s (s.setBay b { s.bay b with
      health := { (s.bay b).health with count := (s.bay b).health.count + 1 } }) := setBay s b _ id
  unfold State.retryEvent
  dsimp only
  split
  · split
    · split
      · exact counted.trans (changeMode _ b .careful)
      · exact counted
    · exact counted
  · exact refl s

theorem KeepsBays.judgeFailure (s : State) (b : Fin 8) : KeepsBays s (s.judgeFailure b).1 := by
  have counted : KeepsBays s (s.setBay b { s.bay b with fails := (s.bay b).fails + 1 }) := setReads s b _ rfl
  unfold State.judgeFailure
  dsimp only
  split
  · split
    · exact counted.trans (retryEvent _ b)
    · split
      · exact (counted.trans (changeMode _ b .careful)).trans (retryEvent _ b)
      · exact counted.trans (changeMode _ b .careful)
  · split
    · exact counted.trans (retryEvent _ b)
    · exact counted

theorem KeepsBays.windowExpires (s : State) (b : Fin 8) : KeepsBays s (s.windowExpires b) := by
  unfold State.windowExpires
  dsimp only
  have again : KeepsBays s (s.setBay b { s.bay b with health := (s.bay b).health.change (s.bay b).health.mode }) :=
    setBay s b _ id
  split
  · exact again
  · split
    · exact changeMode s b .normal
    · exact again

/-! ### Filling extents and reading blocks -/

theorem KeepsBays.loseWork (s : State) (b : Fin 8) (item : WorkItem) : KeepsBays s (s.loseWork b item) :=
  setReads s b _ (by cases item <;> rfl)

theorem KeepsBays.claimNext (s : State) (n : Fin 4) (b : Fin 8) (item : WorkItem) (k : Nat) :
    KeepsBays s (s.claimNext n b item k) := (setLane s n _ (.inl (by rfl))).send _

theorem KeepsBays.readEnds (s : State) (n : Fin 4) (b : Fin 8) (item : WorkItem) (i : Nat) (c : ClaimId)
    (d : DigestState) : KeepsBays s (s.readEnds n b item i c d) :=
  ((setLane s n _ (.inl (by rfl))).trans (loseWork _ b item)).send _

theorem KeepsBays.extentEnds (s : State) (n : Fin 4) (b : Fin 8) (item : WorkItem) (i : Nat) (c : ClaimId)
    (d : DigestState) : KeepsBays s (s.extentEnds n b item i c d) := by
  have full : KeepsBays s ((s.setLane n { s.lane n with
      unit := some d, extent := none, filled := (s.lane n).filled + 1 }).send (.extentComplete i c Config.extentBytes)) :=
    (setLane s n _ (.inl (by rfl))).send _
  unfold State.extentEnds
  dsimp only
  split
  · exact (full.send _).returnLane n
  · exact full.trans (claimNext _ n b item d.count)

theorem KeepsBays.takeBlock (s : State) (n : Fin 4) (data : List Byte) : KeepsBays s (s.takeBlock n data) := by
  unfold State.takeBlock
  split
  · rename_i b item d i _ _ _
    split
    · exact refl s
    · dsimp only
      have placed (c : ClaimId) (o : Nat) (bytes : List Byte) :
          KeepsBays s ((s.place i c o bytes).setBay b { s.bay b with fails := 0 }) :=
        (of_stand ⟨rfl, rfl⟩).trans (setReads (s.place i c o bytes) b _ rfl)
      split
      · exact (placed _ _ _).trans (readEnds _ n b item i _ _)
      · split
        · exact (placed _ _ _).trans (extentEnds _ n b item i _ _)
        · exact (placed _ _ _).trans (setLane _ n _ (.inl rfl))
  · exact refl s

theorem KeepsBays.skipDamaged (k : Nat) (s : State) (n : Fin 4) : KeepsBays s (State.skipDamaged k s n) := by
  induction k generalizing s with
  | zero => exact refl s
  | succ k ih =>
    unfold State.skipDamaged
    split
    · exact (takeBlock s n zeroBlock).trans (ih _)
    · exact refl s

theorem KeepsBays.skipZeros {s t : State} (h : KeepsBays s t) (n : Fin 4) : KeepsBays s (t.skipZeros n) :=
  h.trans (skipDamaged _ t n)

theorem KeepsBays.hostEnds {s t : State} (h : KeepsBays s t) (n : Fin 4) (r : HostRead) (c : ReplyCode) (k : Nat) :
    KeepsBays s (t.hostEnds n r c k) :=
  (((h.trans (freeLane t n))).then_stand (.of_link (State.endRead_spec _ _ _ _))).grants

theorem KeepsBays.hostBlock (s : State) (n : Fin 4) (r : HostRead) (data : List Byte)
    (h : (s.lane n).holder = some (.host r)) : KeepsBays s (s.hostBlock n r data) := by
  have reset : KeepsBays s (s.setBay r.bay { s.bay r.bay with fails := 0 }) := setReads s _ _ rfl
  unfold State.hostBlock
  dsimp only
  split
  · exact reset.hostEnds _ _ _ _
  · exact reset.trans (setLane _ n _ (.inl (by simp [holderBay, h])))

theorem KeepsBays.hostFailed (s : State) (n : Fin 4) (r : HostRead) : KeepsBays s (s.hostFailed n r) := by
  have judged := judgeFailure s r.bay
  unfold State.hostFailed
  split
  · rename_i e
    rwa [e] at judged
  · rename_i e
    rw [e] at judged
    exact judged.hostEnds _ _ _ _

theorem KeepsBays.mediaEnds (s : State) (n : Fin 4) (b : Fin 8) (clip : Nat) : KeepsBays s (s.mediaEnds n b clip) :=
  (((loseWork s b _).send _).returnLane n).giveBackAll _

theorem KeepsBays.clipUncorrectable (s : State) (n : Fin 4) (b : Fin 8) (w : ReadWork) (clip k : Nat) :
    KeepsBays s (s.clipUncorrectable n b w clip k) := by
  have counted : KeepsBays s (s.setBay b { s.bay b with uncorrectable := (s.bay b).uncorrectable + 1 }) :=
    setReads s b _ rfl
  unfold State.clipUncorrectable
  split
  · exact mediaEnds s n b clip
  · dsimp only
    split
    · exact counted.trans (mediaEnds _ n b clip)
    · exact (counted.send _).trans (takeBlock _ n zeroBlock)

theorem KeepsBays.workUncorrectable (s : State) (n : Fin 4) (b : Fin 8) (w : ReadWork) (k : Nat) :
    KeepsBays s (s.workUncorrectable n b w k) := by
  unfold State.workUncorrectable
  split
  · exact clipUncorrectable s n b w _ k
  · exact (((loseWork s b _).send _).returnLane n).giveBackAll _

theorem KeepsBays.workAttempt (s : State) (n : Fin 4) (b : Fin 8) (w : ReadWork) (k : Nat) (answer : Option (List Byte)) :
    KeepsBays s (s.workAttempt n b w k answer) := by
  have judged := judgeFailure s b
  unfold State.workAttempt
  split
  · exact takeBlock s n _
  · unfold State.workFailed
    split
    · rename_i e
      rwa [e] at judged
    · rename_i e
      rw [e] at judged
      exact judged.trans (workUncorrectable _ n b w k)

/-! ### The slot -/

theorem BayOk.probing {x : Bay} (h : BayOk x) (e : x.state = .empty) :
    BaySound { x with state := .probing, probeTimer := some Config.probeSeconds } := by
  obtain ⟨-, power, card, monitor, -, rest⟩ := h
  refine ⟨rfl, ?_, ?_, ?_, ?_, rest⟩ <;> simp_all

theorem KeepsBays.startProbe (s : State) (b : Fin 8) (h : (s.bay b).state = .empty) : KeepsBays s (s.startProbe b) :=
  lampSet b rfl (fun a e => State.bay_setBay_ne s b a _ e) fun k => by
    rw [State.bayNotice_bay, State.bay_setBay]
    exact k.probing h

theorem BayOk.mounted {x : Bay} (h : BayOk x) (e : x.state = .probing) (g : CardSig) :
    BaySound { x with state := .mounted, sig := some g, probeTimer := none, health := x.health.start } := by
  obtain ⟨-, power, -, -, -, rest⟩ := h
  refine ⟨rfl, ?_, ?_, ?_, ?_, rest⟩
  · simp_all
  · simp
  · simp [Health.start]
  · simp

theorem KeepsBays.mountCard (s : State) (b : Fin 8) (g : CardSig) (h : (s.bay b).state = .probing) :
    KeepsBays s (s.mountCard b g) :=
  (lampSet (s := s) (t := ((s.setBay b _).send (.mountReport b g)).bayNotice b (.mount g)) b rfl
    (fun a e => State.bay_setBay_ne s b a _ e) fun k => by
      rw [State.bayNotice_bay, State.send_bay, State.bay_setBay]
      exact k.mounted h g).grants

/-- A bay that has power goes from PROBING or FAULTED to FAULTED or EMPTY. -/
theorem BayOk.unmounted {x : Bay} (h : BayOk x) (e : x.state = .probing ∨ x.state = .faulted) {st : BayState}
    (k : st = .faulted ∨ st = .empty) : BaySound { x with state := st, probeTimer := none } := by
  obtain ⟨-, power, card, monitor, -, rest⟩ := h
  refine ⟨rfl, ?_, ?_, ?_, ?_, rest⟩ <;> rcases e with e | e <;> rcases k with rfl | rfl <;> simp_all

theorem KeepsBays.probeFails (s : State) (b : Fin 8) (h : (s.bay b).state = .probing) : KeepsBays s (s.probeFails b) :=
  lampSet b rfl (fun a e => State.bay_setBay_ne s b a _ e) fun k => by
    rw [State.bayNotice_bay, State.bay_setBay]
    exact k.unmounted (.inl h) (.inl rfl)

theorem KeepsBays.cardGone (s : State) (b : Fin 8) (left : BayState)
    (h : (s.bay b).state = .probing ∨ (s.bay b).state = .faulted) : KeepsBays s (s.cardGone b left) :=
  lampSet b rfl (fun a e => State.bay_setBay_ne s b a _ e) fun k => by
    rw [State.bayNotice_bay, State.bay_setBay]
    exact k.unmounted h (.inr rfl)

theorem KeepsBays.loseLane (s : State) (b : Fin 8) : KeepsBays s (s.loseLane b) := by
  unfold State.loseLane
  split
  · exact refl s
  · rename_i n _
    split
    · exact (freeLane s n).then_stand (.of_link (State.endRead_spec _ _ _ _))
    · split
      · exact refl s
      · exact freeLane s n
    · exact refl s

theorem BayOk.cardless {x : Bay} (h : BayOk x) (e : x.state = .mounted) : BaySound (bayWithoutCard x .empty) := by
  obtain ⟨-, power, -, -, timer, rest⟩ := h
  refine ⟨rfl, ?_, ?_, ?_, ?_, rest⟩ <;> simp_all [bayWithoutCard, Health.stop]

theorem KeepsBays.cardLost (s : State) (b : Fin 8) (seated : Bool) (h : (s.bay b).state = .mounted) :
    KeepsBays s (s.cardLost b seated) := by
  have mounted : ((s.loseLane b).bay b).state = .mounted := by
    rw [State.bay_of_bays (State.loseLane_frame s b).1]
    exact h
  have lost : KeepsBays s (((s.loseCard b .empty).bayNotice b (.cardLost .mounted)).lampSet b) :=
    (loseLane s b).trans (lampSet b rfl (fun a e => State.bay_setBay_ne _ b a _ e) fun k => by
      rw [State.bayNotice_bay, State.loseCard, State.send_bay, State.bay_setBay]
      exact k.cardless mounted)
  have empty : ((((s.loseCard b .empty).bayNotice b (.cardLost .mounted)).lampSet b).bay b).state = .empty := by
    simp [State.lampSet, State.loseCard, bayWithoutCard]
  unfold State.cardLost
  dsimp only
  generalize ((s.loseCard b .empty).bayNotice b (.cardLost .mounted)).lampSet b = t at lost empty
  have sensed : KeepsBays s (t.setBay b { t.bay b with cardPresent := seated }) := lost.trans (setBay t b _ id)
  refine KeepsBays.grants ?_
  split
  · exact sensed.trans (startProbe _ b (by rw [State.bay_setBay]; exact empty))
  · exact sensed

theorem KeepsBays.losesCard (s : State) (b : Fin 8) (seated : Bool) (h : (s.bay b).state = .mounted) :
    KeepsBays s (s.losesCard b seated) := (cardLost s b seated h).giveBackAll _

theorem KeepsBays.departure (s : State) (b : Fin 8) : KeepsBays s (s.departure b) := by
  have gone : KeepsBays s (s.setBay b { s.bay b with cardPresent := false }) := setBay s b _ id
  unfold State.departure
  dsimp only
  split
  · rename_i h
    exact gone.trans (cardGone _ b _ (.inl (by rw [State.bay_setBay]; exact h)))
  · rename_i h
    exact gone.trans (cardGone _ b _ (.inr (by rw [State.bay_setBay]; exact h)))
  · rename_i h
    exact losesCard s b false h
  · exact gone
  · exact gone

/-! ### Power -/

/-- A bay without power, which has neither card nor probe. -/
theorem BaySound.off {x : Bay} (h : BaySound x) (card : x.sig = none) (monitor : x.health.running = false) :
    BaySound { x with power := .off, state := .off, probeTimer := none } := by
  obtain ⟨-, -, -, -, -, rest⟩ := h
  refine ⟨rfl, ?_, ?_, ?_, ?_, rest⟩ <;> simp_all

theorem BayOk.on {x : Bay} (h : BayOk x) (e : x.power = .off) : BaySound { x with power := .on, state := .empty } := by
  obtain ⟨-, power, card, monitor, timer, rest⟩ := h
  refine ⟨rfl, ?_, ?_, ?_, ?_, rest⟩ <;> simp_all

theorem KeepsBays.bayOff (s : State) (b : Fin 8) : KeepsBays s (s.bayOff b) := by
  unfold State.bayOff
  dsimp only
  split
  · rename_i h
    have mounted : ((s.loseLane b).bay b).state = .mounted := by
      rw [State.bay_of_bays (State.loseLane_frame s b).1]
      exact h
    refine grants (trans (loseLane s b) (lampSet b rfl (fun a e => ?_) fun k => ?_))
    · rw [State.bay_setBay_ne _ _ _ _ e, State.loseCard, State.send_bay, State.bay_setBay_ne _ _ _ _ e]
    · rw [State.bay_setBay, State.loseCard, State.send_bay, State.bay_setBay]
      exact (k.cardless mounted).off rfl rfl
  · rename_i h
    refine grants (lampSet b rfl (fun a e => State.bay_setBay_ne s b a _ e) fun k => ?_)
    rw [State.bay_setBay]
    obtain ⟨-, -, card, monitor, -⟩ := id k
    exact k.sound.off (by simpa [card] using h) (by simpa [monitor] using h)

theorem KeepsBays.bayOn (s : State) (b : Fin 8) (h : (s.bay b).power = .off) : KeepsBays s (s.bayOn b) := by
  unfold State.bayOn
  split
  · refine lampSet (t := ((s.setBay b { s.bay b with power := .on, state := .empty }).setBay b _).bayNotice b .insert)
      b rfl (fun a e => ?_) fun k => ?_
    · rw [State.bayNotice_bay, State.bay_setBay_ne _ _ _ _ e, State.bay_setBay_ne _ _ _ _ e]
    · rw [State.bayNotice_bay, State.bay_setBay, State.bay_setBay]
      exact (k.on h).probing rfl
  · exact lampSet b rfl (fun a e => State.bay_setBay_ne s b a _ e) fun k => by
      rw [State.bay_setBay]
      exact k.on h

theorem KeepsBays.setBayPower (s : State) (b : Fin 8) (v : Power) : KeepsBays s (s.setBayPower b v) := by
  unfold State.setBayPower
  split
  · exact refl s
  · rename_i h
    cases v with
    | off => exact bayOff s b
    | on =>
      refine bayOn s b ?_
      cases e : (s.bay b).power with
      | off => rfl
      | on => exact absurd e h

/-! ### Settings and the bound job -/

theorem healthSettings_range (w up lo : Nat) : 4 ≤ (healthSettings w up lo).w ∧ (healthSettings w up lo).w ≤ 60 ∧
    1 ≤ (healthSettings w up lo).up ∧ (healthSettings w up lo).up ≤ 255 ∧
    (healthSettings w up lo).lo < (healthSettings w up lo).up := by
  unfold healthSettings clamp
  dsimp only
  split <;> omega

theorem KeepsBays.storeHealth (s : State) (w up lo : Nat) (b : Fin 8) :
    KeepsBays s (s.storeHealth (healthSettings w up lo) b) :=
  setBay s b _ fun k => by
    obtain ⟨lamp, power, card, monitor, timer, job, -⟩ := k
    exact ⟨lamp, power, card, monitor, timer, job, healthSettings_range w up lo⟩

theorem KeepsBays.storeHealths (w up lo : Nat) (bays : List (Fin 8)) (s : State) :
    KeepsBays s (bays.foldl (fun u b => u.storeHealth (healthSettings w up lo) b) s) := by
  induction bays generalizing s with
  | nil => exact refl s
  | cons b bs ih => exact (storeHealth s w up lo b).trans (ih _)

theorem KeepsBays.unlock (s : State) (b : Fin 8) : KeepsBays s (s.unlock b) := by
  unfold State.unlock
  split
  · exact refl s
  · refine (setBay s b { s.bay b with lock := .disengaged } fun k => ?_).then_stand ⟨rfl, rfl⟩
    obtain ⟨lamp, power, card, monitor, timer, job, ranges⟩ := k
    exact ⟨lamp, power, card, monitor, timer, fun h => ⟨rfl, (job h).2⟩, ranges⟩

/-! ### Resets -/

theorem powerBay_ok (x : Bay) : BayOk (powerBay x) := by
  unfold powerBay
  split <;> simp [BayOk, Bay.reset, Health.reset, lampOf]

theorem bay_map (s t : State) (f : Bay → Bay) (h : t.bays = s.bays.map f) (b : Fin 8) : t.bay b = f (s.bay b) := by
  simp [State.bay, h]

/-- No lane is held. -/
theorem ArbiterOk.of_free {s : State} (h : ∀ n, (s.lane n).holder = none) : ArbiterOk s := by
  refine ⟨fun _ => h, fun n e => ?_, fun n m b e => ?_⟩
  · simp [h n] at e
  · simp [holderBay, h n] at e

theorem BayOk.softBay {x : Bay} (h : BayOk x) : BayOk (softBay x) := by
  obtain ⟨-, power, card, monitor, timer, -, ranges⟩ := h
  unfold Machine.softBay
  refine ⟨rfl, power, card, ?_, timer, fun _ => ⟨rfl, rfl⟩, ?_⟩ <;> dsimp only <;> split
  · simp_all [Health.start]
  · exact monitor
  · exact ranges
  · exact ranges

theorem KeepsBays.softReset (s : State) : KeepsBays s s.softReset := by
  rintro ⟨bays, -⟩
  refine ⟨fun b => ?_, .of_free fun n => by simp [State.softReset, softArb, State.lane, Lane.reset]⟩
  rw [bay_map s s.softReset softBay rfl b]
  exact (bays b).softBay

/-- The lanes that serve host card reads are returned, and the others stand (R68). -/
theorem KeepsBays.abortHosts (s : State) (l : LinkIf) :
    KeepsBays s { s with lki := l, arb := arbLinkReset s.arb } := by
  rintro ⟨bays, lanes⟩
  refine ⟨bays, lanes.of_holders rfl rfl fun n => ?_⟩
  have aborted : ({ s with lki := l, arb := arbLinkReset s.arb } : State).lane n = abortHost (s.lane n) := by
    simp [State.lane, arbLinkReset]
  rw [aborted]
  unfold abortHost
  split
  · exact .inr rfl
  · exact .inl rfl

/-! ## The commands that speak to bays and lanes -/

/-- A command keeps the agreement of the bays' records and of the lanes with the plan. -/
def CommandKeepsBays (c : Instr) : Prop := ∀ s, ∃ t, exec c s = .next t ∧ KeepsBays s t

theorem CommandKeepsBays.of_leaves {c : Instr} (h : LeavesBays c) : CommandKeepsBays c := fun s =>
  let ⟨t, e, k⟩ := h s
  ⟨t, e, .of_stand k⟩

theorem KeepsBays.answer {s t : State} (h : KeepsBays s t) (k n : Nat) (c : ReplyCode) (b : ReplyBody) :
    KeepsBays s (t.answer k n c b) := h.then_stand (.answer (.refl t) k n c b)

theorem KeepsBays.refuse {s t : State} (h : KeepsBays s t) (k n : Nat) (c : ReplyCode) : KeepsBays s (t.refuse k n c) :=
  h.then_stand (.refuse (.refl t) k n c)

theorem powerOn_keepsBays : CommandKeepsBays .powerOn := by
  refine fun s => ⟨_, rfl, fun _ => ⟨fun b => ?_, .of_free fun n => ?_⟩⟩
  · rw [bay_map s _ powerBay rfl b]
    exact powerBay_ok _
  · simp [State.lane, State.reset, Arbiter.reset, Lane.reset]

theorem linkReset_keepsBays : CommandKeepsBays .linkReset :=
  fun s => ⟨_, rfl, .grants (.abortHosts s _)⟩

theorem reset_keepsBays (tag : Nat) : CommandKeepsBays (.reset tag) :=
  fun s => ⟨_, rfl, .answer (.trans (.arrive s _) (.softReset _)) _ _ _ _⟩

theorem laneHeld_eq_false {s : State} (h : s.laneHeld ≠ true) (n : Fin 4) : (s.lane n).holder = none := by
  by_contra k
  exact h (List.any_eq_true.2 ⟨n, List.mem_finRange n, Option.isSome_iff_ne_none.2 k⟩)

theorem plan_keepsBays (tag number : Nat) : CommandKeepsBays (.plan tag number) := by
  refine fun s => ⟨_, rfl, ?_⟩
  split
  · exact .refuse (.arrive s _) _ _ _
  · split
    · exact .refuse (.arrive s _) _ _ _
    · rename_i h
      exact fun k => ⟨k.1, .of_free (laneHeld_eq_false h)⟩

/-- PLAN_ANSWER finds no lane held, and so the plan may change (R49). -/
theorem KeepsBays.planAnswered {s : State} {a : Asking} (h : s.arb.asking = some a) (p : Fin 4) :
    KeepsBays s { s with arb := { s.arb with plan := p, asking := none } } :=
  fun ⟨bays, free, _⟩ => ⟨bays, .of_free (free (by simp [h]))⟩

theorem planAnswer_keepsBays (yes : Bool) : CommandKeepsBays (.planAnswer yes) := by
  refine fun s => ⟨_, rfl, ?_⟩
  split
  · exact .arrive s _
  · rename_i a h
    split
    · exact .answer (.grants (.trans (.arrive s _) (.planAnswered h _))) _ _ _ _
    · exact .answer (.grants (.trans (.arrive s _) (.planAnswered h _))) _ _ _ _

theorem health_keepsBays (tag sel w up lo : Nat) : CommandKeepsBays (.health tag sel w up lo) := by
  refine fun s => ⟨_, rfl, ?_⟩
  split
  · exact .refuse (.arrive s _) _ _ _
  · exact .answer (.trans (.arrive s _) (.storeHealths _ _ _ _ _)) _ _ _ _

theorem baypwr_keepsBays (tag bay power : Nat) : CommandKeepsBays (.baypwr tag bay power) := by
  refine fun s => ⟨_, rfl, ?_⟩
  split
  · split
    · exact .refuse (.arrive s _) _ _ _
    · exact .giveBackAll (.answer (.trans (.arrive s _) (.setBayPower _ _ _)) _ _ _ _) _
  · exact .refuse (.arrive s _) _ _ _

/-- The lock is released, whether it has been engaged or not (R66). -/
theorem State.unlock_bay (s : State) (b : Fin 8) : (s.unlock b).bay b = { s.bay b with lock := .disengaged } := by
  unfold State.unlock
  split
  · rename_i h
    exact h ▸ rfl
  · rw [State.bayNotice_bay, State.bay_setBay]

theorem State.unlock_bay_ne (s : State) {a b : Fin 8} (h : a ≠ b) : (s.unlock b).bay a = s.bay a := by
  unfold State.unlock
  split
  · rfl
  · exact State.bay_setBay_ne s b a _ h

theorem KeepsBays.enterRead (s : State) (tag : Nat) (b : Fin 8) (start count : Nat) :
    KeepsBays s (s.enterRead tag b start count) := by
  have dropped : KeepsBays s (s.dropHand kindCardRead tag) := .of_stand (.of_link (State.dropHand_spec s _ _).1)
  have listed (l : LinkIf) (rs : List Nat) : KeepsBays s { s.dropHand kindCardRead tag with
      lki := l, arb := { (s.dropHand kindCardRead tag).arb with requests := rs } } := dropped
  exact (listed _ _).grants.then_stand (.of_link (State.linkSettle_spec _))

theorem cardRead_keepsBays (tag bay start count : Nat) : CommandKeepsBays (.cardRead tag bay start count) := by
  refine fun s => ⟨_, rfl, ?_⟩
  split
  · exact .refuse (.arrive s _) _ _ _
  · split
    · exact .refuse (.arrive s _) _ _ _
    · split
      · exact .refuse (.arrive s _) _ _ _
      · exact .trans (.arrive s _) (.enterRead _ _ _ _ _)

theorem cardSeated_keepsBays (b : Fin 8) : CommandKeepsBays (.cardSeated b) := by
  refine fun s => ⟨_, rfl, ?_⟩
  have sensed : KeepsBays s (s.setBay b { s.bay b with cardPresent := true }) := .setBay s b _ id
  split
  · rename_i h
    exact sensed.trans (.startProbe _ b (by rw [State.bay_setBay]; exact h))
  · exact sensed

theorem probeCompletion_keepsBays (x : ProbeEnd) (answer : Option CardSig) :
    CommandKeepsBays (.probeCompletion x answer) := by
  refine fun s => ⟨_, rfl, ?_⟩
  split
  · rename_i h
    split
    · split
      · exact .mountCard s _ _ h.2
      · exact .probeFails s _ h.2
    · exact .probeFails s _ h.2
  · exact .refl s

theorem probeTimerExpiry_keepsBays (x : ProbeEnd) : CommandKeepsBays (.probeTimerExpiry x) := by
  refine fun s => ⟨_, rfl, ?_⟩
  split
  · rename_i h
    exact .probeFails s _ h.2.1
  · exact .refl s

theorem cardLeaves_keepsBays (b : Fin 8) : CommandKeepsBays (.cardLeaves b) :=
  fun s => ⟨_, rfl, .trans (.arrive s _) (.departure _ b)⟩

theorem cardLoss_keepsBays (b : Fin 8) (seated : Bool) : CommandKeepsBays (.cardLoss b seated) := by
  refine fun s => ⟨_, rfl, ?_⟩
  split
  · rename_i h
    exact .losesCard s b seated h
  · split
    · exact .refl s
    · exact .departure s b

theorem ejectButton_leavesBays (b : Fin 8) : LeavesBays (.ejectButton b) := by
  refine fun s => ⟨_, rfl, ?_⟩
  split <;> exact ⟨rfl, rfl⟩

theorem bayJobBound_keepsBays (b : Fin 8) (job : Nat) (g : CardSig) (st : JobState) :
    CommandKeepsBays (.bayJobBound b job g st) := by
  refine fun s => ⟨_, rfl, .trans (.arrive s _) (.lampSet b rfl (fun a e => State.bay_setBay_ne _ b a _ e) fun k => ?_)⟩
  rw [State.bayNotice_bay, State.bay_setBay]
  obtain ⟨-, power, card, monitor, timer, -, ranges⟩ := k
  exact ⟨rfl, power, card, monitor, timer, fun h => by simp at h, ranges⟩

theorem bayJobState_keepsBays (b : Fin 8) (st : JobState) : CommandKeepsBays (.bayJobState b st) := by
  refine fun s => ⟨_, rfl, .trans (.arrive s _) (.lampSet b rfl (fun a e => State.bay_setBay_ne _ b a _ e) fun k => ?_)⟩
  rw [State.bay_setBay]
  obtain ⟨-, power, card, monitor, timer, job, ranges⟩ := k
  exact ⟨rfl, power, card, monitor, timer, fun h => job (Option.map_eq_none_iff.1 h), ranges⟩

theorem bayClearChange_keepsBays (b : Fin 8) (v : Bool) : CommandKeepsBays (.bayClearChange b v) := by
  refine fun s => ⟨_, rfl, .trans (.arrive s _) (.lampSet b rfl (fun a e => State.bay_setBay_ne _ b a _ e) fun k => ?_)⟩
  rw [State.bay_setBay]
  obtain ⟨-, power, card, monitor, timer, job, ranges⟩ := k
  exact ⟨rfl, power, card, monitor, timer, fun h => ⟨(job h).1, by simp_all⟩, ranges⟩

theorem bayJobRemoved_keepsBays (b : Fin 8) : CommandKeepsBays (.bayJobRemoved b) := by
  refine fun s => ⟨_, rfl, .trans (.arrive s (.bayJobRemoved b)) (.lampSet b ?_ (fun a e => ?_) fun k => ?_)⟩
  · exact (State.unlock_frame _ b).1
  · exact (State.unlock_bay_ne _ e).trans (State.bay_setBay_ne _ b a _ e)
  · rw [State.unlock_bay, State.bay_setBay]
    obtain ⟨-, power, card, monitor, timer, -, ranges⟩ := k
    exact ⟨rfl, power, card, monitor, timer, fun _ => ⟨rfl, rfl⟩, ranges⟩

theorem bayReleaseAccepted_keepsBays (b : Fin 8) : CommandKeepsBays (.bayReleaseAccepted b) :=
  fun s => ⟨_, rfl, .trans (.arrive s _) (.unlock _ b)⟩

theorem bayReadWork_keepsBays (b : Fin 8) (w : ReadWork) : CommandKeepsBays (.bayReadWork b w) := by
  refine fun s => ⟨_, rfl, .grants (.trans (.arrive s _) (.setReads _ b _ ?_))⟩
  unfold takeWork
  split <;> rfl

theorem healthWindowExpiry_keepsBays (b : Fin 8) : CommandKeepsBays (.healthWindowExpiry b) := by
  refine fun s => ⟨_, rfl, ?_⟩
  split
  · exact .windowExpires s b
  · exact .refl s

theorem blockReadAttempt_keepsBays (n : Fin 4) (answer : Option (List Byte)) :
    CommandKeepsBays (.blockReadAttempt n answer) := by
  refine fun s => ⟨_, rfl, ?_⟩
  split
  · exact .refl s
  · rename_i r h
    unfold State.hostAttempt
    split
    · exact .hostBlock s n r _ h
    · exact .hostFailed s n r
  · split
    · exact .skipZeros (.workAttempt s n _ _ _ _) n
    · exact .refl s

theorem readCompletionAck_keepsBays (n : Fin 4) (item : WorkItem) : CommandKeepsBays (.readCompletionAck n item) := by
  refine fun s => ⟨_, rfl, ?_⟩
  split
  · split
    · exact .returnLane (.send (.arrive s _) _) n
    · exact .arrive s _
  · exact .arrive s _

theorem KeepsBays.claimGranted (s : State) (n : Fin 4) (b : Fin 8) (i : Nat) : KeepsBays s (s.claimGranted n b i) :=
  skipZeros (trans (setReads s b _ (by rfl)) (setLane _ n _ (.inl (by rfl)))) n

theorem KeepsBays.claimWaits (s : State) (n : Fin 4) (b : Fin 8) (item : WorkItem) (d : DigestState) :
    KeepsBays s (s.claimWaits n b item d) :=
  grants (trans (trans (send (refl s) _) (setLane _ n Lane.reset (.inr rfl))) (setReads _ b _ (by rfl)))

theorem KeepsBays.laneAnswer (s : State) (n : Fin 4) (b : Fin 8) (c : ClaimId) (i : Option Nat) :
    KeepsBays s (s.laneAnswer n b c i) := by
  unfold State.laneAnswer
  split
  · have taken : KeepsBays s (s.setUnawaited (s.arb.unawaited.erase ⟨.lane n b, c⟩)) := id
    exact taken.then_stand (.giveBack (.refl _) _ _ _ _)
  · split
    · split
      · split
        · exact claimGranted s n b _
        · exact claimWaits s n b _ _
      · exact .of_stand (.giveBack (.refl s) _ _ _ _)
    · exact .of_stand (.giveBack (.refl s) _ _ _ _)

theorem claimAnswer_keepsBays (r : Requester) (c : ClaimId) (i : Option Nat) : CommandKeepsBays (.claimAnswer r c i) := by
  cases r with
  | lane n b => exact fun s => ⟨_, rfl, .trans (.arrive s _) (.laneAnswer _ n b c i)⟩
  | engine p => exact fun s => ⟨_, rfl, .of_stand (.trans (.arrive s _) (engineAnswer_stand _ p c i))⟩

theorem waitRemoved_keepsBays (r : Requester) (c : ClaimId) : CommandKeepsBays (.waitRemoved r c) := by
  cases r with
  | lane n b => exact fun s => ⟨_, rfl, .grants (.trans (.arrive s _) (.setReads _ b _ (by rfl)))⟩
  | engine p => exact fun s => ⟨_, rfl, .of_stand (.trans (.arrive s _) (engineWaitGone_stand _ p c))⟩

theorem poolOffer_keepsBays (b : Fin 8) (c : ClaimId) : CommandKeepsBays (.poolOffer b c) := by
  refine fun s => ⟨_, rfl, .grants (.trans (.of_stand ?_) (.setReads _ b _ (by rfl)))⟩
  split
  · exact .arrive s _
  · unfold State.offerLapses
    split
    · exact .giveBack (.arrive s _) _ _ _ _
    · exact .arrive s _

theorem KeepsBays.endWait (s : State) (b : Fin 8) (item : WorkItem) : KeepsBays s (s.endWait b item) := by
  unfold State.endWait
  split
  · exact setReads s b _ rfl
  · exact refl s

theorem workItemEnded_keepsBays (b : Fin 8) (item : WorkItem) : CommandKeepsBays (.workItemEnded b item) := by
  refine fun s => ⟨_, rfl, .giveBackAll ?_ _⟩
  have ended : KeepsBays s (((s.arrive (.workItemEnded b item)).endWait b item).loseWork b item) :=
    ((KeepsBays.arrive s _).trans (.endWait _ b item)).trans (.loseWork _ b item)
  split
  · exact .returnLane (ended.trans (.setReads _ b _ (by rfl))) _
  · exact .grants (ended.trans (.setReads _ b _ (by rfl)))

/-- Each command keeps the agreement of the bays' records and of the lanes with the plan. -/
theorem exec_keepsBays : ∀ c : Instr, CommandKeepsBays c
  | .powerOn => powerOn_keepsBays
  | .linkReset => linkReset_keepsBays
  | .linkUp => .of_leaves linkUp_leavesBays
  | .receiveFrame .. => .of_leaves (receiveFrame_leavesBays _)
  | .sendFrame => .of_leaves sendFrame_leavesBays
  | .noticeQueued .. => .of_leaves (noticeQueued_leavesBays _)
  | .ident .. => .of_leaves (ident_leavesBays _)
  | .plan .. => plan_keepsBays _ _
  | .poolFreeQuestion .. => .of_leaves (poolFreeQuestion_leavesBays _)
  | .planAnswer .. => planAnswer_keepsBays _
  | .health .. => health_keepsBays _ _ _ _ _
  | .grace .. => .of_leaves (grace_leavesBays _ _ _)
  | .baypwr .. => baypwr_keepsBays _ _ _
  | .portpwr .. => .of_leaves (portpwr_leavesBays _ _ _)
  | .areaSet .. => .of_leaves (areaSet_leavesBays _ _ _ _ _ _ _ _)
  | .areaDrop .. => .of_leaves (areaDrop_leavesBays _ _)
  | .jobOpen .. => .of_leaves (jobOpen_leavesBays _ _ _ _ _ _ _)
  | .clipAdd .. => .of_leaves (clipAdd_leavesBays _ _ _ _ _ _ _)
  | .jobSeal .. => .of_leaves (jobSeal_leavesBays _ _)
  | .jobStop .. => .of_leaves (jobStop_leavesBays _ _ _)
  | .clipCancel .. => .of_leaves (clipCancel_leavesBays _ _)
  | .cardRelease .. => .of_leaves (cardRelease_leavesBays _ _ _)
  | .jobRetire .. => .of_leaves (jobRetire_leavesBays _ _)
  | .cardRead .. => cardRead_keepsBays _ _ _ _
  | .bayQuery .. => .of_leaves (bayQuery_leavesBays _ _)
  | .portQuery .. => .of_leaves (portQuery_leavesBays _ _)
  | .jobQuery .. => .of_leaves (jobQuery_leavesBays _ _)
  | .clipQuery .. => .of_leaves (clipQuery_leavesBays _ _)
  | .poolQuery .. => .of_leaves (poolQuery_leavesBays _)
  | .reset .. => reset_keepsBays _
  | .cardSeated .. => cardSeated_keepsBays _
  | .probeCompletion .. => probeCompletion_keepsBays _ _
  | .probeTimerExpiry .. => probeTimerExpiry_keepsBays _
  | .cardLeaves .. => cardLeaves_keepsBays _
  | .cardLoss .. => cardLoss_keepsBays _ _
  | .ejectButton .. => .of_leaves (ejectButton_leavesBays _)
  | .bayJobBound .. => bayJobBound_keepsBays _ _ _ _
  | .bayJobState .. => bayJobState_keepsBays _ _
  | .bayClearChange .. => bayClearChange_keepsBays _ _
  | .bayJobRemoved .. => bayJobRemoved_keepsBays _
  | .bayReleaseAccepted .. => bayReleaseAccepted_keepsBays _
  | .bayReadWork .. => bayReadWork_keepsBays _ _
  | .healthWindowExpiry .. => healthWindowExpiry_keepsBays _
  | .blockReadAttempt .. => blockReadAttempt_keepsBays _ _
  | .readCompletionAck .. => readCompletionAck_keepsBays _ _
  | .extentClaim .. => .of_leaves (extentClaim_leavesBays _ _)
  | .extentComplete .. => .of_leaves (extentComplete_leavesBays _ _ _)
  | .pendingSetQuestion .. => .of_leaves (pendingSetQuestion_leavesBays _ _)
  | .pendingSetAnswer .. => .of_leaves (pendingSetAnswer_leavesBays _ _ _)
  | .extentRelease .. => .of_leaves (extentRelease_leavesBays _ _)
  | .clipDiscard .. => .of_leaves (clipDiscard_leavesBays _)
  | .repairDiscard .. => .of_leaves (repairDiscard_leavesBays _ _)
  | .poolOffer .. => poolOffer_keepsBays _ _
  | .siblingOffer .. => .of_leaves (siblingOffer_leavesBays _ _ _)
  | .waitRemoved .. => waitRemoved_keepsBays _ _
  | .mountReport .. => .of_leaves (mountReport_leavesBays _ _)
  | .cardLostReport .. => .of_leaves (cardLostReport_leavesBays _)
  | .burstEndReport .. => .of_leaves (burstEndReport_leavesBays _ _)
  | .blockSubstitution .. => .of_leaves (blockSubstitution_leavesBays _ _)
  | .readCompletion .. => .of_leaves (readCompletion_leavesBays _ _ _)
  | .mediaFailure .. => .of_leaves (mediaFailure_leavesBays _)
  | .repairReadCompletion .. => .of_leaves (repairReadCompletion_leavesBays _ _ _ _)
  | .repairSourceFailure .. => .of_leaves (repairSourceFailure_leavesBays _ _)
  | .holdAnswer .. => .of_leaves (holdAnswer_leavesBays _ _ _)
  | .confirmationAnswer .. => .of_leaves (confirmationAnswer_leavesBays _ _ _)
  | .extentWriteCompletion .. => .of_leaves (extentWriteCompletion_leavesBays _ _ _ _)
  | .trailerWriteCompletion .. => .of_leaves (trailerWriteCompletion_leavesBays _ _)
  | .writeFailureReport .. => .of_leaves (writeFailureReport_leavesBays _ _)
  | .verifyStart .. => .of_leaves (verifyStart_leavesBays _ _)
  | .verifyDigestReport .. => .of_leaves (verifyDigestReport_leavesBays _ _ _)
  | .verifyCompletion .. => .of_leaves (verifyCompletion_leavesBays _ _ _)
  | .siblingReadCompletion .. => .of_leaves (siblingReadCompletion_leavesBays _ _ _ _)
  | .siblingCompletionAck .. => .of_leaves (siblingCompletionAck_leavesBays _ _ _)
  | .areaInstalledReport .. => .of_leaves (areaInstalledReport_leavesBays _)
  | .driveLossReport .. => .of_leaves (driveLossReport_leavesBays _)
  | .driveReturnReport .. => .of_leaves (driveReturnReport_leavesBays _)
  | .graceExpiryReport .. => .of_leaves (graceExpiryReport_leavesBays _)
  | .portFaultReport .. => .of_leaves (portFaultReport_leavesBays _)
  | .roomFreedReport .. => .of_leaves (roomFreedReport_leavesBays _ _)
  | .holdEnquiry .. => .of_leaves (holdEnquiry_leavesBays _ _ _)
  | .holdConfirmation .. => .of_leaves (holdConfirmation_leavesBays _ _)
  | .holdWithdrawal .. => .of_leaves (holdWithdrawal_leavesBays _ _)
  | .placementClose .. => .of_leaves (placementClose_leavesBays _ _)
  | .runAbandonment .. => .of_leaves (runAbandonment_leavesBays _ _)
  | .extentAppend .. => .of_leaves (extentAppend_leavesBays _ _ _ _)
  | .trailerAppend .. => .of_leaves (trailerAppend_leavesBays _ _ _)
  | .extentRemoval .. => .of_leaves (extentRemoval_leavesBays _ _ _)
  | .trailerRemoval .. => .of_leaves (trailerRemoval_leavesBays _ _)
  | .verifyAppend .. => .of_leaves (verifyAppend_leavesBays _ _)
  | .siblingAppend .. => .of_leaves (siblingAppend_leavesBays _ _)
  | .verifyRemoval .. => .of_leaves (verifyRemoval_leavesBays _ _)
  | .siblingCancel .. => .of_leaves (siblingCancel_leavesBays _ _ _)
  | .driveConnected .. => .of_leaves (driveConnected_leavesBays _)
  | .driveIdentified .. => .of_leaves (driveIdentified_leavesBays _ _)
  | .identTimerExpiry .. => .of_leaves (identTimerExpiry_leavesBays _)
  | .driveLoss .. => .of_leaves (driveLoss_leavesBays _ _)
  | .graceTimerExpiry .. => .of_leaves (graceTimerExpiry_leavesBays _)
  | .writeCompletion .. => .of_leaves (writeCompletion_leavesBays _)
  | .writeFailure .. => .of_leaves (writeFailure_leavesBays _)
  | .verifyChunkRead .. => .of_leaves (verifyChunkRead_leavesBays _ _)
  | .trailerRead .. => .of_leaves (trailerRead_leavesBays _ _)
  | .siblingChunkRead .. => .of_leaves (siblingChunkRead_leavesBays _ _)
  | .claimAnswer .. => claimAnswer_keepsBays _ _ _
  | .workItemEnded .. => workItemEnded_keepsBays _ _

theorem exec_keepsBaysOk {c : Instr} {s t : State} (e : exec c s = .next t) : KeepsBays s t := by
  obtain ⟨u, eu, k⟩ := exec_keepsBays c s
  rw [eu] at e
  cases e
  exact k

/-- Settles O56: each command keeps the agreement, and which commands wait makes no difference to it. -/
theorem stepsKeepBays : Obligations.StepsKeepBays := by
  intro s t ok e
  unfold step at e
  split at e
  · exact exec_keepsBaysOk (s := { s with pending := _ }) e ok
  · split at e
    · exact exec_keepsBaysOk e ok
    · cases e
      exact ok
end Sys2Proof.Machine
end

section
namespace Sys2Proof.Machine

/-! ## One bay's record -/

theorem OnlyBay.refl (b : Fin 8) (s : State) : OnlyBay b s s := ⟨rfl, rfl, rfl, rfl, rfl, rfl, rfl, fun _ _ => rfl⟩

theorem OnlyBay.trans {b : Fin 8} {s t u : State} (h : OnlyBay b s t) (k : OnlyBay b t u) : OnlyBay b s u := by
  obtain ⟨arb, pool, ports, jm, lki, fresh, pending, others⟩ := h
  obtain ⟨arb', pool', ports', jm', lki', fresh', pending', others'⟩ := k
  exact ⟨arb'.trans arb, pool'.trans pool, ports'.trans ports, jm'.trans jm, lki'.trans lki, fresh'.trans fresh,
    pending'.trans pending, fun a e => (others' a e).trans (others a e)⟩

/-- The message that a command has taken is no part of any block's record. -/
theorem OnlyBay.arrive (b : Fin 8) (s : State) (m : Instr) : OnlyBay b s (s.arrive m) := refl b s

theorem OnlyBay.setBay (s : State) (b : Fin 8) (x : Bay) : OnlyBay b s (s.setBay b x) :=
  ⟨rfl, rfl, rfl, rfl, rfl, rfl, rfl, fun a e => State.bay_setBay_ne s b a x e⟩

theorem OnlyBay.send (b : Fin 8) (s : State) (m : Instr) : OnlyBay b s (s.send m) := refl b s

theorem OnlyBay.bayNotice (s : State) (b : Fin 8) (e : BayEvent) : OnlyBay b s (s.bayNotice b e) := refl b s

theorem OnlyBay.lampSet (s : State) (b : Fin 8) : OnlyBay b s (s.lampSet b) := setBay s b _

theorem OnlyBay.unlock (s : State) (b : Fin 8) : OnlyBay b s (s.unlock b) := by
  unfold State.unlock
  split
  · exact refl b s
  · exact (setBay s b _).trans (bayNotice _ b _)

theorem State.lampSet_bay (s : State) (b : Fin 8) : (s.lampSet b).bay b = { s.bay b with lamp := lampOf (s.bay b) } :=
  State.bay_setBay s b _

theorem State.lampSet_bay_setBay (s : State) (b : Fin 8) (x : Bay) :
    ((s.setBay b x).lampSet b).bay b = { x with lamp := lampOf x } := by
  rw [lampSet_bay, State.bay_setBay]

/-- The lamp is a function of the rest of the record (R42). -/
theorem lampRight_lampSet (s : State) (b : Fin 8) : LampRight ((s.lampSet b).bay b) := by
  rw [State.lampSet_bay]
  rfl

theorem State.unlock_wire (s : State) (b : Fin 8) :
    (s.unlock b).wire = s.wire ++ (if (s.bay b).lock = .engaged then
      [.noticeQueued (.bay b .lockChange (s.bay b).state .disengaged)] else []) := by
  unfold State.unlock
  split <;> simp [*]

/-- A bay's record changed, with its notice and its lamp set anew. -/
def State.bayChanges (s : State) (b : Fin 8) (x : Bay) (e : BayEvent) : State :=
  ((s.setBay b x).bayNotice b e).lampSet b

theorem OnlyBay.bayChanges (s : State) (b : Fin 8) (x : Bay) (e : BayEvent) : OnlyBay b s (s.bayChanges b x e) :=
  ((setBay s b x).trans (bayNotice _ b e)).trans (lampSet _ b)

theorem State.bayChanges_bay (s : State) (b : Fin 8) (x : Bay) (e : BayEvent) :
    (s.bayChanges b x e).bay b = { x with lamp := lampOf x } := by
  simp [bayChanges, lampSet_bay]

theorem State.bayChanges_wire (s : State) (b : Fin 8) (x : Bay) (e : BayEvent) :
    (s.bayChanges b x e).wire = s.wire ++ [Instr.noticeQueued (.bay b e x.state x.lock)] := by
  simp [bayChanges]

theorem lampRight_bayChanges (s : State) (b : Fin 8) (x : Bay) (e : BayEvent) : LampRight ((s.bayChanges b x e).bay b) :=
  lampRight_lampSet _ b

theorem State.startProbe_eq (s : State) (b : Fin 8) : s.startProbe b =
    s.bayChanges b { s.bay b with state := .probing, probeTimer := some 2 } .insert := rfl

theorem State.cardGone_eq (s : State) (b : Fin 8) (left : BayState) : s.cardGone b left =
    s.bayChanges b { s.bay b with state := .empty, probeTimer := none } (.cardLost left) := rfl

/-! ### The lamp's value -/

theorem lampOf_unbound {x : Bay} (h : x.job = none) : lampOf x = .unlit := by simp [lampOf, h]

theorem bayAway_iff (x : Bay) : bayAway x = true ↔ ∃ j, x.job = some j ∧ (x.state ≠ .mounted ∨ x.sig ≠ some j.sig) := by
  unfold bayAway
  split <;> simp [*]

theorem lampOf_off {x : Bay} (h : x.state = .off) : lampOf x = .unlit := by
  unfold lampOf
  split <;> simp [h]

theorem lampOf_away {x : Bay} {j : BoundJob} (job : x.job = some j) (on : x.state ≠ .off)
    (h : x.state = .faulted ∨ x.state ≠ .mounted ∨ x.sig ≠ some j.sig) : lampOf x = .redFlashing := by
  have flashing : x.state = .faulted ∨ bayAway x = true := h.imp_right fun k => (bayAway_iff x).2 ⟨j, job, k⟩
  simp [lampOf, job, on, flashing]

theorem lampOf_here {x : Bay} {j : BoundJob} (job : x.job = some j) (state : x.state = .mounted)
    (sig : x.sig = some j.sig) :
    lampOf x = (if x.clear then .greenSteady else if j.state = .done ∨ j.state = .stopped then .redSteady
      else if x.health.mode = .careful then .amberFlashing else .amberSteady) := by
  simp [lampOf, bayAway, job, state, sig]

/-! ### The bay's copies of the job -/

/-- Settles O27: the lock is one record of the bay, and each command sets it once. -/
theorem ejectLockHoldsCard : Obligations.EjectLockHoldsCard := by
  refine ⟨fun b s => ⟨fun lock card => ?_, fun held => ?_⟩, fun b job g st s => ⟨_, rfl, ?_, ?_, ?_, ?_⟩,
    fun b s => ⟨_, rfl, ?_, ?_, ?_⟩, fun b s => ⟨_, rfl, ?_, ?_, ?_⟩⟩
  · exact congrArg Host.Outcome.next (if_pos ⟨lock, card⟩)
  · exact congrArg Host.Outcome.next (if_neg (by rcases held with h | h <;> simp [h]))
  · exact (OnlyBay.arrive b s _).trans (.bayChanges _ b _ _)
  · exact ⟨_, State.bayChanges_bay _ b _ _⟩
  · exact lampRight_bayChanges _ b _ _
  · exact State.bayChanges_wire _ b _ _
  · exact (((OnlyBay.arrive b s _).trans (.setBay _ b _)).trans (.unlock _ b)).trans (.lampSet _ b)
  · rw [State.lampSet_bay, State.unlock_bay, State.bay_setBay, lampOf_unbound rfl]
    rfl
  · rw [State.lampSet_wire, State.unlock_wire, State.bay_setBay]
    rfl
  · exact (OnlyBay.arrive b s _).trans (.unlock _ b)
  · exact State.unlock_bay _ b
  · exact State.unlock_wire _ b

/-- Settles O28: each command sets the lamp once it has set its copy, and the lamp is read off the bay's record. -/
theorem bayCopiesDriveLamp : Obligations.BayCopiesDriveLamp := by
  refine ⟨fun b st s => ⟨_, rfl, ?_, ?_, lampRight_lampSet _ b, rfl⟩,
    fun b v s => ⟨_, rfl, ?_, ?_, lampRight_lampSet _ b, rfl⟩,
    fun x => ⟨lampOf_unbound, fun _ _ => lampOf_off, fun _ => lampOf_away, fun _ => lampOf_here⟩⟩
  · exact ((OnlyBay.arrive b s _).trans (.setBay _ b _)).trans (.lampSet _ b)
  · exact ⟨_, State.lampSet_bay_setBay _ b _⟩
  · exact ((OnlyBay.arrive b s _).trans (.setBay _ b _)).trans (.lampSet _ b)
  · exact ⟨_, State.lampSet_bay_setBay _ b _⟩
end Sys2Proof.Machine
end

section
namespace Sys2Proof.Machine

/-! ## The search for grants, seen from the bays -/

theorem lampRight_of_core {x y : Bay} (h : bayCore y = bayCore x) (k : LampRight x) : LampRight y := by
  have core (z : Bay) : LampRight (bayCore z) ↔ LampRight z := Iff.rfl
  rwa [← core y, h]

theorem lampRight_grants {s : State} {b : Fin 8} (h : LampRight (s.bay b)) : LampRight (s.grants.bay b) :=
  lampRight_of_core (State.grants_bayCore s b) h

/-- The lamp that the search leaves is named as such, which is how the statements name it. -/
theorem State.grants_bayCore_lamp (s : State) (b : Fin 8) :
    bayCore (s.grants.bay b) = bayCore { s.bay b with lamp := (s.grants.bay b).lamp } := by
  have core := grants_bayCore s b
  obtain ⟨-, -, -, -, -, -, -, -, lamp, -⟩ := bayCore_fields core
  rw [core, lamp]

theorem OnlyReads.refl (b : Fin 8) (s : State) : OnlyReads b s s := ⟨rfl, rfl, rfl, rfl, fun _ _ => rfl⟩

theorem OnlyReads.trans {b : Fin 8} {s t u : State} (h : OnlyReads b s t) (k : OnlyReads b t u) : OnlyReads b s u := by
  obtain ⟨pool, ports, jm, pending, others⟩ := h
  obtain ⟨pool', ports', jm', pending', others'⟩ := k
  exact ⟨pool'.trans pool, ports'.trans ports, jm'.trans jm, pending'.trans pending,
    fun a e => (others' a e).trans (others a e)⟩

theorem OnlyBay.reads {b : Fin 8} {s t : State} (h : OnlyBay b s t) : OnlyReads b s t := by
  obtain ⟨-, pool, ports, jm, -, -, pending, others⟩ := h
  exact ⟨pool, ports, jm, pending, fun a e => congrArg bayCore (others a e)⟩

theorem OnlyReads.grants {b : Fin 8} {s t : State} (h : OnlyReads b s t) : OnlyReads b s t.grants := by
  obtain ⟨pool, ports, jm, pending⟩ := State.grants_frame t
  exact h.trans ⟨pool, ports, jm, pending, fun a _ => State.grants_bayCore t a⟩

/-! ## The slot's probe -/

theorem sigValid_iff {g : CardSig} :
    sigValid g = true ↔ g.serial.length = 16 ∧ 1 ≤ g.capacity ∧ g.capacity ≤ 4294967295 := by
  simp only [sigValid, Bool.and_eq_true, decide_eq_true_eq, and_assoc]
  rfl

/-- A card is mounted, and the search for grants is still to come. -/
def State.mounts (s : State) (b : Fin 8) (g : CardSig) : State :=
  (((s.setBay b { s.bay b with
      state := .mounted, sig := some g, probeTimer := none, health := (s.bay b).health.start }).send
    (.mountReport b g)).bayNotice b (.mount g)).lampSet b

theorem State.mountCard_eq (s : State) (b : Fin 8) (g : CardSig) : s.mountCard b g = (s.mounts b g).grants := rfl

theorem OnlyBay.mounts (s : State) (b : Fin 8) (g : CardSig) : OnlyBay b s (s.mounts b g) :=
  (setBay s b _).trans (lampSet _ b)

theorem lampRight_mounts (s : State) (b : Fin 8) (g : CardSig) : LampRight ((s.mounts b g).bay b) := lampRight_lampSet _ b

theorem State.mounts_wire (s : State) (b : Fin 8) (g : CardSig) : (s.mounts b g).wire =
    s.wire ++ [Instr.mountReport b g, .noticeQueued (.bay b (.mount g) .mounted (s.bay b).lock)] := by
  simp [mounts]

theorem State.mounts_bay (s : State) (b : Fin 8) (g : CardSig) : (s.mounts b g).bay b = { s.bay b with
    state := .mounted, sig := some g, probeTimer := none, lamp := ((s.mounts b g).bay b).lamp
    health := { (s.bay b).health with mode := .normal, running := true, window := some 2, count := 0 } } := by
  simp [mounts, lampSet_bay, Health.start, Config.firstWindowSeconds]

theorem State.mountCard_bayCore (s : State) (b : Fin 8) (g : CardSig) : bayCore ((s.mountCard b g).bay b) =
    bayCore { s.bay b with
      state := .mounted, sig := some g, probeTimer := none, lamp := ((s.mountCard b g).bay b).lamp
      health := { (s.bay b).health with mode := .normal, running := true, window := some 2, count := 0 } } := by
  rw [mountCard_eq, grants_bayCore_lamp, mounts_bay]

theorem OnlyBay.startProbe (s : State) (b : Fin 8) : OnlyBay b s (s.startProbe b) := bayChanges s b _ _

theorem OnlyBay.probeFails (s : State) (b : Fin 8) : OnlyBay b s (s.probeFails b) := bayChanges s b _ _

/-- What the end of a probe without a valid answer leaves (R32, R33). -/
theorem State.probeFails_spec (s : State) (b : Fin 8) :
    (∃ lamp, (s.probeFails b).bay b = { s.bay b with state := .faulted, probeTimer := none, lamp := lamp }) ∧
      LampRight ((s.probeFails b).bay b) ∧
      (s.probeFails b).wire = s.wire ++ [Instr.noticeQueued (.bay b .probeFault .faulted (s.bay b).lock)] :=
  ⟨⟨_, bayChanges_bay s b _ _⟩, lampRight_bayChanges s b _ _, bayChanges_wire s b _ _⟩

theorem cardSeated_spec (b : Fin 8) (s : State) : ∃ t, exec (.cardSeated b) s = .next t ∧ OnlyBay b s t ∧
    ((s.bay b).state = .empty →
      (∃ lamp, t.bay b = { s.bay b with cardPresent := true, state := .probing, probeTimer := some 2, lamp := lamp }) ∧
      LampRight (t.bay b) ∧ t.wire = s.wire ++ [Instr.noticeQueued (.bay b .insert .probing (s.bay b).lock)]) ∧
    ((s.bay b).state ≠ .empty → t = s.setBay b { s.bay b with cardPresent := true }) := by
  refine ⟨_, rfl, ?_⟩
  have sensed := OnlyBay.setBay s b { s.bay b with cardPresent := true }
  split
  · rename_i h
    refine ⟨sensed.trans (.startProbe _ b), fun _ => ⟨?_, lampRight_bayChanges _ b _ _, ?_⟩, fun k => absurd h k⟩
    · rw [State.startProbe_eq, State.bayChanges_bay, State.bay_setBay]
      exact ⟨_, rfl⟩
    · rw [State.startProbe_eq, State.bayChanges_wire, State.bay_setBay]
      rfl
  · rename_i h
    exact ⟨sensed, fun k => absurd k h, fun _ => rfl⟩

/-- No valid answer: the bay's probe fails. -/
theorem probeCompletion_fails {b : Fin 8} {answer : Option CardSig} {s : State} (h : (s.bay b).state = .probing)
    (bad : ∀ g, answer = some g → sigValid g = false) :
    exec (.probeCompletion ⟨b, false⟩ answer) s = .next (s.probeFails b) := by
  refine congrArg Host.Outcome.next ((if_pos ⟨rfl, h⟩).trans ?_)
  cases answer with
  | none => rfl
  | some g => exact if_neg (by simp [bad g rfl])

theorem probeCompletion_mounts {b : Fin 8} {g : CardSig} {s : State} (h : (s.bay b).state = .probing)
    (valid : sigValid g = true) : exec (.probeCompletion ⟨b, false⟩ (some g)) s = .next (s.mountCard b g) :=
  congrArg Host.Outcome.next ((if_pos ⟨rfl, h⟩).trans (if_pos valid))

theorem probeCompletion_dropped {b : Fin 8} {answer : Option CardSig} {s : State} (h : (s.bay b).state ≠ .probing) :
    exec (.probeCompletion ⟨b, false⟩ answer) s = .next s :=
  congrArg Host.Outcome.next (if_neg fun k => h k.2)

theorem probeCompletion_spec (b : Fin 8) (answer : Option CardSig) (s : State) : ∃ t,
    exec (.probeCompletion ⟨b, false⟩ answer) s = .next t ∧ OnlyReads b s t ∧
    ((s.bay b).state ≠ .probing → t = s) ∧
    (∀ g, (s.bay b).state = .probing → answer = some g → g.serial.length = 16 → 1 ≤ g.capacity →
      g.capacity ≤ 4294967295 →
      bayCore (t.bay b) = bayCore { s.bay b with
        state := .mounted, sig := some g, probeTimer := none, lamp := (t.bay b).lamp
        health := { (s.bay b).health with mode := .normal, running := true, window := some 2, count := 0 } } ∧
        LampRight (t.bay b) ∧
        s.wire ++ [Instr.mountReport b g, .noticeQueued (.bay b (.mount g) .mounted (s.bay b).lock)] <+: t.wire) ∧
    ((s.bay b).state = .probing → (∀ g, answer = some g → g.serial.length ≠ 16 ∨ g.capacity < 1 ∨
        4294967295 < g.capacity) → OnlyBay b s t ∧
      (∃ lamp, t.bay b = { s.bay b with state := .faulted, probeTimer := none, lamp := lamp }) ∧
      LampRight (t.bay b) ∧ t.wire = s.wire ++ [Instr.noticeQueued (.bay b .probeFault .faulted (s.bay b).lock)]) := by
  by_cases h : (s.bay b).state = .probing
  · by_cases valid : ∃ g, answer = some g ∧ sigValid g = true
    · obtain ⟨g, rfl, ok⟩ := valid
      obtain ⟨serial, low, high⟩ := sigValid_iff.1 ok
      refine ⟨_, probeCompletion_mounts h ok, (OnlyBay.mounts s b g).reads.grants, fun k => absurd h k, ?_, ?_⟩
      · rintro - - ⟨⟩ - - -
        exact ⟨State.mountCard_bayCore s b g, lampRight_grants (lampRight_mounts s b g),
          State.mounts_wire s b g ▸ State.grants_wire _⟩
      · intro _ bad
        rcases bad g rfl with k | k | k <;> omega
    · have bad : ∀ g, answer = some g → sigValid g = false := fun g e =>
        Bool.eq_false_iff.2 fun k => valid ⟨g, e, k⟩
      refine ⟨_, probeCompletion_fails h bad, (OnlyBay.probeFails s b).reads, fun k => absurd h k, ?_, fun _ _ =>
        ⟨.probeFails s b, State.probeFails_spec s b⟩⟩
      intro g _ e serial low high
      exact absurd ⟨g, e, sigValid_iff.2 ⟨serial, low, high⟩⟩ valid
  · exact ⟨s, probeCompletion_dropped h, .refl b s, fun _ => rfl, fun _ k => absurd k h, fun k => absurd k h⟩

theorem probeTimerExpiry_spec (b : Fin 8) (s : State) : ∃ t, exec (.probeTimerExpiry ⟨b, false⟩) s = .next t ∧
    OnlyBay b s t ∧
    ((s.bay b).state = .probing → (s.bay b).probeTimer.isSome = true →
      (∃ lamp, t.bay b = { s.bay b with state := .faulted, probeTimer := none, lamp := lamp }) ∧ LampRight (t.bay b) ∧
      t.wire = s.wire ++ [Instr.noticeQueued (.bay b .probeFault .faulted (s.bay b).lock)]) ∧
    ((s.bay b).state ≠ .probing ∨ (s.bay b).probeTimer = none → t = s) := by
  refine ⟨_, rfl, ?_⟩
  split
  · rename_i h
    obtain ⟨-, probing, timer⟩ := h
    exact ⟨.probeFails s b, fun _ _ => State.probeFails_spec s b, fun k => by simp_all⟩
  · rename_i h
    exact ⟨.refl b s, fun k l => absurd ⟨rfl, k, l⟩ h, fun _ => rfl⟩

/-- Settles O25: a probe ends in one of two ways, and only the mount looks for grants. -/
theorem probesMountOrFault : Obligations.ProbesMountOrFault :=
  ⟨fun _ _ _ => ⟨rfl, rfl⟩, fun b s => cardSeated_spec b s, fun b answer s => probeCompletion_spec b answer s,
    fun b s => probeTimerExpiry_spec b s⟩
end Sys2Proof.Machine
end

section
namespace Sys2Proof.Machine

/-! ## Indexes -/

theorem indexOf_eq_none {n v : Nat} : indexOf n v = none ↔ n ≤ v := by simp [indexOf]

theorem indexOf_eq_some {n v : Nat} {i : Fin n} : indexOf n v = some i ↔ v = i.val := by
  unfold indexOf
  split <;> simp [Fin.ext_iff]
  omega

/-! ## Answers -/

theorem OnlyLink.of_linkOnly {s t : State} (h : LinkOnly s t) : OnlyLink s t := by
  obtain ⟨bays, arb, pool, ports, jm, -, pending, -⟩ := h
  exact ⟨bays, arb, pool, ports, jm, pending⟩

/-- The answer to a message that is taken, and that changes no block's record. -/
theorem OnlyLink.answered (s : State) (m : Instr) (k n : Nat) (c : ReplyCode) (b : ReplyBody) :
    OnlyLink s ((s.arrive m).answer k n c b) :=
  of_linkOnly (s := s.arrive m) (State.answer_spec _ k n c b)

theorem Replies.answered (s : State) (m : Instr) (k n : Nat) (c : ReplyCode) (b : ReplyBody) :
    Replies s ((s.arrive m).answer k n c b) ⟨k, n, c, b⟩ :=
  .of_lki (u := s.arrive m) rfl (State.answer_replies _ k n c b)

/-- The same where the answer has used a free value. -/
theorem OnlyLink.answered_spend (s : State) (m : Instr) (k n : Nat) (c : ReplyCode) (b : ReplyBody) :
    OnlyLink s ((s.arrive m).spend.answer k n c b) :=
  of_linkOnly (s := (s.arrive m).spend) (State.answer_spec _ k n c b)

theorem Replies.answered_spend (s : State) (m : Instr) (k n : Nat) (c : ReplyCode) (b : ReplyBody) :
    Replies s ((s.arrive m).spend.answer k n c b) ⟨k, n, c, b⟩ :=
  .of_lki (u := (s.arrive m).spend) rfl (State.answer_replies _ k n c b)

/-! ## The queries -/

theorem bayQuery_spec (tag v : Nat) (s : State) : ∃ t, exec (.bayQuery tag v) s = .next t ∧ OnlyLink s t ∧
    (8 ≤ v → Replies s t ⟨kindBayQuery, tag, .badArg, .codeAlone⟩) ∧
    (∀ b : Fin 8, v = b.val → Replies s t ⟨kindBayQuery, tag, .done, .bay (bayInfo s.fresh (s.bay b))⟩) := by
  refine ⟨_, rfl, ?_⟩
  split
  · rename_i h
    exact ⟨.answered s _ _ _ _ _, fun _ => .answered s _ _ _ _ _, fun b e => absurd (indexOf_eq_none.1 h) (by omega)⟩
  · rename_i b h
    refine ⟨.answered_spend s _ _ _ _ _, fun k => absurd (indexOf_eq_some.1 h) (by omega), fun a e => ?_⟩
    obtain rfl : b = a := Fin.ext ((indexOf_eq_some.1 h).symm.trans e)
    exact .answered_spend s _ _ _ _ _

theorem portQuery_spec (tag v : Nat) (s : State) : ∃ t, exec (.portQuery tag v) s = .next t ∧ OnlyLink s t ∧
    (4 ≤ v → Replies s t ⟨kindPortQuery, tag, .badArg, .codeAlone⟩) ∧
    (∀ p : Fin 4, v = p.val → Replies s t ⟨kindPortQuery, tag, .done, .port (portInfo s.fresh (s.port p))⟩) := by
  refine ⟨_, rfl, ?_⟩
  split
  · rename_i h
    exact ⟨.answered s _ _ _ _ _, fun _ => .answered s _ _ _ _ _, fun b e => absurd (indexOf_eq_none.1 h) (by omega)⟩
  · rename_i p h
    refine ⟨.answered_spend s _ _ _ _ _, fun k => absurd (indexOf_eq_some.1 h) (by omega), fun q e => ?_⟩
    obtain rfl : p = q := Fin.ext ((indexOf_eq_some.1 h).symm.trans e)
    exact .answered_spend s _ _ _ _ _

theorem inRange_iff {n v : Nat} : inRange n v = true ↔ 1 ≤ v ∧ v ≤ n := by simp [inRange]

theorem jobQuery_spec (tag v : Nat) (s : State) : ∃ t, exec (.jobQuery tag v) s = .next t ∧ OnlyLink s t ∧
    (v < 1 ∨ 8 < v → Replies s t ⟨kindJobQuery, tag, .badArg, .codeAlone⟩) ∧
    (1 ≤ v → v ≤ 8 → s.job? v = none → Replies s t ⟨kindJobQuery, tag, .noSuch, .codeAlone⟩) ∧
    (∀ j, 1 ≤ v → v ≤ 8 → s.job? v = some j →
      Replies s t ⟨kindJobQuery, tag, .done, .job j (decide ((s.view j.bay).sig ≠ some j.sig)) (s.clearOf j.bay)⟩) := by
  refine ⟨_, rfl, ?_⟩
  split
  · rename_i h
    obtain ⟨low, high⟩ := inRange_iff.1 h
    split
    · rename_i none
      have none : s.job? v = .none := none
      exact ⟨.answered s _ _ _ _ _, by omega, fun _ _ _ => .answered s _ _ _ _ _, by simp [none]⟩
    · rename_i j some
      have some : s.job? v = .some j := some
      refine ⟨.answered s _ _ _ _ _, by omega, by simp [some], fun i _ _ e => ?_⟩
      obtain rfl : j = i := Option.some.inj (some.symm.trans e)
      rw [decide_not]
      exact .answered s _ _ _ _ _
  · rename_i h
    have out : ¬ (1 ≤ v ∧ v ≤ 8) := fun k => h (inRange_iff.2 k)
    exact ⟨.answered s _ _ _ _ _, fun _ => .answered s _ _ _ _ _, fun low high => absurd ⟨low, high⟩ out,
      fun _ low high => absurd ⟨low, high⟩ out⟩

theorem clipQuery_spec (tag v : Nat) (s : State) : ∃ t, exec (.clipQuery tag v) s = .next t ∧ OnlyLink s t ∧
    (v < 1 ∨ 65535 < v → Replies s t ⟨kindClipQuery, tag, .badArg, .codeAlone⟩) ∧
    (1 ≤ v → v ≤ 65535 → s.clip? v = none → Replies s t ⟨kindClipQuery, tag, .noSuch, .codeAlone⟩) ∧
    (∀ c, 1 ≤ v → v ≤ 65535 → s.clip? v = some c → Replies s t ⟨kindClipQuery, tag, .done, .clip c⟩) := by
  refine ⟨_, rfl, ?_⟩
  split
  · rename_i h
    obtain ⟨low, high⟩ := inRange_iff.1 h
    have high : v ≤ 65535 := high
    split
    · rename_i none
      have none : s.clip? v = .none := none
      exact ⟨.answered s _ _ _ _ _, by omega, fun _ _ _ => .answered s _ _ _ _ _, by simp [none]⟩
    · rename_i c some
      have some : s.clip? v = .some c := some
      refine ⟨.answered s _ _ _ _ _, by omega, by simp [some], fun i _ _ e => ?_⟩
      obtain rfl : c = i := Option.some.inj (some.symm.trans e)
      exact .answered s _ _ _ _ _
  · rename_i h
    have out : ¬ (1 ≤ v ∧ v ≤ 65535) := fun k => h (inRange_iff.2 k)
    exact ⟨.answered s _ _ _ _ _, fun _ => .answered s _ _ _ _ _, fun low high => absurd ⟨low, high⟩ out,
      fun _ low high => absurd ⟨low, high⟩ out⟩

theorem ident_spec (tag : Nat) (s : State) : ∃ t, exec (.ident tag) s = .next t ∧ OnlyLink s t ∧
    t.lki.freshStart = false ∧
    Replies s t ⟨kindIdent, tag, .done,
      .ident ⟨"Torzel", "Ezorant OC-84", 1, 8, 4, 1024, 1024, s.lki.freshStart⟩⟩ ∧
    t.noticeLog = s.noticeLog ∧ t.lki.droppedMark = s.lki.droppedMark := by
  refine ⟨_, rfl, ?_⟩
  generalize e : ({ s.arrive (.ident tag) with lki := { s.lki with freshStart := false } } : State) = u
  have spec := u.answer_spec kindIdent tag .done (.ident (identInfo s.lki.freshStart))
  have replies := u.answer_replies kindIdent tag .done (.ident (identInfo s.lki.freshStart))
  subst e
  have only := OnlyLink.of_linkOnly spec
  obtain ⟨-, -, -, -, -, -, -, -, -, -, -, fresh, dropped, notices, -⟩ := spec
  exact ⟨only, fresh, replies, notices, dropped⟩

/-! ## The records that the queries report -/

theorem bayInfo_spec (fresh : Nat) (x : Bay) (r : BayInfo) (e : r = bayInfo fresh x) : r.power = x.power ∧
    r.state = x.state ∧ (x.power = .on → r.cardPresent = x.cardPresent) ∧ r.sig = x.sig ∧
    r.job = x.job.map BoundJob.id ∧
    (r.away = true ↔ ∃ j, x.job = some j ∧ (x.state ≠ .mounted ∨ x.sig ≠ some j.sig)) ∧ r.clear = x.clear ∧
    r.lock = x.lock ∧ r.lamp = x.lamp ∧ r.mode = x.health.mode ∧ r.count = x.health.count ∧ r.w = x.health.w ∧
    r.up = x.health.up ∧ r.lo = x.health.lo := by
  subst e
  refine ⟨rfl, rfl, fun on => ?_, rfl, rfl, bayAway_iff x, rfl, rfl, rfl, rfl, rfl, rfl, rfl, rfl⟩
  simp [bayInfo, sensed, on]

theorem portInfo_spec (fresh : Nat) (x : Port) (r : PortInfo) (e : r = portInfo fresh x) : r.power = x.power ∧
    r.state = x.state ∧ (x.power = .on → r.drivePresent = x.drivePresent) ∧ r.identifying = x.ident.isSome ∧
    r.identity = x.identity ∧ r.otherDrive = x.otherDrive ∧ r.grace = x.grace ∧
    (x.graceTimer = none → r.graceLeft = none) ∧
    (∀ g, x.graceTimer = some g → ∃ left, r.graceLeft = some left ∧ left ≤ g) ∧ r.area = x.area ∧
    (∀ a, x.area = some a → r.capacity = a.length / a.unit ∧ r.unitBytes = a.unit * a.blockSize ∧
      r.room = a.length / a.unit - a.reserve - a.fill -
        ((x.holds.filter (fun h => h.void.isNone)).map Hold.footprint).sum) ∧
    r.nHolds = x.holds.length ∧ r.nOpen = x.openPl.length ∧ r.nWrite = x.writeQ.length ∧
    r.nVerify = x.verifyQ.length ∧ r.tally = x.tally := by
  subst e
  refine ⟨rfl, rfl, fun on => ?_, rfl, rfl, rfl, rfl, fun stopped => ?_, fun g running => ⟨timeLeft fresh g, ?_, ?_⟩, rfl,
    fun a area => ?_, rfl, rfl, rfl, rfl, rfl⟩
  · simp [portInfo, sensed, on]
  · simp [portInfo, stopped]
  · simp [portInfo, running]
  · exact min_le_left _ _
  · simp [portInfo, roomOf, codeOpt, area, areaCapacity, areaUnitBytes, heldUnits]

/-! ### The pool -/

theorem eraseDups_nodup {α : Type} [BEq α] [LawfulBEq α] (l : List α) : l.eraseDups.Nodup := by
  generalize e : l.length = n
  induction n using Nat.strongRecOn generalizing l with
  | ind n ih =>
    cases l with
    | nil => exact List.nodup_nil
    | cons a as =>
      rw [List.eraseDups_cons, List.nodup_cons]
      refine ⟨by simp, ih _ ?_ _ rfl⟩
      rw [← e]
      exact Nat.lt_succ_of_le (List.length_filter_le _ _)

theorem IndexesRise.length_le {p : Pool} (h : IndexesRise p) : p.extents.length ≤ 1024 := by
  obtain ⟨rising, below⟩ := h
  have subset : p.extents.map Prod.fst ⊆ List.range 1024 := by
    intro i m
    obtain ⟨e, member, rfl⟩ := List.mem_map.1 m
    exact List.mem_range.2 (below e member)
  simpa using (rising.nodup.subperm subset).length_le

theorem filling_add_full (xs : List (Nat × Extent)) :
    (xs.filter (fun e => decide (e.2.state = .filling))).length +
      (xs.filter (fun e => decide (e.2.state = .full))).length = xs.length := by
  rw [List.length_eq_length_filter_add (l := xs) (fun e => decide (e.2.state = .filling))]
  congr 3
  funext e
  cases e.2.state <;> rfl

theorem mem_clips {p : Pool} {h : ClipHolding} : h ∈ (poolInfo p).clips ↔
    (∃ e ∈ p.extents, e.2.claim.clip = h.clip) ∧ holdingOf p h.clip = h := by
  simp only [poolInfo, List.mem_map, List.mem_eraseDups]
  constructor
  · rintro ⟨clip, held, rfl⟩
    exact ⟨held, rfl⟩
  · rintro ⟨held, e⟩
    exact ⟨_, held, e⟩

theorem poolInfo_spec (p : Pool) (r : PoolInfo) (e : r = poolInfo p) : r.window = p.window ∧
    (IndexesRise p → r.nFree + r.nFilling + r.nFull = 1024) ∧
    r.nFilling = (p.extents.filter (fun e => decide (e.2.state = .filling))).length ∧
    r.nFull = (p.extents.filter (fun e => decide (e.2.state = .full))).length ∧
    (r.clips.map ClipHolding.clip).Nodup ∧
    (∀ h, h ∈ r.clips ↔ (∃ e ∈ p.extents, e.2.claim.clip = h.clip) ∧
      h.first = (p.extents.filter (fun e => e.2.claim.clip == h.clip && decide (e.2.claim.purpose = .first))).length ∧
      h.repair = (p.extents.filter (fun e => e.2.claim.clip == h.clip && decide (e.2.claim.purpose = .repair))).length) ∧
    r.perPort = (List.finRange 4).map (fun q => (p.extents.filter (fun e =>
      decide (e.2.state = .full) && e.2.pending.any (fun ps => ps.contains q))).length) ∧
    r.waits = (orderedWaits p.waits).map (fun w => ⟨w, decide (p.window ≤ heldCount p w.claim.clip)⟩) := by
  subst e
  refine ⟨rfl, fun rising => ?_, rfl, rfl, ?_, fun h => mem_clips.trans (and_congr_right fun _ => ?_), rfl, ?_⟩
  · have total := filling_add_full p.extents
    have small := rising.length_le
    simp only [poolInfo, countExtents, Config.nExtents]
    omega
  · have clip : ClipHolding.clip ∘ holdingOf p = id := rfl
    simp only [poolInfo, List.map_map, clip, List.map_id]
    exact eraseDups_nodup _
  · obtain ⟨clip, first, repair⟩ := h
    simp only [holdingOf, ClipHolding.mk.injEq, true_and]
    exact and_congr eq_comm eq_comm
  · have whole (w : Wait) : (!belowWindow p w.claim.clip) = decide (p.window ≤ heldCount p w.claim.clip) := by
      rw [belowWindow, ← decide_not]
      exact decide_eq_decide.2 Nat.not_lt
    simp only [poolInfo, whole]

/-- Settles O24: a query's command answers with its record, and each record is read off its block. -/
theorem queriesAndIdentReport : Obligations.QueriesAndIdentReport :=
  ⟨fun tag v s => bayQuery_spec tag v s, fun tag v s => portQuery_spec tag v s, fun tag v s => jobQuery_spec tag v s,
    fun tag v s => clipQuery_spec tag v s, fun _ s => ⟨_, rfl, .answered s _ _ _ _ _, .answered s _ _ _ _ _⟩,
    fun tag s => ident_spec tag s, fun fresh x r => bayInfo_spec fresh x r, fun fresh x r => portInfo_spec fresh x r,
    fun p r => poolInfo_spec p r⟩
end Sys2Proof.Machine
end

section
namespace Sys2Proof.Machine

/-! ## What a search for grants leaves of the lanes and of the awaited answers -/

theorem GrantRound.unawaited {s t : State} (h : GrantRound s t) : t.arb.unawaited = s.arb.unawaited := by
  induction h with
  | ends s => rfl
  | host s u t n r _ _ given _ ih =>
    rw [ih]
    rcases given.ends_or_holds with ⟨c, body, rfl⟩ | ⟨-, h, -, rfl⟩
    · rw [State.endRead_arb]
      rfl
    · rfl
  | bay s t n b item _ _ _ _ _ ih => exact ih

theorem State.grants_unawaited (s : State) : s.grants.arb.unawaited = s.arb.unawaited := s.grants_round.unawaited

/-- A lane does not serve the bay, and can be granted to it by no search: the bay is not MOUNTED (R51, R58). -/
def LaneWithout (b : Fin 8) (n : Fin 4) (s : State) : Prop :=
  (s.bay b).state ≠ .mounted ∧ holderBay (s.lane n) ≠ some b

theorem LaneWithout.setLane {b : Fin 8} {n : Fin 4} {s : State} (h : LaneWithout b n s) (m : Fin 4) {x : Lane}
    (other : holderBay x ≠ some b) : LaneWithout b n (s.setLane m x) := by
  refine ⟨h.1, ?_⟩
  by_cases e : n = m
  · rw [e, State.lane_setLane]
    exact other
  · rw [State.lane_setLane_ne s m n x e]
    exact h.2

theorem LaneWithout.hostGiven {b : Fin 8} {s u : State} {n m : Fin 4} {r : CardRead} (h : LaneWithout b n s)
    (given : HostGiven s u m r) : LaneWithout b n u := by
  rcases given.ends_or_holds with ⟨c, body, rfl⟩ | ⟨mounted, k, bay, rfl⟩
  · rw [LaneWithout, State.bay_of_bays (State.endRead_bays _ _ _ _), State.lane_of_arb (State.endRead_arb _ _ _ _)]
    exact h
  · have other : r.bay ≠ b := fun e => h.1 (e ▸ mounted)
    have elsewhere : holderBay { Lane.reset with holder := some (.host k) } ≠ some b := fun e =>
      other (bay.symm.trans (Option.some.inj e))
    have begun : LaneWithout b n ((s.unlisted r.id).setBay r.bay { s.bay r.bay with fails := 0 }) := by
      refine ⟨?_, h.2⟩
      rw [State.bay_setBay_ne _ _ _ _ (Ne.symm other)]
      exact h.1
    exact begun.setLane m elsewhere

theorem LaneWithout.turnGiven {b a : Fin 8} {s : State} {n m : Fin 4} (item : WorkItem) (h : LaneWithout b n s)
    (eligible : s.bayEligible a = true) : LaneWithout b n (turnGiven s m a item) := by
  have mounted : (s.bay a).state = .mounted := by
    simp only [State.bayEligible, bayWantsLane, Bool.and_eq_true, decide_eq_true_eq] at eligible
    tauto
  have other : a ≠ b := fun e => h.1 (e ▸ mounted)
  have granted := h.setLane m (x := { Lane.reset with
    holder := some (.work a item)
    burst := if (s.bay a).health.mode = .normal then (Config.planRow s.arb.plan).burst else 1
    unit := some (s.loadState item), claim := some (claimOf item (s.loadState item).count) })
    fun e => other (Option.some.inj e)
  refine ⟨?_, granted.2⟩
  rw [Machine.turnGiven, State.bay_setBay_ne _ _ _ _ (Ne.symm other)]
  exact h.1

theorem LaneWithout.of_round {b : Fin 8} {n : Fin 4} {s t : State} (round : GrantRound s t) (h : LaneWithout b n s) :
    LaneWithout b n t := by
  induction round with
  | ends s => exact h
  | host s u t m r _ _ given _ ih => exact ih (h.hostGiven given)
  | bay s t m a item _ _ bay _ _ ih =>
    obtain ⟨-, -, -, eligible, -⟩ := bay
    exact ih (h.turnGiven item eligible)
end Sys2Proof.Machine
end

section
namespace Sys2Proof.Machine

theorem State.grants_laneWithout {b : Fin 8} {n : Fin 4} {s : State} (h : LaneWithout b n s) :
    LaneWithout b n s.grants := h.of_round s.grants_round

/-! ## A bay's lane is lost -/

theorem State.laneOf_holds {s : State} {b : Fin 8} {n : Fin 4} (h : s.laneOf b = some n) :
    holderBay (s.lane n) = some b := by
  simpa using List.find?_some h

theorem State.loseLane_host {s : State} {b : Fin 8} {n : Fin 4} {r : HostRead} (lane : s.laneOf b = some n)
    (holder : (s.lane n).holder = some (.host r)) :
    s.loseLane b = (s.freeLane n).endRead r.id .wrongState (.cardRead r.blocks 0 r.data) := by
  simp only [loseLane, lane, holder]

/-- A lane that has no acknowledgment to wait for is returned (R55; log 17). -/
theorem State.loseLane_arb {s : State} {b : Fin 8} {n : Fin 4} (lane : s.laneOf b = some n)
    (ack : (s.lane n).ack = none) : (s.loseLane b).arb = (s.freeLane n).arb := by
  have held := laneOf_holds lane
  unfold loseLane
  simp only [lane]
  split
  · exact State.endRead_arb _ _ _ _
  · simp [ack]
  · rename_i free
    simp [holderBay, free] at held

/-- Replies, and nothing else, join the log, and the reply of the request in hand is not lost (R167, R176). -/
def RepliesKept (s t : State) : Prop :=
  s.replyLog <+: t.replyLog ∧ ∀ k n, handOrphan s.lki k n = false → handOrphan t.lki k n = false

theorem RepliesKept.trans {s t u : State} (h : RepliesKept s t) (k : RepliesKept t u) : RepliesKept s u :=
  ⟨h.1.trans k.1, fun i n e => k.2 i n (h.2 i n e)⟩

theorem RepliesKept.of_lki {s t : State} (h : t.lki = s.lki) : RepliesKept s t := by
  simp [RepliesKept, State.replyLog, h]

theorem RepliesKept.grants (s : State) : RepliesKept s s.grants := by
  obtain ⟨-, -, -, -, -, -, -, replies, -, -, -, -, -, -, hand⟩ := GrantOnly.grants s
  exact ⟨replies, hand⟩

theorem RepliesKept.endRead (s : State) (i : Nat) (c : ReplyCode) (b : ReplyBody) : RepliesKept s (s.endRead i c b) := by
  obtain ⟨-, -, -, -, -, -, -, replies, -, -, -, -, -, -, hand⟩ := s.endRead_spec i c b
  exact ⟨replies, hand⟩

theorem RepliesKept.loseLane (s : State) (b : Fin 8) : RepliesKept s (s.loseLane b) := by
  have freed (n : Fin 4) : RepliesKept s (s.freeLane n) := of_lki rfl
  unfold State.loseLane
  split
  · exact of_lki rfl
  · split
    · exact (freed _).trans (endRead _ _ _ _)
    · split
      · exact of_lki rfl
      · exact freed _
    · exact of_lki rfl

theorem State.loseLane_wire (s : State) (b : Fin 8) : s.wire <+: (s.loseLane b).wire := by
  unfold loseLane
  split
  · exact List.prefix_rfl
  · rename_i n _
    split
    · exact (s.freeLane n).endRead_wire _ _ _
    · split <;> exact List.prefix_rfl
    · exact List.prefix_rfl

/-- The reply that a host card read has when its bay loses the lane. -/
theorem State.loseLane_reply {s : State} {b : Fin 8} {n : Fin 4} {r : HostRead} {e : CardRead}
    (lane : s.laneOf b = some n) (holder : (s.lane n).holder = some (.host r)) (read : s.read? r.id = some e)
    (whole : e.orphan = false) :
    s.replyLog ++ [⟨kindCardRead, e.tag, .wrongState, .cardRead r.blocks 0 r.data⟩] <+: (s.loseLane b).replyLog := by
  rw [loseLane_host lane holder]
  exact (s.freeLane n).endRead_replyLog r.id _ _ e read whole

theorem OnlyReads.loseCard (s : State) (b : Fin 8) (st : BayState) : OnlyReads b s (s.loseCard b st) := by
  obtain ⟨bays, pool, ports, jm, pending⟩ := State.loseLane_frame s b
  have lost : OnlyReads b s (s.loseLane b) := ⟨pool, ports, jm, pending, fun a _ => by rw [State.bay_of_bays bays]⟩
  exact lost.trans ((OnlyBay.setBay _ b _).trans (.send b _ _)).reads

theorem State.loseCard_bay (s : State) (b : Fin 8) (st : BayState) :
    (s.loseCard b st).bay b = bayWithoutCard (s.bay b) st := by
  rw [loseCard, send_bay, bay_setBay, bay_of_bays (loseLane_frame s b).1]

theorem State.loseCard_wire (s : State) (b : Fin 8) (st : BayState) :
    (s.loseCard b st).wire = (s.loseLane b).wire ++ [Instr.cardLostReport b] := rfl

/-! ## A mounted card is lost -/

/-- The loss of a mounted card, the search for grants still to come. -/
def State.cardGoes (s : State) (b : Fin 8) (seated : Bool) : State :=
  let t := ((s.loseCard b .empty).bayNotice b (.cardLost .mounted)).lampSet b
  let u := t.setBay b { t.bay b with cardPresent := seated }
  if seated then u.startProbe b else u

theorem State.cardLost_eq (s : State) (b : Fin 8) (seated : Bool) : s.cardLost b seated = (s.cardGoes b seated).grants :=
  rfl

theorem OnlyReads.cardGoes (s : State) (b : Fin 8) (seated : Bool) : OnlyReads b s (s.cardGoes b seated) := by
  have sensed (t : State) (x : Bay) : OnlyBay b t ((t.lampSet b).setBay b x) := (OnlyBay.lampSet t b).trans (.setBay _ b x)
  have lost := (OnlyReads.loseCard s b .empty).trans (OnlyBay.bayNotice _ b (.cardLost .mounted)).reads
  cases seated with
  | false => exact lost.trans (sensed _ _).reads
  | true => exact lost.trans ((sensed _ _).trans (.startProbe _ b)).reads

theorem State.cardGoes_bay (s : State) (b : Fin 8) (seated : Bool) : (s.cardGoes b seated).bay b =
    { bayWithoutCard (s.bay b) .empty with
      state := if seated then .probing else .empty, cardPresent := seated
      probeTimer := if seated then some 2 else (s.bay b).probeTimer, lamp := ((s.cardGoes b seated).bay b).lamp } := by
  cases seated with
  | false => simp [cardGoes, lampSet_bay, loseCard_bay, bayWithoutCard]
  | true => simp [cardGoes, startProbe_eq, bayChanges_bay, lampSet_bay, loseCard_bay, bayWithoutCard]

/-- Whether a card is sensed makes no difference to the lamp. -/
theorem lampRight_cardGoes (s : State) (b : Fin 8) (seated : Bool) : LampRight ((s.cardGoes b seated).bay b) := by
  cases seated with
  | false =>
    simp only [State.cardGoes, Bool.false_eq_true, if_false, State.bay_setBay]
    exact lampRight_lampSet _ b
  | true => exact lampRight_bayChanges _ b _ _

theorem State.cardGoes_wire (s : State) (b : Fin 8) (seated : Bool) : (s.cardGoes b seated).wire =
    (s.loseLane b).wire ++ ([Instr.cardLostReport b, .noticeQueued (.bay b (.cardLost .mounted) .empty (s.bay b).lock)] ++
      (if seated then [.noticeQueued (.bay b .insert .probing (s.bay b).lock)] else [])) := by
  cases seated with
  | false => simp [cardGoes, loseCard_bay, loseCard_wire, bayWithoutCard]
  | true => simp [cardGoes, startProbe_eq, bayChanges_wire, lampSet_bay, loseCard_bay, loseCard_wire, bayWithoutCard]

theorem State.cardGoes_arb (s : State) (b : Fin 8) (seated : Bool) :
    (s.cardGoes b seated).arb = (s.loseLane b).arb ∧ (s.cardGoes b seated).lki = (s.loseLane b).lki := by
  cases seated <;> exact ⟨rfl, rfl⟩
end Sys2Proof.Machine
end

section
namespace Sys2Proof.Machine

/-! ### After the search, and after what the bay gives up -/

theorem State.giveBackAll_bay (s : State) (gs : List Given) (b : Fin 8) : (s.giveBackAll gs).bay b = s.bay b :=
  bay_of_bays (giveBackAll_frame s gs).1 b

theorem State.wire_prefix_giveBackAll (s : State) (gs : List Given) : s.wire <+: (s.giveBackAll gs).wire := by
  obtain ⟨offers, e, -⟩ := s.giveBackAll_wire gs
  exact ⟨offers, e.symm⟩

theorem RepliesKept.giveBackAll (s : State) (gs : List Given) : RepliesKept s (s.giveBackAll gs) := by
  obtain ⟨-, -, -, -, lki, -⟩ := State.giveBackAll_frame s gs
  exact .of_lki lki

theorem Giving.imp {gs : List Given} {P Q : State → Prop} {t : State} (h : Giving gs P t) (k : ∀ u, P u → Q u) :
    Giving gs Q t := by
  obtain ⟨u, hu, given⟩ := h
  exact ⟨u, k u hu, given⟩

theorem OnlyReads.cardLost (s : State) (b : Fin 8) (seated : Bool) : OnlyReads b s (s.cardLost b seated) :=
  (OnlyReads.cardGoes s b seated).grants

theorem RepliesKept.cardLost (s : State) (b : Fin 8) (seated : Bool) : RepliesKept (s.loseLane b) (s.cardLost b seated) :=
  (RepliesKept.of_lki (State.cardGoes_arb s b seated).2).trans (.grants _)

theorem State.cardGoes_prefix (s : State) (b : Fin 8) (seated : Bool) :
    (s.cardGoes b seated).wire <+: (s.cardLost b seated).wire := grants_wire _

theorem State.wire_prefix_cardLost (s : State) (b : Fin 8) (seated : Bool) : s.wire <+: (s.cardLost b seated).wire :=
  (s.loseLane_wire b).trans ((cardGoes_wire s b seated ▸ List.prefix_append _ _ :
    (s.loseLane b).wire <+: (s.cardGoes b seated).wire).trans (s.cardGoes_prefix b seated))

theorem State.cardLost_bayCore (s : State) (b : Fin 8) (seated : Bool) : bayCore ((s.cardLost b seated).bay b) =
    bayCore { s.bay b with
      state := if seated then .probing else .empty, cardPresent := seated, sig := none, reading := none, repairs := []
      probeTimer := if seated then some 2 else (s.bay b).probeTimer, lamp := ((s.cardLost b seated).bay b).lamp
      health := { (s.bay b).health with mode := .normal, running := false, window := none, count := 0 } } := by
  rw [cardLost_eq, grants_bayCore_lamp, cardGoes_bay]
  rfl

theorem State.cardLost_reported (s : State) (b : Fin 8) (seated : Bool) :
    Instr.cardLostReport b ∈ (s.cardLost b seated).wire :=
  (s.cardGoes_prefix b seated).subset (by simp [cardGoes_wire])

/-- The lane that the bay has lost serves it no more, since a bay that is not MOUNTED is granted none. -/
theorem State.cardLost_lane {s : State} {b : Fin 8} {n : Fin 4} (seated : Bool) (lane : s.laneOf b = some n)
    (ack : (s.lane n).ack = none) : holderBay ((s.cardLost b seated).lane n) ≠ some b := by
  have arb := (cardGoes_arb s b seated).1.trans (loseLane_arb lane ack)
  have free : ((s.cardGoes b seated).lane n).holder = none := by
    rw [lane_of_arb arb, (freeLane_lane s n).1]
    rfl
  have unmounted : ((s.cardGoes b seated).bay b).state ≠ .mounted := by
    rw [cardGoes_bay]
    cases seated <;> simp
  exact (grants_laneWithout ⟨unmounted, by simp [holderBay, free]⟩).2

theorem State.cardLost_unawaited {s : State} {b : Fin 8} {n : Fin 4} (seated : Bool) (lane : s.laneOf b = some n)
    (ack : (s.lane n).ack = none) :
    (s.cardLost b seated).arb.unawaited = s.arb.unawaited ++ claimOut n (s.lane n) := by
  rw [cardLost_eq, grants_unawaited, (cardGoes_arb s b seated).1, loseLane_arb lane ack, (freeLane_lane s n).2.1]

/-! ## CARD_LOSS and CARD_LEAVES -/

theorem cardLoss_mounted {b : Fin 8} {seated : Bool} {s : State} (h : (s.bay b).state = .mounted) :
    exec (.cardLoss b seated) s = .next (s.losesCard b seated) := congrArg Host.Outcome.next (if_pos h)

theorem State.departure_mounted {b : Fin 8} {s : State} (h : (s.bay b).state = .mounted) :
    s.departure b = s.losesCard b false := by
  simp only [departure, h]

theorem State.departure_gone {b : Fin 8} {s : State} (h : (s.bay b).state = .probing ∨ (s.bay b).state = .faulted) :
    s.departure b = (s.setBay b { s.bay b with cardPresent := false }).bayChanges b
      { s.bay b with cardPresent := false, state := .empty, probeTimer := none } (.cardLost (s.bay b).state) := by
  rcases h with h | h <;> simp only [departure, h, cardGone_eq, bay_setBay]

theorem State.departure_absent {b : Fin 8} {s : State} (h : (s.bay b).state = .off ∨ (s.bay b).state = .empty) :
    s.departure b = s.setBay b { s.bay b with cardPresent := false } := by
  rcases h with h | h <;> simp only [departure, h]

/-- What is left of a bay without a mounted card when the card leaves its slot (R37; log 21). -/
theorem State.departure_spec {b : Fin 8} {s : State} (h : (s.bay b).state ≠ .mounted) : OnlyBay b s (s.departure b) ∧
    ((s.departure b).bay b).cardPresent = false ∧
    ((s.bay b).state = .probing ∨ (s.bay b).state = .faulted →
      (∃ lamp, (s.departure b).bay b =
        { s.bay b with cardPresent := false, state := .empty, probeTimer := none, lamp := lamp }) ∧
      LampRight ((s.departure b).bay b) ∧ (s.departure b).wire =
        s.wire ++ [Instr.noticeQueued (.bay b (.cardLost (s.bay b).state) .empty (s.bay b).lock)]) := by
  have sensed := OnlyBay.setBay s b { s.bay b with cardPresent := false }
  by_cases k : (s.bay b).state = .probing ∨ (s.bay b).state = .faulted
  · rw [departure_gone k]
    refine ⟨sensed.trans (.bayChanges _ b _ _), ?_, fun _ => ⟨⟨_, bayChanges_bay _ b _ _⟩, lampRight_bayChanges _ b _ _,
      bayChanges_wire _ b _ _⟩⟩
    rw [bayChanges_bay]
  · have absent : (s.bay b).state = .off ∨ (s.bay b).state = .empty := by
      cases e : (s.bay b).state <;> simp_all
    rw [departure_absent absent]
    exact ⟨sensed, by rw [bay_setBay], fun l => absurd l k⟩

/-- The bay's own record decides what a departure leaves of it. -/
theorem State.departure_bay_of_arrive {b : Fin 8} {s : State} (m : Instr) (h : (s.bay b).state ≠ .mounted) :
    ((s.arrive m).departure b).bay b = (s.departure b).bay b := by
  by_cases k : (s.bay b).state = .probing ∨ (s.bay b).state = .faulted
  · rw [departure_gone k, departure_gone (s := s.arrive m) k, bayChanges_bay, bayChanges_bay]
    rfl
  · have absent : (s.bay b).state = .off ∨ (s.bay b).state = .empty := by
      cases e : (s.bay b).state <;> simp_all
    rw [departure_absent absent, departure_absent (s := s.arrive m) absent, bay_setBay, bay_setBay]
    rfl

theorem cardLoss_spec (b : Fin 8) (seated : Bool) (s : State) (h : (s.bay b).state = .mounted) : ∃ t,
    exec (.cardLoss b seated) s = .next t ∧
    Giving (s.bayGiven b (fun _ => true)) (fun u => OnlyReads b s u ∧ s.wire <+: u.wire ∧
      Instr.cardLostReport b ∈ u.wire) t ∧
    (∀ n r e, s.laneOf b = some n → (s.lane n).holder = some (.host r) → s.read? r.id = some e → e.orphan = false →
      s.replyLog ++ [⟨kindCardRead, e.tag, .wrongState, .cardRead r.blocks 0 r.data⟩] <+: t.replyLog) ∧
    bayCore (t.bay b) = bayCore { s.bay b with
      state := if seated then .probing else .empty, cardPresent := seated, sig := none, reading := none, repairs := []
      probeTimer := if seated then some 2 else (s.bay b).probeTimer, lamp := (t.bay b).lamp
      health := { (s.bay b).health with mode := .normal, running := false, window := none, count := 0 } } ∧
    LampRight (t.bay b) ∧
    [Instr.cardLostReport b, .noticeQueued (.bay b (.cardLost .mounted) .empty (s.bay b).lock)] ++
      (if seated then [.noticeQueued (.bay b .insert .probing (s.bay b).lock)] else []) <:+: t.wire ∧
    (∀ n, s.laneOf b = some n → (s.lane n).ack = none → holderBay (t.lane n) ≠ some b) ∧
    (∀ n item c, s.laneOf b = some n → (s.lane n).holder = some (.work b item) → (s.lane n).ack = none →
      (s.lane n).claim = some c → t.arb.unawaited = s.arb.unawaited ++ [⟨.lane n b, c⟩]) := by
  refine ⟨_, cardLoss_mounted h, ?_⟩
  have bay := (s.cardLost b seated).giveBackAll_bay (s.bayGiven b fun _ => true) b
  obtain ⟨-, arb, -⟩ := (s.cardLost b seated).giveBackAll_frame (s.bayGiven b fun _ => true)
  have wire := (s.cardLost b seated).wire_prefix_giveBackAll (s.bayGiven b fun _ => true)
  have replies := (RepliesKept.cardLost s b seated).trans (.giveBackAll _ (s.bayGiven b fun _ => true))
  refine ⟨State.giveBackAll_giving _ _ _ ⟨.cardLost s b seated, s.wire_prefix_cardLost b seated,
    s.cardLost_reported b seated⟩, fun n r e lane holder read whole => ?_, ?_, ?_, ?_, fun n lane ack => ?_,
    fun n item c lane holder ack claim => ?_⟩
  · exact (State.loseLane_reply lane holder read whole).trans replies.1
  · rw [State.losesCard, bay]
    exact s.cardLost_bayCore b seated
  · rw [State.losesCard, bay]
    exact lampRight_grants (lampRight_cardGoes s b seated)
  · refine List.IsInfix.trans ?_ ((s.cardGoes_prefix b seated).trans wire).isInfix
    exact s.cardGoes_wire b seated ▸ (List.suffix_append _ _).isInfix
  · rw [State.losesCard, State.lane_of_arb arb]
    exact State.cardLost_lane seated lane ack
  · have out : claimOut n (s.lane n) = [⟨.lane n b, c⟩] := by simp [claimOut, holder, claim]
    rw [State.losesCard, arb, State.cardLost_unawaited seated lane ack, out]

theorem cardLeaves_mounted (b : Fin 8) (s : State) (h : (s.bay b).state = .mounted) :
    exec (.cardLeaves b) s = exec (.cardLoss b false) (s.arrive (.cardLeaves b)) := by
  have gone : (s.arrive (.cardLeaves b)).departure b = (s.arrive (.cardLeaves b)).losesCard b false :=
    State.departure_mounted h
  rw [cardLoss_mounted (s := s.arrive _) h, ← gone]
  rfl

theorem cardLeaves_spec (b : Fin 8) (s : State) (h : (s.bay b).state = .mounted) : ∃ u,
    exec (.cardLeaves b) s = .next u ∧ Giving (s.bayGiven b (fun _ => true)) (OnlyReads b s) u ∧
    (u.bay b).state = .empty ∧ (u.bay b).cardPresent = false ∧ (u.bay b).sig = none ∧
    Instr.cardLostReport b ∈ u.wire := by
  obtain ⟨u, e, given, -, core, -, reported, -⟩ := cardLoss_spec b false (s.arrive (.cardLeaves b)) h
  obtain ⟨-, state, present, sig, -⟩ := bayCore_fields core
  exact ⟨u, (cardLeaves_mounted b s h).trans e, given.imp fun _ k => k.1, state, present, sig,
    reported.subset (by simp)⟩

/-- Settles O26: a mounted card is lost in one way, whether its slot is left or not. -/
theorem cardLossEndsReads : Obligations.CardLossEndsReads := by
  refine ⟨cardLoss_spec, fun b s h => ⟨?_, s.departure b, (s.arrive (.cardLeaves b)).departure b, ?_, rfl, ?_⟩,
    cardLeaves_spec, cardLeaves_mounted⟩
  · exact congrArg Host.Outcome.next (if_neg h)
  · exact congrArg Host.Outcome.next (if_neg h)
  · obtain ⟨only, absent, gone⟩ := State.departure_spec h
    obtain ⟨only', -⟩ := State.departure_spec (s := s.arrive (.cardLeaves b)) h
    exact ⟨only, only', (State.departure_bay_of_arrive _ h).symm, absent, gone, fun k => State.departure_absent k⟩
end Sys2Proof.Machine
end

section
namespace Sys2Proof.Machine

/-! ## A bay's power -/

/-- A bay without power (R29). -/
def State.goesOff (s : State) (b : Fin 8) : State :=
  (s.setBay b { s.bay b with power := .off, state := .off, probeTimer := none }).lampSet b

theorem State.bayOff_mounted {s : State} {b : Fin 8} (h : (s.bay b).state = .mounted) :
    s.bayOff b = ((s.loseCard b .off).goesOff b).grants := by
  simp only [bayOff, h, goesOff]

theorem State.bayOff_unmounted {s : State} {b : Fin 8} (h : (s.bay b).state ≠ .mounted) :
    s.bayOff b = (s.goesOff b).grants := by
  unfold bayOff goesOff
  split
  · rename_i k
    exact absurd k h
  · rfl

theorem OnlyBay.goesOff (s : State) (b : Fin 8) : OnlyBay b s (s.goesOff b) := (setBay s b _).trans (lampSet _ b)

theorem State.goesOff_bay (s : State) (b : Fin 8) : (s.goesOff b).bay b =
    { s.bay b with power := .off, state := .off, probeTimer := none, lamp := .unlit } := by
  rw [goesOff, lampSet_bay_setBay, lampOf_off rfl]

theorem OnlyReads.bayOff (s : State) (b : Fin 8) : OnlyReads b s (s.bayOff b) := by
  by_cases h : (s.bay b).state = .mounted
  · rw [State.bayOff_mounted h]
    exact ((OnlyReads.loseCard s b .off).trans (OnlyBay.goesOff _ b).reads).grants
  · rw [State.bayOff_unmounted h]
    exact (OnlyBay.goesOff s b).reads.grants

theorem RepliesKept.bayOff (s : State) (b : Fin 8) : RepliesKept s (s.bayOff b) := by
  have off (t : State) : RepliesKept t (t.goesOff b).grants := (of_lki (t := t.goesOff b) rfl).trans (.grants _)
  by_cases h : (s.bay b).state = .mounted
  · rw [State.bayOff_mounted h]
    exact (loseLane s b).trans ((of_lki (t := s.loseCard b .off) rfl).trans (off _))
  · rw [State.bayOff_unmounted h]
    exact off s

theorem State.bayOff_bayCore {s : State} {b : Fin 8} (h : (s.bay b).state ≠ .mounted) : bayCore ((s.bayOff b).bay b) =
    bayCore { s.bay b with power := .off, state := .off, probeTimer := none, lamp := .unlit } := by
  rw [bayOff_unmounted h, grants_bayCore, goesOff_bay]

/-- A mounted card is lost when its bay loses power (R29). -/
theorem State.bayOff_bayCore_mounted {s : State} {b : Fin 8} (h : (s.bay b).state = .mounted) :
    bayCore ((s.bayOff b).bay b) = bayCore { s.bay b with
      power := .off, state := .off, probeTimer := none, lamp := .unlit, sig := none, reading := none, repairs := []
      health := { (s.bay b).health with mode := .normal, running := false, window := none, count := 0 } } := by
  rw [bayOff_mounted h, grants_bayCore, goesOff_bay, loseCard_bay]
  rfl

theorem State.bayOff_wire {s : State} {b : Fin 8} (h : (s.bay b).state = .mounted) :
    (s.loseLane b).wire ++ [Instr.cardLostReport b] <+: (s.bayOff b).wire := by
  rw [bayOff_mounted h]
  exact grants_wire ((s.loseCard b .off).goesOff b)

theorem State.bayOff_reply {s : State} {b : Fin 8} {n : Fin 4} {r : HostRead} {e : CardRead}
    (h : (s.bay b).state = .mounted) (lane : s.laneOf b = some n) (holder : (s.lane n).holder = some (.host r))
    (read : s.read? r.id = some e) (whole : e.orphan = false) :
    s.replyLog ++ [⟨kindCardRead, e.tag, .wrongState, .cardRead r.blocks 0 r.data⟩] <+: (s.bayOff b).replyLog := by
  rw [bayOff_mounted h]
  have off : RepliesKept (s.loseLane b) ((s.loseCard b .off).goesOff b) := .of_lki rfl
  exact (loseLane_reply lane holder read whole).trans (off.trans (.grants _)).1

theorem OnlyBay.bayOn (s : State) (b : Fin 8) : OnlyBay b s (s.bayOn b) := by
  have on := OnlyBay.setBay s b { s.bay b with power := .on, state := .empty }
  unfold State.bayOn
  split
  · exact on.trans (.startProbe _ b)
  · exact on.trans (.lampSet _ b)

theorem lampRight_bayOn (s : State) (b : Fin 8) : LampRight ((s.bayOn b).bay b) := by
  unfold State.bayOn
  split <;> exact lampRight_lampSet _ b

theorem State.bayOn_bay (s : State) (b : Fin 8) : (s.bayOn b).bay b = { s.bay b with
    power := .on, state := if (s.bay b).cardPresent then .probing else .empty
    probeTimer := if (s.bay b).cardPresent then some 2 else (s.bay b).probeTimer, lamp := ((s.bayOn b).bay b).lamp } := by
  cases card : (s.bay b).cardPresent with
  | true => simp [bayOn, startProbe_eq, bayChanges_bay, card]
  | false => simp [bayOn, lampSet_bay, card]

theorem State.bayOn_wire (s : State) (b : Fin 8) : (s.bayOn b).wire = s.wire ++
    (if (s.bay b).cardPresent then [Instr.noticeQueued (.bay b .insert .probing (s.bay b).lock)] else []) := by
  cases card : (s.bay b).cardPresent with
  | true => simp [bayOn, startProbe_eq, bayChanges_wire, card]
  | false => simp [bayOn, card]

/-! ### BAYPWR -/

theorem State.setBayPower_same {s : State} {b : Fin 8} {v : Power} (h : (s.bay b).power = v) : s.setBayPower b v = s :=
  if_pos h

theorem State.setBayPower_off {s : State} {b : Fin 8} (h : (s.bay b).power = .on) : s.setBayPower b .off = s.bayOff b :=
  if_neg (by simp [h])

theorem State.setBayPower_on {s : State} {b : Fin 8} (h : (s.bay b).power = .off) : s.setBayPower b .on = s.bayOn b :=
  if_neg (by simp [h])

theorem OnlyReads.setBayPower (s : State) (b : Fin 8) (v : Power) : OnlyReads b s (s.setBayPower b v) := by
  unfold State.setBayPower
  split
  · exact refl b s
  · cases v with
    | off => exact bayOff s b
    | on => exact (OnlyBay.bayOn s b).reads

theorem RepliesKept.setBayPower (s : State) (b : Fin 8) (v : Power) : RepliesKept s (s.setBayPower b v) := by
  unfold State.setBayPower
  split
  · exact of_lki rfl
  · cases v with
    | off => exact bayOff s b
    | on => exact of_lki (State.bayOn_frame s b).2.2.2.2.1

/-- A bay's power has been set, BAYPWR answered, and given up what the bay has of the pool. -/
def State.powered (s : State) (tag : Nat) (b : Fin 8) (v : Power) : State :=
  ((s.setBayPower b v).answer kindBaypwr tag .done .codeAlone).giveBackAll (s.powerGiven b v)

/-- Only a mounted card that is lost has anything to give up (R29; log 18). -/
theorem State.powerGiven_eq_nil {s : State} {b : Fin 8} {v : Power}
    (h : ¬ ((s.bay b).power = .on ∧ v = .off ∧ (s.bay b).state = .mounted)) : s.powerGiven b v = [] :=
  if_neg h

theorem State.powered_of_nil {s : State} {b : Fin 8} {v : Power} (tag : Nat) (h : s.powerGiven b v = []) :
    s.powered tag b v = (s.setBayPower b v).answer kindBaypwr tag .done .codeAlone := by
  rw [powered, h, giveBackAll_nil]

theorem State.powered_same {s : State} {b : Fin 8} {v : Power} (tag : Nat) (h : (s.bay b).power = v) :
    s.powered tag b v = s.answer kindBaypwr tag .done .codeAlone := by
  rw [powered_of_nil tag (powerGiven_eq_nil (by rintro ⟨on, rfl, -⟩; simp [on] at h)), setBayPower_same h]

theorem State.powered_bay (s : State) (tag : Nat) (b : Fin 8) (v : Power) (a : Fin 8) :
    (s.powered tag b v).bay a = (s.setBayPower b v).bay a := by
  rw [powered, giveBackAll_bay, bay_of_bays (answer_bays _ _ _ _ _)]

theorem State.powered_wire (s : State) (tag : Nat) (b : Fin 8) (v : Power) :
    (s.setBayPower b v).wire <+: (s.powered tag b v).wire :=
  (answer_wire _ _ _ _ _).trans (wire_prefix_giveBackAll _ _)

/-- What BAYPWR leaves of the other blocks and bays. -/
theorem State.powered_frame (s : State) (tag : Nat) (b : Fin 8) (v : Power) :
    (s.powered tag b v).ports = s.ports ∧ (s.powered tag b v).jm = s.jm ∧ (s.powered tag b v).pending = s.pending ∧
      ∀ a, a ≠ b → bayCore ((s.powered tag b v).bay a) = bayCore (s.bay a) := by
  obtain ⟨-, ports, jm, pending, others⟩ := OnlyReads.setBayPower s b v
  have given := ((s.setBayPower b v).answer kindBaypwr tag .done .codeAlone).giveBackAll_frame (s.powerGiven b v)
  obtain ⟨-, -, ports', jm', -, -, pending', -⟩ := given
  refine ⟨ports'.trans ((answer_ports _ _ _ _ _).trans ports), jm'.trans ((answer_jm _ _ _ _ _).trans jm),
    pending'.trans ((answer_pending _ _ _ _ _).trans pending), fun a e => ?_⟩
  rw [powered_bay]
  exact others a e

theorem State.powered_pool {s : State} {b : Fin 8} {v : Power} (tag : Nat) (h : s.powerGiven b v = []) :
    (s.powered tag b v).pool = s.pool := by
  rw [powered_of_nil tag h, answer_pool]
  exact (OnlyReads.setBayPower s b v).1

theorem Replies.powered (s : State) (tag : Nat) (b : Fin 8) (v : Power) :
    Replies s (s.powered tag b v) ⟨kindBaypwr, tag, .done, .codeAlone⟩ := by
  obtain ⟨added, hand⟩ := RepliesKept.setBayPower s b v
  intro whole
  obtain ⟨mid, answered⟩ := Replies.of_le added hand (State.answer_replies _ kindBaypwr tag .done .codeAlone) whole
  exact ⟨mid, answered.trans (RepliesKept.giveBackAll _ _).1⟩

theorem State.powered_replyLog (s : State) (tag : Nat) (b : Fin 8) (v : Power) :
    (s.setBayPower b v).replyLog <+: (s.powered tag b v).replyLog := by
  obtain ⟨-, -, -, -, -, -, -, answered, -⟩ := (s.setBayPower b v).answer_spec kindBaypwr tag .done .codeAlone
  exact answered.trans (RepliesKept.giveBackAll _ _).1
end Sys2Proof.Machine
end

section
namespace Sys2Proof.Machine

theorem powerOf_eq_none {n : Nat} : powerOf n = none ↔ n ≠ 1 ∧ n ≠ 2 := by
  unfold powerOf
  split <;> simp_all

theorem baypwr_badArg {tag bay power : Nat} (s : State) (h : 8 ≤ bay ∨ (power ≠ 1 ∧ power ≠ 2)) :
    exec (.baypwr tag bay power) s = .next ((s.arrive (.baypwr tag bay power)).refuse kindBaypwr tag .badArg) := by
  refine congrArg Host.Outcome.next ?_
  split
  · rename_i b v index value
    rcases h with h | h
    · rw [indexOf_eq_none.2 h] at index
      cases index
    · rw [powerOf_eq_none.2 h] at value
      cases value
  · rfl

theorem baypwr_bound {tag power : Nat} {b : Fin 8} {s : State} (off : powerOf power = some .off)
    (h : (s.bay b).job.isSome = true) : exec (.baypwr tag b.val power) s =
      .next ((s.arrive (.baypwr tag b.val power)).refuse kindBaypwr tag .wrongState) := by
  simp only [exec, execBaypwr, indexOf_eq_some.2 rfl, off, State.arrive_bay, h, and_self, if_true]

theorem baypwr_powers {tag power : Nat} {b : Fin 8} {v : Power} {s : State} (value : powerOf power = some v)
    (h : ¬ (v = .off ∧ (s.bay b).job.isSome = true)) :
    exec (.baypwr tag b.val power) s = .next ((s.arrive (.baypwr tag b.val power)).powered tag b v) := by
  simp only [exec, execBaypwr, indexOf_eq_some.2 rfl, value, State.arrive_bay, h, if_false, State.powered]

/-- BAYPWR off, taken from the state that its message has left (R29). -/
theorem powered_off_spec (s : State) (tag : Nat) (b : Fin 8) :
    ((s.bay b).power = .off → LinkOnly s (s.powered tag b .off)) ∧
    ((s.bay b).power = .on → (s.bay b).state ≠ .mounted → (s.powered tag b .off).pool = s.pool ∧
      bayCore ((s.powered tag b .off).bay b) =
        bayCore { s.bay b with power := .off, state := .off, probeTimer := none, lamp := .unlit }) ∧
    ((s.bay b).power = .on → (s.bay b).state = .mounted → Instr.cardLostReport b ∈ (s.powered tag b .off).wire ∧
      Giving (s.bayGiven b (fun _ => true)) (fun u => u.pool = s.pool ∧ u.jm = s.jm ∧ s.wire <+: u.wire ∧
        Instr.cardLostReport b ∈ u.wire) (s.powered tag b .off) ∧
      (∀ n r e, s.laneOf b = some n → (s.lane n).holder = some (.host r) → s.read? r.id = some e → e.orphan = false →
        s.replyLog ++ [⟨kindCardRead, e.tag, .wrongState, .cardRead r.blocks 0 r.data⟩] <+:
          (s.powered tag b .off).replyLog) ∧
      bayCore ((s.powered tag b .off).bay b) = bayCore { s.bay b with
        power := .off, state := .off, probeTimer := none, lamp := .unlit, sig := none, reading := none, repairs := []
        health := { (s.bay b).health with mode := .normal, running := false, window := none, count := 0 } }) := by
  refine ⟨fun off => ?_, fun on unmounted => ⟨?_, ?_⟩, fun on mounted => ?_⟩
  · rw [State.powered_same tag off]
    exact State.answer_spec _ _ _ _ _
  · exact State.powered_pool tag (State.powerGiven_eq_nil fun h => unmounted h.2.2)
  · rw [State.powered_bay, State.setBayPower_off on]
    exact State.bayOff_bayCore unmounted
  · have lost := State.bayOff_wire mounted
    have wire := s.powered_wire tag b .off
    have replies := s.powered_replyLog tag b .off
    have answered := (s.bayOff b).answer_wire kindBaypwr tag .done .codeAlone
    rw [State.setBayPower_off on] at wire replies
    have reported : Instr.cardLostReport b ∈ (s.bayOff b).wire := lost.subset (by simp)
    refine ⟨wire.subset reported, ?_, fun n r e lane holder read whole => ?_, ?_⟩
    · have given : s.powerGiven b .off = s.bayGiven b fun _ => true := if_pos ⟨on, rfl, mounted⟩
      obtain ⟨pool, -, jm, -⟩ := OnlyReads.bayOff s b
      rw [State.powered, given, State.setBayPower_off on]
      refine State.giveBackAll_giving _ _ _ ⟨(State.answer_pool _ _ _ _ _).trans pool,
        (State.answer_jm _ _ _ _ _).trans jm, ?_, answered.subset reported⟩
      exact (s.loseLane_wire b).trans ((List.prefix_append _ _).trans (lost.trans answered))
    · exact (State.bayOff_reply mounted lane holder read whole).trans replies
    · rw [State.powered_bay, State.setBayPower_off on]
      exact State.bayOff_bayCore_mounted mounted

/-- BAYPWR on (R30). -/
theorem powered_on_spec (s : State) (tag : Nat) (b : Fin 8) :
    (s.powered tag b .on).pool = s.pool ∧ ((s.bay b).power = .on → LinkOnly s (s.powered tag b .on)) ∧
    ((s.bay b).power = .off → s.wire ++ (if (s.bay b).cardPresent then
        [Instr.noticeQueued (.bay b .insert .probing (s.bay b).lock)] else []) <+: (s.powered tag b .on).wire) ∧
    ((s.bay b).power = .off → LampRight ((s.powered tag b .on).bay b) ∧ ∃ lamp, (s.powered tag b .on).bay b =
      { s.bay b with
        power := .on, state := if (s.bay b).cardPresent then .probing else .empty
        probeTimer := if (s.bay b).cardPresent then some 2 else (s.bay b).probeTimer, lamp := lamp }) := by
  refine ⟨State.powered_pool tag (State.powerGiven_eq_nil (by simp)), fun on => ?_, fun off => ?_, fun off => ?_⟩
  · rw [State.powered_same tag on]
    exact State.answer_spec _ _ _ _ _
  · have wire := s.powered_wire tag b .on
    rwa [State.setBayPower_on off, State.bayOn_wire] at wire
  · rw [State.powered_bay, State.setBayPower_on off]
    exact ⟨lampRight_bayOn s b, _, s.bayOn_bay b⟩
end Sys2Proof.Machine
end

section
namespace Sys2Proof.Machine

/-- Settles O13: a BAYPWR is refused, which changes no block, or the bay's power is set and the request answered. -/
theorem bayPowerSwitches : Obligations.BayPowerSwitches := by
  intro tag bay power s
  have refused (c : ReplyCode) := OnlyLink.answered s (.baypwr tag bay power) kindBaypwr tag c .codeAlone
  have replied (c : ReplyCode) := Replies.answered s (.baypwr tag bay power) kindBaypwr tag c .codeAlone
  by_cases bad : 8 ≤ bay ∨ (power ≠ 1 ∧ power ≠ 2)
  · obtain ⟨bays, arb, pool, ports, jm, pending⟩ := refused .badArg
    refine ⟨_, baypwr_badArg s bad, ports, jm, pending, fun _ => pool, fun a _ => congrArg bayCore (State.bay_of_bays bays a),
      fun _ => ⟨refused _, replied _⟩, fun b e => ?_⟩
    exact ⟨fun p => absurd bad (by omega), fun p => absurd bad (by omega), fun p => absurd bad (by omega)⟩
  · obtain ⟨b, rfl⟩ : ∃ b : Fin 8, bay = b.val := ⟨⟨bay, by omega⟩, rfl⟩
    have value : power = 1 ∨ power = 2 := by omega
    have other (a : Fin 8) (e : a.val ≠ b.val) : a ≠ b := fun k => e (congrArg Fin.val k)
    rcases value with rfl | rfl
    · by_cases bound : (s.bay b).job.isSome = true
      · obtain ⟨bays, arb, pool, ports, jm, pending⟩ := refused .wrongState
        refine ⟨_, baypwr_bound rfl bound, ports, jm, pending, fun _ => pool, fun a _ => congrArg bayCore (State.bay_of_bays bays a),
          fun k => absurd k bad, fun a e => ?_⟩
        obtain rfl : b = a := Fin.ext e
        exact ⟨fun _ _ => ⟨refused _, replied _⟩, fun _ free => by simp [free] at bound, fun p => by omega⟩
      · obtain ⟨ports, jm, pending, others⟩ := (s.arrive (.baypwr tag b.val 1)).powered_frame tag b .off
        obtain ⟨same, unmounted, mounted⟩ := powered_off_spec (s.arrive (.baypwr tag b.val 1)) tag b
        refine ⟨_, baypwr_powers rfl (fun k => bound k.2), ports, jm, pending, fun p => absurd rfl p,
          fun a e => others a (other a e), fun k => absurd k bad, fun a e => ?_⟩
        obtain rfl : b = a := Fin.ext e
        exact ⟨fun _ k => absurd k bound, fun _ _ => ⟨.of_lki (u := s.arrive _) rfl (.powered _ tag b .off),
          fun off => .of_linkOnly (s := s.arrive _) (same off), unmounted, mounted⟩, fun p => by omega⟩
    · obtain ⟨ports, jm, pending, others⟩ := (s.arrive (.baypwr tag b.val 2)).powered_frame tag b .on
      obtain ⟨pool, same, notice, switched⟩ := powered_on_spec (s.arrive (.baypwr tag b.val 2)) tag b
      refine ⟨_, baypwr_powers rfl (by simp), ports, jm, pending, fun _ => pool, fun a e => others a (other a e),
        fun k => absurd k bad, fun a e => ?_⟩
      obtain rfl : b = a := Fin.ext e
      exact ⟨fun p => by omega, fun p => by omega, fun _ => ⟨.of_lki (u := s.arrive _) rfl (.powered _ tag b .on),
        fun on => .of_linkOnly (s := s.arrive _) (same on), notice, switched⟩⟩
end Sys2Proof.Machine
end

section
namespace Sys2Proof.Machine

/-! ## What the link interface goes on to do -/

/-- Everything that one act of the link interface can be: a frame for a transfer of the host that waits, or the next transfer
taken (R167, R175). -/
theorem State.linkAct_cases {s t : State} (h : s.linkAct = some t) : s.lki.up = true ∧
    ((∃ u, s.lki.inWaiting ≠ 0 ∧ s.sendOne = some u ∧
        t = { u with lki := { u.lki with inWaiting := u.lki.inWaiting - 1 } }) ∨
      ∃ x rest, s.lki.receive = x :: rest ∧ mayTakeRequest s.lki = true ∧
        t = ({ s with lki := { s.lki with receive := rest } } : State).takeTransfer x) := by
  unfold linkAct at h
  split at h
  · cases h
  · rename_i up
    refine ⟨by simpa using up, ?_⟩
    split at h
    · rename_i u sends
      split at sends
      · cases sends
      · rename_i waits
        exact .inl ⟨u, waits, sends, (Option.some.inj h).symm⟩
    · split at h
      · rename_i x rest received
        split at h
        · rename_i may
          exact .inr ⟨x, rest, received, may, (Option.some.inj h).symm⟩
        · cases h
      · cases h

/-- Everything that a frame sent can be: the oldest ready reply, or the notice at the head (R175). -/
theorem State.sendOne_cases {s t : State} (h : s.sendOne = some t) :
    (∃ r rest, s.lki.ready = r :: rest ∧ t = { s with
      lki := { s.lki with
        ready := rest, reads := dropRead r.read s.lki.reads
        sent := s.lki.sent ++ [⟨.reply r.reply, messageBytes s.fresh (.reply r.reply)⟩] }
      fresh := s.fresh + 1 }) ∨
    ∃ n rest, s.lki.ready = [] ∧ s.lki.notices = n :: rest ∧ t = { s with
      lki := { s.lki with
        notices := rest, sent := s.lki.sent ++ [⟨.notice n, messageBytes s.fresh (.notice n)⟩] }
      fresh := s.fresh + 1 } := by
  unfold sendOne at h
  split at h
  · rename_i r rest ready
    exact .inl ⟨r, rest, ready, (Option.some.inj h).symm⟩
  · rename_i ready
    split at h
    · rename_i n rest notices
      exact .inr ⟨n, rest, ready, notices, (Option.some.inj h).symm⟩
    · cases h

/-- The reply that refuses a transfer which is no request (R166). -/
def RefusesTransfer (x : Reply) : Prop := x.code = .malformed ∨ x.code = .unknownKind

theorem parseFrame_refuse {t : List Byte} {kind tag : Nat} {code : ReplyCode} (h : parseFrame t = .refuse kind tag code) :
    code = .malformed ∨ code = .unknownKind := by
  unfold parseFrame at h
  dsimp only at h
  repeat' split at h
  all_goals cases h <;> simp

theorem dropRead_sublist (read : Option Nat) (reads : List CardRead) : (dropRead read reads).Sublist reads := by
  cases read with
  | none => exact List.Sublist.refl _
  | some id => exact List.filter_sublist

/-- The limits of the link interface hold where it has no more notices, reads and transfers than before. -/
theorem LinkOk.of_less {s t : State} (h : LinkOk s) (up : t.lki.up = s.lki.up) (next : t.lki.nextRead = s.lki.nextRead)
    (notices : t.lki.notices.length ≤ s.lki.notices.length) (reads : t.lki.reads.Sublist s.lki.reads)
    (receive : s.lki.receive = [] → t.lki.receive = []) (inWaiting : t.lki.inWaiting ≤ s.lki.inWaiting) : LinkOk t := by
  obtain ⟨few, four, apart, below, down⟩ := h
  refine ⟨notices.trans few, reads.length_le.trans four, apart.sublist (reads.map _),
    fun r m => next ▸ below r (reads.subset m), fun d => ?_⟩
  obtain ⟨noTransfer, noneWaits, noNotice⟩ := down (up ▸ d)
  refine ⟨receive noTransfer, by omega, List.length_eq_zero_iff.1 ?_⟩
  rw [noNotice] at notices
  exact Nat.le_zero.1 notices

/-- Between two states the link interface has gone on with what it has: its limits are kept, the request in hand keeps its
reply, and the replies that have joined the log answer host card reads that have ended, or refuse transfers that waited. -/
def LinkGoesOn (s t : State) : Prop :=
  (LinkOk s → LinkOk t) ∧ (∀ k n, handOrphan t.lki k n = handOrphan s.lki k n) ∧
    (s.lki.receive = [] → t.lki.receive = []) ∧
    ∃ xs, t.replyLog = s.replyLog ++ xs ∧
      ∀ x ∈ xs, x.kind = kindCardRead ∨ (s.lki.receive ≠ [] ∧ RefusesTransfer x)

theorem LinkGoesOn.of_lki {s t : State} (h : t.lki = s.lki) : LinkGoesOn s t := by
  refine ⟨fun k => ?_, fun k n => by rw [h], fun r => h ▸ r, [], by simp [State.replyLog, h], by simp⟩
  simpa [LinkOk, h] using k

theorem LinkGoesOn.refl (s : State) : LinkGoesOn s s := of_lki rfl

theorem LinkGoesOn.trans {s t u : State} (h : LinkGoesOn s t) (k : LinkGoesOn t u) : LinkGoesOn s u := by
  obtain ⟨ok, hand, receive, xs, log, each⟩ := h
  obtain ⟨ok', hand', receive', ys, log', each'⟩ := k
  refine ⟨fun o => ok' (ok o), fun i n => (hand' i n).trans (hand i n), fun r => receive' (receive r), xs ++ ys,
    by rw [log', log, List.append_assoc], fun x m => ?_⟩
  rcases List.mem_append.1 m with m | m
  · exact each x m
  · exact (each' x m).imp_right fun ⟨w, r⟩ => ⟨fun e => w (receive e), r⟩

theorem LinkGoesOn.then_lki {s t u : State} (h : LinkGoesOn s t) (k : u.lki = t.lki) : LinkGoesOn s u := h.trans (of_lki k)

theorem LinkGoesOn.sendOne {s t : State} (h : s.sendOne = some t) : LinkGoesOn s t := by
  obtain ⟨-, -, -, -, -, -, -, log, receive, up, hand, -⟩ := State.sendOne_spec h
  refine ⟨fun ok => ?_, fun k n => by rw [handOrphan, hand, handOrphan], fun r => receive.trans r, [], by simp [log], by simp⟩
  rcases State.sendOne_cases h with ⟨r, rest, -, rfl⟩ | ⟨n, rest, -, notices, rfl⟩
  · exact ok.of_less rfl rfl (le_refl _) (dropRead_sublist _ _) id (le_refl _)
  · exact ok.of_less rfl rfl (by simp [notices]) (List.Sublist.refl _) id (le_refl _)

/-- A transfer is taken only while no request is in hand (R167). -/
theorem LinkGoesOn.takeTransfer {s : State} {x : List Byte} {rest : List (List Byte)} (received : s.lki.receive = x :: rest)
    (may : mayTakeRequest s.lki = true) :
    LinkGoesOn s (({ s with lki := { s.lki with receive := rest } } : State).takeTransfer x) := by
  have free : s.lki.inHand = none := by
    simp only [mayTakeRequest, Bool.and_eq_true, Option.isNone_iff_eq_none] at may
    exact may.1.2
  have waits : s.lki.receive ≠ [] := by simp [received]
  unfold State.takeTransfer
  split
  · rename_i kind tag code refused
    refine ⟨fun ok => ok.of_less rfl rfl (le_refl _) (.refl _) (fun e => absurd e waits) (le_refl _), fun _ _ => rfl,
      fun e => absurd e waits, [⟨kind, tag, code, .codeAlone⟩], by simp [State.replyLog], fun y m => ?_⟩
    rw [List.mem_singleton.1 m]
    exact .inr ⟨waits, parseFrame_refuse refused⟩
  · refine ⟨fun ok => ok.of_less rfl rfl (le_refl _) (.refl _) (fun e => absurd e waits) (le_refl _), fun _ _ => ?_,
      fun e => absurd e waits, [], by simp [State.replyLog], by simp⟩
    simp [handOrphan, free]

theorem LinkGoesOn.linkAct {s t : State} (h : s.linkAct = some t) : LinkGoesOn s t := by
  obtain ⟨-, ⟨u, -, sends, rfl⟩ | ⟨x, rest, received, may, rfl⟩⟩ := State.linkAct_cases h
  · refine (sendOne sends).trans ⟨fun ok => ?_, fun _ _ => rfl, id, [], by simp [State.replyLog], by simp⟩
    exact ok.of_less rfl rfl (le_refl _) (.refl _) id (Nat.sub_le _ _)
  · exact takeTransfer received may

theorem LinkGoesOn.linkActs (n : Nat) (s : State) : LinkGoesOn s (State.linkActs n s) := by
  induction n generalizing s with
  | zero => exact refl s
  | succ n ih =>
    unfold State.linkActs
    split
    · rename_i t acts
      exact (linkAct acts).trans (ih t)
    · exact refl s

theorem LinkGoesOn.linkSettle (s : State) : LinkGoesOn s s.linkSettle := linkActs _ s

/-- A reply of a host card read joins the ready replies (R58). -/
theorem LinkGoesOn.joinReady (s : State) (id : Option Nat) (tag : Nat) (c : ReplyCode) (b : ReplyBody) :
    LinkGoesOn s (s.joinReady ⟨id, ⟨kindCardRead, tag, c, b⟩⟩) :=
  ⟨fun ok => ok.of_less rfl rfl (le_refl _) (.refl _) (fun e => e) (le_refl _), fun _ _ => rfl, fun e => e,
    [⟨kindCardRead, tag, c, b⟩], by simp [State.replyLog], by simp⟩

theorem LinkGoesOn.endRead (s : State) (i : Nat) (c : ReplyCode) (b : ReplyBody) : LinkGoesOn s (s.endRead i c b) := by
  unfold State.endRead
  split
  · exact refl s
  · split
    · exact ⟨fun ok => ok.of_less rfl rfl (le_refl _) (dropRead_sublist (some i) s.lki.reads) id (le_refl _),
        fun _ _ => rfl, id, [],
        by simp [State.replyLog], by simp⟩
    · exact (joinReady s _ _ _ _).trans (linkSettle _)

theorem LinkGoesOn.hostGiven {s u : State} {n : Fin 4} {r : CardRead} (given : HostGiven s u n r) : LinkGoesOn s u := by
  have unlisted : LinkGoesOn s (s.unlisted r.id) := of_lki rfl
  rcases given.ends_or_holds with ⟨c, body, rfl⟩ | ⟨-, h, -, rfl⟩
  · exact unlisted.trans (endRead _ _ _ _)
  · exact of_lki rfl

/-- A search for grants ends the host card reads that cannot be served (R52, R58). -/
theorem LinkGoesOn.of_round {s t : State} (h : GrantRound s t) : LinkGoesOn s t := by
  induction h with
  | ends s => exact refl s
  | host s u t n r _ _ given _ ih => exact (hostGiven given).trans ih
  | bay s t n b item _ _ _ _ _ ih => exact (of_lki (t := turnGiven s n b item) rfl).trans ih

theorem LinkGoesOn.grants {s t : State} (h : LinkGoesOn s t) : LinkGoesOn s t.grants := h.trans (of_round t.grants_round)

theorem LinkGoesOn.returnLane {s t : State} (h : LinkGoesOn s t) (n : Fin 4) : LinkGoesOn s (t.returnLane n) :=
  (h.then_lki (t.freeLane_frame n).2.2.2.2.1).grants

theorem LinkGoesOn.giveBackAll {s t : State} (h : LinkGoesOn s t) (gs : List Given) : LinkGoesOn s (t.giveBackAll gs) :=
  h.then_lki (by simp)

theorem LinkGoesOn.hostEnds {s t : State} (h : LinkGoesOn s t) (n : Fin 4) (r : HostRead) (c : ReplyCode) (k : Nat) :
    LinkGoesOn s (t.hostEnds n r c k) :=
  ((h.then_lki (t.freeLane_frame n).2.2.2.2.1).trans (endRead _ _ _ _)).grants

end Sys2Proof.Machine
end

section
namespace Sys2Proof.Machine

/-! ## The commands of the job manager and of the ports -/

/-- The block that takes a command is the job manager, which works on its records and sends messages. -/
def WorksOnJobs (c : Instr) : Prop := ∀ s, ∃ t, exec c s = .next t ∧ JobOnly (s.arrive c) t

/-! ### Reports to the job manager -/

theorem pendingSetQuestion_worksOnJobs (i : Nat) (c : ClaimId) : WorksOnJobs (.pendingSetQuestion i c) :=
  fun _ => ⟨_, rfl, .send _ _⟩

theorem mountReport_worksOnJobs (b : Fin 8) (g : CardSig) : WorksOnJobs (.mountReport b g) := by
  refine fun s => ⟨_, rfl, ?_⟩
  generalize s.arrive (.mountReport b g) = t
  have taken : JobOnly t ((t.setView b { t.view b with sig := some g }).evalClear b) :=
    (JobOnly.setView _ _ _).trans (.evalClear _ _)
  split
  · split
    · exact taken.trans (.admissionPoint _ _)
    · exact taken
  · exact taken

theorem cardLostReport_worksOnJobs (b : Fin 8) : WorksOnJobs (.cardLostReport b) := by
  refine fun s => ⟨_, rfl, JobOnly.trans ?_ (.afterRepairs _ _)⟩
  generalize s.arrive (.cardLostReport b) = t
  dsimp only
  have lost : JobOnly t ((t.setView b { t.view b with sig := none }).loseReading b) :=
    (JobOnly.setView _ _ _).trans (.loseReading _ _)
  generalize (t.setView b { t.view b with sig := none }).loseReading b = u at lost
  have cleared : JobOnly t (((u.view b).repairs.foldl (State.loseRepair b) u).evalClear b) :=
    lost.trans ((JobOnly.foldl _ (JobOnly.loseRepair b) _ _).trans (.evalClear _ _))
  split
  · exact cleared.trans (.admissionPoint _ _)
  · exact cleared

theorem burstEndReport_worksOnJobs (item : WorkItem) (d : DigestState) : WorksOnJobs (.burstEndReport item d) := by
  refine fun s => ⟨_, rfl, .unlessLate _ _ _ ?_⟩
  cases item with
  | clip c => exact .storeClip _ _ _
  | repair c p => exact .storeRepair _ _ _ _

theorem blockSubstitution_worksOnJobs (clip block : Nat) : WorksOnJobs (.blockSubstitution clip block) := by
  refine fun s => ⟨_, rfl, .unlessLate _ _ _ ?_⟩
  split
  · exact .modClip _ _ _ fun _ h => h
  · exact .refl _

theorem readCompletion_worksOnJobs (n : Fin 4) (clip : Nat) (d : DigestState) : WorksOnJobs (.readCompletion n clip d) := by
  refine fun s => ⟨_, rfl, (JobOnly.send _ _).trans (.unlessLate _ _ _ ?_)⟩
  split
  · exact (JobOnly.completeRead _ _ _).trans (.jobPoint _ _)
  · exact .refl _

theorem mediaFailure_worksOnJobs (clip : Nat) : WorksOnJobs (.mediaFailure clip) := by
  refine fun s => ⟨_, rfl, .unlessLate _ _ _ ?_⟩
  split
  · exact (JobOnly.failClip _ _ _ _).trans (.jobPoint _ _)
  · exact .refl _

theorem repairReadCompletion_worksOnJobs (n : Fin 4) (clip : Nat) (p : Fin 4) (d : Digest) :
    WorksOnJobs (.repairReadCompletion n clip p d) := by
  refine fun s => ⟨_, rfl, (JobOnly.send _ _).trans (.unlessLate _ _ _ ?_)⟩
  split
  · split
    · refine JobOnly.trans ?_ (.afterRepairs _ _)
      split
      · exact (JobOnly.repairGone _ _ _).trans (.modCopy _ _ _ _)
      · exact (JobOnly.repairGone _ _ _).trans (.cardFails _ _ _)
    · exact .refl _
  · exact .refl _

theorem repairSourceFailure_worksOnJobs (clip : Nat) (p : Fin 4) : WorksOnJobs (.repairSourceFailure clip p) := by
  refine fun s => ⟨_, rfl, .unlessLate _ _ _ ?_⟩
  split
  · split
    · exact ((JobOnly.repairGone _ _ _).trans (.cardFails _ _ _)).trans (.afterRepairs _ _)
    · exact .refl _
  · exact .refl _

theorem siblingReadCompletion_worksOnJobs (p : Fin 4) (clip : Nat) (rp : Fin 4) (d : Option Digest) :
    WorksOnJobs (.siblingReadCompletion p clip rp d) := by
  refine fun s => ⟨_, rfl, ?_⟩
  split
  · split
    · split
      · exact (JobOnly.send _ _).trans (.modCopy _ _ _ _)
      · exact (JobOnly.send _ _).trans (.siblingFails _ _ _ _)
    · exact .send _ _
  · exact .send _ _

/-! ### Admission -/

theorem holdAnswer_worksOnJobs (p : Fin 4) (clip : Nat) (x : HoldAnswer) : WorksOnJobs (.holdAnswer p clip x) := by
  refine fun s => ⟨_, rfl, ?_⟩
  split
  · split
    · exact .takeAnswer _ _ _ _ _
    · exact .refl _
  · exact .refl _

theorem confirmationAnswer_worksOnJobs (p : Fin 4) (clip : Nat) (x : ConfirmAnswer) :
    WorksOnJobs (.confirmationAnswer p clip x) := by
  refine fun s => ⟨_, rfl, ?_⟩
  split
  · exact .refl _
  · split
    · split
      · exact .takeConfirm _ _ _ _ _
      · exact .refl _
    · exact .refl _

/-! ### Reports of the ports -/

theorem extentWriteCompletion_worksOnJobs (p : Fin 4) (clip : Nat) (purpose : Purpose) (seq : Nat) :
    WorksOnJobs (.extentWriteCompletion p clip purpose seq) := by
  refine fun s => ⟨_, rfl, ?_⟩
  split
  · split
    · exact .appendTrailer _ _ _
    · exact .refl _
  · exact .refl _

theorem trailerWriteCompletion_worksOnJobs (p : Fin 4) (clip : Nat) : WorksOnJobs (.trailerWriteCompletion p clip) := by
  refine fun s => ⟨_, rfl, ?_⟩
  split
  · split
    · exact (JobOnly.trailerWritten _ _ _).trans (.afterRepairs _ _)
    · exact .refl _
  · exact .refl _

theorem writeFailureReport_worksOnJobs (p : Fin 4) (clip : Nat) : WorksOnJobs (.writeFailureReport p clip) := by
  refine fun s => ⟨_, rfl, ?_⟩
  split
  · split
    · exact (((JobOnly.endRepairRead _ _ _).trans (.failCopy _ _ _ _)).trans (.decideClip _ _)).trans
        (.afterRepairs _ _)
    · exact .refl _
  · exact .refl _

theorem verifyStart_worksOnJobs (p : Fin 4) (clip : Nat) : WorksOnJobs (.verifyStart p clip) := by
  refine fun s => ⟨_, rfl, ?_⟩
  split
  · split
    · exact .modCopy _ _ _ _
    · exact .refl _
  · exact .refl _

theorem verifyDigestReport_worksOnJobs (p : Fin 4) (clip : Nat) (d : Option Digest) :
    WorksOnJobs (.verifyDigestReport p clip d) := by
  refine fun s => ⟨_, rfl, ?_⟩
  split
  · split
    · exact .modCopy _ _ _ _
    · exact .refl _
  · exact .refl _

theorem verifyCompletion_worksOnJobs (p : Fin 4) (clip : Nat) (passed : Bool) :
    WorksOnJobs (.verifyCompletion p clip passed) := by
  refine fun s => ⟨_, rfl, ?_⟩
  split
  · split
    · split
      · exact (JobOnly.modCopy _ _ _ _).trans (.decideClip _ _)
      · exact .mismatchCopy _ _ _
    · exact .refl _
  · exact .refl _

theorem areaInstalledReport_worksOnJobs (p : Fin 4) : WorksOnJobs (.areaInstalledReport p) :=
  fun _ => ⟨_, rfl, .portPoints _ _ _⟩

theorem driveLossReport_worksOnJobs (p : Fin 4) : WorksOnJobs (.driveLossReport p) :=
  fun _ => ⟨_, rfl, .reSourceAll _ _⟩

theorem driveReturnReport_worksOnJobs (p : Fin 4) : WorksOnJobs (.driveReturnReport p) :=
  fun _ => ⟨_, rfl, .portPoints _ _ _⟩

theorem graceExpiryReport_worksOnJobs (p : Fin 4) : WorksOnJobs (.graceExpiryReport p) :=
  fun _ => ⟨_, rfl, (JobOnly.portFailsAll _ _ _).trans (.afterRepairs _ _)⟩

theorem portFaultReport_worksOnJobs (p : Fin 4) : WorksOnJobs (.portFaultReport p) :=
  fun _ => ⟨_, rfl, ((JobOnly.portFailsAll _ _ _).trans (.reSourceAll _ _)).trans (.afterRepairs _ _)⟩

theorem roomFreedReport_worksOnJobs (p : Fin 4) (clip : Nat) : WorksOnJobs (.roomFreedReport p clip) := by
  refine fun s => ⟨_, rfl, ?_⟩
  split
  · exact .portPoints _ _ _
  · exact .refl _


/-- Work of the ports leaves the bays, the arbiter, the job manager, the link interface, the queue and the pool's window as
they are. -/
def PortsOnly (s t : State) : Prop :=
  t.bays = s.bays ∧ t.arb = s.arb ∧ t.jm = s.jm ∧ t.lki = s.lki ∧ t.pending = s.pending ∧ t.pool.window = s.pool.window

theorem PortsOnly.refl (s : State) : PortsOnly s s := ⟨rfl, rfl, rfl, rfl, rfl, rfl⟩

theorem PortsOnly.trans {s t u : State} (h : PortsOnly s t) (k : PortsOnly t u) : PortsOnly s u := by
  obtain ⟨bays, arb, jm, lki, pending, window⟩ := h
  obtain ⟨bays', arb', jm', lki', pending', window'⟩ := k
  exact ⟨bays'.trans bays, arb'.trans arb, jm'.trans jm, lki'.trans lki, pending'.trans pending, window'.trans window⟩

/-- Ports' records and messages in transit have changed. -/
theorem PortsOnly.work {s : State} {ports : Vector Port 4} {wire : List Instr} :
    PortsOnly s { s with ports := ports, wire := wire } := ⟨rfl, rfl, rfl, rfl, rfl, rfl⟩

theorem PortsOnly.arrive (s : State) (m : Instr) : PortsOnly s (s.arrive m) := work

theorem PortsOnly.runLink {s t : State} (h : PortsOnly s t) (p : Fin 4) : PortsOnly s (t.runLink p) :=
  h.trans (by simp [PortsOnly])

theorem PortsOnly.giveBack {s t : State} (h : PortsOnly s t) (a : Option SetAside) (r : Requester) (c : ClaimId)
    (i : Option Nat) : PortsOnly s (t.giveBack a r c i) :=
  h.trans (by simp [PortsOnly])

theorem PortsOnly.giveBackAll {s t : State} (h : PortsOnly s t) (gs : List Given) : PortsOnly s (t.giveBackAll gs) :=
  h.trans (by simp [PortsOnly])

/-- The block that takes a command is a port, or its verify engine. -/
def WorksOnPorts (c : Instr) : Prop := ∀ s, ∃ t, exec c s = .next t ∧ PortsOnly s t

/-! ### Ports: holds, placements, queues -/

theorem holdEnquiry_worksOnPorts (p : Fin 4) (clip length : Nat) : WorksOnPorts (.holdEnquiry p clip length) :=
  fun _ => ⟨_, rfl, .work⟩

theorem holdConfirmation_worksOnPorts (p : Fin 4) (clip : Nat) : WorksOnPorts (.holdConfirmation p clip) :=
  fun _ => ⟨_, rfl, .work⟩

theorem holdWithdrawal_worksOnPorts (p : Fin 4) (clip : Nat) : WorksOnPorts (.holdWithdrawal p clip) := by
  refine fun s => ⟨_, rfl, ?_⟩
  dsimp only
  split <;> exact .work

theorem placementClose_worksOnPorts (p : Fin 4) (clip : Nat) : WorksOnPorts (.placementClose p clip) :=
  fun _ => ⟨_, rfl, .work⟩

theorem runAbandonment_worksOnPorts (p : Fin 4) (clip : Nat) : WorksOnPorts (.runAbandonment p clip) :=
  fun _ => ⟨_, rfl, .work⟩

theorem extentAppend_worksOnPorts (p : Fin 4) (i : Nat) (c : ClaimId) (n : Nat) :
    WorksOnPorts (.extentAppend p i c n) := by
  refine fun s => ⟨_, rfl, ?_⟩
  split
  · exact .runLink .work p
  · exact .work

theorem trailerAppend_worksOnPorts (p : Fin 4) (clip : Nat) (f : TrailerFields) :
    WorksOnPorts (.trailerAppend p clip f) := by
  refine fun s => ⟨_, rfl, ?_⟩
  split
  · exact .runLink .work p
  · exact .arrive s _

theorem extentRemoval_worksOnPorts (p : Fin 4) (i : Nat) (c : ClaimId) : WorksOnPorts (.extentRemoval p i c) :=
  fun _ => ⟨_, rfl, .runLink .work p⟩

theorem trailerRemoval_worksOnPorts (p : Fin 4) (clip : Nat) : WorksOnPorts (.trailerRemoval p clip) :=
  fun _ => ⟨_, rfl, .runLink .work p⟩

theorem verifyAppend_worksOnPorts (p : Fin 4) (e : VerifyEntry) : WorksOnPorts (.verifyAppend p e) := by
  refine fun s => ⟨_, rfl, ?_⟩
  split
  · exact .runLink .work p
  · exact .arrive s _

theorem siblingAppend_worksOnPorts (p : Fin 4) (e : VerifyEntry) : WorksOnPorts (.siblingAppend p e) := by
  refine fun s => ⟨_, rfl, ?_⟩
  split
  · exact .runLink .work p
  · exact .arrive s _

theorem removeVerify_portsOnly (s : State) (p : Fin 4) (hit : VerifyEntry → Bool) : PortsOnly s (s.removeVerify p hit) := by
  simp [PortsOnly]

theorem verifyRemoval_worksOnPorts (p : Fin 4) (clip : Nat) : WorksOnPorts (.verifyRemoval p clip) :=
  fun s => ⟨_, rfl, .trans (.arrive s _) (removeVerify_portsOnly _ _ _)⟩

theorem siblingCancel_worksOnPorts (p : Fin 4) (clip : Nat) (rp : Fin 4) : WorksOnPorts (.siblingCancel p clip rp) :=
  fun s => ⟨_, rfl, .giveBackAll (.trans (.arrive s _) (removeVerify_portsOnly _ _ _)) _⟩

theorem siblingOffer_worksOnPorts (p : Fin 4) (i : Nat) (c : ClaimId) : WorksOnPorts (.siblingOffer p i c) := by
  refine fun s => ⟨_, rfl, ?_⟩
  dsimp only
  split
  · exact .runLink .work p
  · exact .giveBack (.arrive s _) _ _ _ _

theorem siblingCompletionAck_worksOnPorts (p : Fin 4) (clip : Nat) (rp : Fin 4) :
    WorksOnPorts (.siblingCompletionAck p clip rp) := by
  refine fun s => ⟨_, rfl, ?_⟩
  split
  · split
    · exact .giveBackAll (.runLink .work p) _
    · exact .arrive s _
  · exact .arrive s _

/-! ### Ports: drives -/

theorem driveConnected_worksOnPorts (p : Fin 4) : WorksOnPorts (.driveConnected p) :=
  fun _ => ⟨_, rfl, by simp [PortsOnly]⟩

theorem identFails_portsOnly (s : State) (p : Fin 4) : PortsOnly s (s.identFails p) := by simp [PortsOnly]

theorem takeIdentity_portsOnly (s : State) (p : Fin 4) (d : DriveId) : PortsOnly s (s.takeIdentity p d) := by
  unfold State.takeIdentity
  split
  · exact .work
  · split
    · simp [PortsOnly]
    · exact identFails_portsOnly s p
  · exact identFails_portsOnly s p

theorem driveIdentified_worksOnPorts (x : IdentEnd) (answer : Option DriveId) : WorksOnPorts (.driveIdentified x answer) := by
  refine fun s => ⟨_, rfl, ?_⟩
  split
  · split
    · exact takeIdentity_portsOnly s _ _
    · exact identFails_portsOnly s _
  · exact .refl s

theorem identTimerExpiry_worksOnPorts (x : IdentEnd) : WorksOnPorts (.identTimerExpiry x) := by
  refine fun s => ⟨_, rfl, ?_⟩
  split
  · exact identFails_portsOnly s _
  · exact .refl s

theorem driveLost_portsOnly (s : State) (p : Fin 4) : PortsOnly s (s.driveLost p) := by simp [PortsOnly]

theorem driveLoss_worksOnPorts (p : Fin 4) (connected : Bool) : WorksOnPorts (.driveLoss p connected) :=
  fun s => ⟨_, rfl, .giveBackAll (.trans (t := s.setPort p _) .work (driveLost_portsOnly _ p)) _⟩

theorem graceTimerExpiry_worksOnPorts (p : Fin 4) : WorksOnPorts (.graceTimerExpiry p) := by
  refine fun s => ⟨_, rfl, ?_⟩
  split
  · simp [PortsOnly]
  · exact .refl s

theorem writeDone_portsOnly (s : State) (p : Fin 4) (e : WriteEntry) : PortsOnly s (s.writeDone p e) := by
  cases e <;> exact .work

theorem writeCompletion_worksOnPorts (x : WriteAnswer) : WorksOnPorts (.writeCompletion x) := by
  refine fun s => ⟨_, rfl, ?_⟩
  split
  · exact .refl s
  · split
    · exact .runLink (writeDone_portsOnly s _ _) _
    · exact .refl s

theorem copyLost_portsOnly (s : State) (p : Fin 4) (clip : Nat) : PortsOnly s (s.copyLost p clip) := by simp [PortsOnly]

theorem writeFailure_worksOnPorts (x : WriteAnswer) : WorksOnPorts (.writeFailure x) := by
  refine fun s => ⟨_, rfl, ?_⟩
  dsimp only
  split
  · exact .refl s
  · split
    · split
      · exact .work
      · exact .giveBackAll (copyLost_portsOnly s _ _) _
    · exact .refl s

theorem chunkRead_portsOnly (s : State) (p : Fin 4) (e : VerifyEntry) (d : List Byte) : PortsOnly s (s.chunkRead p e d) := by
  unfold State.chunkRead
  dsimp only
  split <;> exact .runLink .work p

theorem verifyChunkRead_worksOnPorts (p : Fin 4) (x : Option (List Byte)) : WorksOnPorts (.verifyChunkRead p x) := by
  refine fun s => ⟨_, rfl, ?_⟩
  split
  · split
    · split
      · exact chunkRead_portsOnly s _ _ _
      · split
        · exact .runLink .work p
        · exact .work
    · exact .refl s
  · exact .refl s

theorem verifyDone_portsOnly (s : State) (p : Fin 4) (e : VerifyEntry) (passed : Bool) :
    PortsOnly s (s.verifyDone p e passed) := .runLink .work p

theorem trailerRead_worksOnPorts (p : Fin 4) (x : Option (List Byte)) : WorksOnPorts (.trailerRead p x) := by
  refine fun s => ⟨_, rfl, ?_⟩
  split
  · split
    · split
      · exact verifyDone_portsOnly s _ _ _
      · split
        · exact verifyDone_portsOnly s _ _ _
        · exact .work
    · exact .refl s
  · exact .refl s

theorem siblingRead_portsOnly (s : State) (p : Fin 4) (e : VerifyEntry) (rp : Fin 4) (i : Nat) (d : List Byte) :
    PortsOnly s (s.siblingRead p e rp i d) := by
  unfold State.siblingRead
  dsimp only
  have placed (o : Nat) (k : ClaimId) (bytes : List Byte) : PortsOnly s (s.place i k o bytes) := by simp [PortsOnly]
  split <;> exact ((placed _ _ _).trans .work).runLink p

theorem siblingChunkRead_worksOnPorts (p : Fin 4) (x : Option (List Byte)) : WorksOnPorts (.siblingChunkRead p x) := by
  refine fun s => ⟨_, rfl, ?_⟩
  split
  · split
    · split
      · split
        · exact siblingRead_portsOnly s _ _ _ _ _
        · split
          · exact .runLink .work p
          · exact .work
      · exact .refl s
    · exact .refl s
  · exact .refl s

theorem engineAnswer_portsOnly (s : State) (p : Fin 4) (c : ClaimId) (i : Option Nat) : PortsOnly s (s.engineAnswer p c i) := by
  unfold State.engineAnswer
  split
  · exact .giveBack .work _ _ _ _
  · split
    · split
      · dsimp only
        split
        · simp [PortsOnly]
        · exact .work
      · exact .runLink .work p
    · exact .giveBack (.refl s) _ _ _ _

theorem engineWaitGone_portsOnly (s : State) (p : Fin 4) (c : ClaimId) : PortsOnly s (s.engineWaitGone p c) := by
  unfold State.engineWaitGone
  split
  · exact .runLink .work p
  · exact .refl s

end Sys2Proof.Machine
end

section
namespace Sys2Proof.Machine

/-! ## What the bays and the lanes make of host card reads -/

theorem LinkGoesOn.loseLane (s : State) (b : Fin 8) : LinkGoesOn s (s.loseLane b) := by
  have freed (n : Fin 4) : LinkGoesOn s (s.freeLane n) := of_lki rfl
  unfold State.loseLane
  split
  · exact refl s
  · split
    · exact (freed _).trans (endRead _ _ _ _)
    · split
      · exact refl s
      · exact freed _
    · exact refl s

theorem LinkGoesOn.loseCard (s : State) (b : Fin 8) (st : BayState) : LinkGoesOn s (s.loseCard b st) :=
  (loseLane s b).then_lki rfl

theorem LinkGoesOn.cardLost (s : State) (b : Fin 8) (seated : Bool) : LinkGoesOn s (s.cardLost b seated) := by
  have gone : LinkGoesOn s (s.cardGoes b seated) := (loseLane s b).then_lki (s.cardGoes_arb b seated).2
  exact gone.grants

theorem LinkGoesOn.losesCard (s : State) (b : Fin 8) (seated : Bool) : LinkGoesOn s (s.losesCard b seated) :=
  (cardLost s b seated).giveBackAll _

theorem LinkGoesOn.departure (s : State) (b : Fin 8) : LinkGoesOn s (s.departure b) := by
  unfold State.departure
  dsimp only
  split
  · exact of_lki rfl
  · exact of_lki rfl
  · exact losesCard s b false
  · exact of_lki rfl
  · exact of_lki rfl

theorem LinkGoesOn.setBayPower (s : State) (b : Fin 8) (v : Power) : LinkGoesOn s (s.setBayPower b v) := by
  unfold State.setBayPower
  split
  · exact refl s
  · cases v with
    | on => exact of_lki (s.bayOn_frame b).2.2.2.2.1
    | off =>
      by_cases h : (s.bay b).state = .mounted
      · simp only [State.bayOff_mounted h]
        exact ((loseCard s b .off).then_lki (by rfl)).grants
      · simp only [State.bayOff_unmounted h]
        exact LinkGoesOn.grants (of_lki (by rfl))

theorem LinkGoesOn.extentEnds (s : State) (n : Fin 4) (b : Fin 8) (item : WorkItem) (i : Nat) (c : ClaimId)
    (d : DigestState) : LinkGoesOn s (s.extentEnds n b item i c d) := by
  unfold State.extentEnds
  dsimp only
  split
  · exact returnLane (of_lki (by rfl)) n
  · exact of_lki rfl

theorem LinkGoesOn.takeBlock (s : State) (n : Fin 4) (data : List Byte) : LinkGoesOn s (s.takeBlock n data) := by
  unfold State.takeBlock
  split
  · dsimp only
    split
    · exact refl s
    · split
      · exact of_lki (by simp)
      · split
        · refine LinkGoesOn.trans ?_ (extentEnds _ _ _ _ _ _ _)
          exact of_lki rfl
        · exact of_lki rfl
  · exact refl s

theorem LinkGoesOn.skipZeros {s t : State} (h : LinkGoesOn s t) (n : Fin 4) : LinkGoesOn s (t.skipZeros n) := by
  have skipped (k : Nat) (u : State) : LinkGoesOn u (State.skipDamaged k u n) := by
    induction k generalizing u with
    | zero => exact refl u
    | succ k ih =>
      unfold State.skipDamaged
      split
      · exact (takeBlock u n _).trans (ih _)
      · exact refl u
  exact h.trans (skipped _ t)

theorem LinkGoesOn.judgeFailure (s : State) (b : Fin 8) : LinkGoesOn s (s.judgeFailure b).1 := of_lki (by simp)

theorem LinkGoesOn.hostAttempt (s : State) (n : Fin 4) (r : HostRead) (answer : Option (List Byte)) :
    LinkGoesOn s (s.hostAttempt n r answer) := by
  have judged := judgeFailure s r.bay
  unfold State.hostAttempt
  split
  · unfold State.hostBlock
    dsimp only
    split
    · exact hostEnds (of_lki (by rfl)) n _ _ _
    · exact of_lki rfl
  · unfold State.hostFailed
    split
    · rename_i e
      rwa [e] at judged
    · rename_i e
      rw [e] at judged
      exact judged.hostEnds n _ _ _

theorem LinkGoesOn.mediaEnds (s : State) (n : Fin 4) (b : Fin 8) (clip : Nat) : LinkGoesOn s (s.mediaEnds n b clip) :=
  .giveBackAll (.returnLane (of_lki (by rfl)) n) _

theorem LinkGoesOn.workUncorrectable (s : State) (n : Fin 4) (b : Fin 8) (w : ReadWork) (k : Nat) :
    LinkGoesOn s (s.workUncorrectable n b w k) := by
  unfold State.workUncorrectable
  split
  · unfold State.clipUncorrectable
    split
    · exact mediaEnds s n b _
    · dsimp only
      split
      · refine LinkGoesOn.trans ?_ (mediaEnds _ n b _)
        exact of_lki rfl
      · refine LinkGoesOn.trans ?_ (takeBlock _ n _)
        exact of_lki rfl
  · exact .giveBackAll (.returnLane (of_lki (by rfl)) n) _

theorem LinkGoesOn.workAttempt (s : State) (n : Fin 4) (b : Fin 8) (w : ReadWork) (k : Nat) (answer : Option (List Byte)) :
    LinkGoesOn s (s.workAttempt n b w k answer) := by
  have judged := judgeFailure s b
  unfold State.workAttempt
  split
  · exact takeBlock s n _
  · unfold State.workFailed
    split
    · rename_i e
      rwa [e] at judged
    · rename_i e
      rw [e] at judged
      exact judged.trans (workUncorrectable _ n b w k)

theorem LinkGoesOn.laneAnswer (s : State) (n : Fin 4) (b : Fin 8) (c : ClaimId) (i : Option Nat) :
    LinkGoesOn s (s.laneAnswer n b c i) := by
  unfold State.laneAnswer
  split
  · exact of_lki (by simp)
  · split
    · split
      · split
        · exact skipZeros (of_lki (by rfl)) n
        · exact LinkGoesOn.grants (of_lki (by rfl))
      · exact of_lki (by simp)
    · exact of_lki (by simp)

/-! ## Commands after which the link interface has gone on with what it has -/

/-- Whatever the state, a command leaves the link interface going on with what it has. -/
def LinkContinues (c : Instr) : Prop := ∀ s, ∃ t, exec c s = .next t ∧ LinkGoesOn s t

theorem LinkContinues.of_jobs {c : Instr} (h : WorksOnJobs c) : LinkContinues c := fun s =>
  let ⟨t, e, _, _, _, _, lki, _⟩ := h s
  ⟨t, e, .of_lki lki⟩

theorem LinkContinues.of_ports {c : Instr} (h : WorksOnPorts c) : LinkContinues c := fun s =>
  let ⟨t, e, _, _, _, lki, _⟩ := h s
  ⟨t, e, .of_lki lki⟩

/-- The block that takes a command is the pool manager. -/
def WorksOnPool (c : Instr) : Prop := ∀ s, ∃ t, exec c s = .next t ∧ OnlyPool s t

theorem LinkContinues.of_pool {c : Instr} (h : WorksOnPool c) : LinkContinues c := fun s =>
  let ⟨t, e, _, _, _, _, lki, _⟩ := h s
  ⟨t, e, .of_lki lki⟩

theorem OnlyPool.arrive (s : State) (m : Instr) : OnlyPool s (s.arrive m) := ⟨rfl, rfl, rfl, rfl, rfl, rfl, rfl, rfl⟩

theorem OnlyPool.offerRound {s t : State} (h : OnlyPool s t) : OnlyPool s t.offerRound := by
  simpa [OnlyPool] using h

theorem poolFreeQuestion_worksOnPool (p : Fin 4) : WorksOnPool (.poolFreeQuestion p) := by
  refine fun s => ⟨_, rfl, ?_⟩
  dsimp only
  split <;> exact ⟨rfl, rfl, rfl, rfl, rfl, rfl, rfl, rfl⟩

theorem extentClaim_worksOnPool (r : Requester) (c : ClaimId) : WorksOnPool (.extentClaim r c) := by
  refine fun s => ⟨_, rfl, ?_⟩
  have asideKept (p : Pool) (i : Nat) : (clearAside p i).mem = p.mem := by
    unfold clearAside
    split <;> rfl
  unfold State.answerClaim
  split
  · exact ⟨rfl, rfl, rfl, rfl, rfl, rfl, rfl, asideKept _ _⟩
  · split <;> exact ⟨rfl, rfl, rfl, rfl, rfl, rfl, rfl, rfl⟩

theorem extentComplete_worksOnPool (i : Nat) (c : ClaimId) (n : Nat) : WorksOnPool (.extentComplete i c n) := by
  refine fun s => ⟨_, rfl, ?_⟩
  split <;> exact ⟨rfl, rfl, rfl, rfl, rfl, rfl, rfl, rfl⟩

theorem pendingSetAnswer_worksOnPool (i : Nat) (c : ClaimId) (ports : List (Fin 4)) :
    WorksOnPool (.pendingSetAnswer i c ports) := by
  refine fun s => ⟨_, rfl, ?_⟩
  split
  · split
    · unfold State.setPending
      split
      · exact .offerRound ⟨rfl, rfl, rfl, rfl, rfl, rfl, rfl, rfl⟩
      · exact ⟨rfl, rfl, rfl, rfl, rfl, rfl, rfl, rfl⟩
    · exact .arrive s _
  · exact .arrive s _

theorem extentRelease_worksOnPool (p : Fin 4) (xs : List (Nat × ClaimId)) : WorksOnPool (.extentRelease p xs) := by
  have kept (pool : Pool) : (xs.foldl (releaseOne p) pool).mem = pool.mem := by
    induction xs generalizing pool with
    | nil => rfl
    | cons x xs ih => exact (ih _).trans (releaseOne_frame p pool x).2.2
  exact fun s => ⟨_, rfl, .offerRound ⟨rfl, rfl, rfl, rfl, rfl, rfl, rfl, kept _⟩⟩

theorem clipDiscard_worksOnPool (clip : Nat) : WorksOnPool (.clipDiscard clip) :=
  fun s => ⟨_, rfl, by simp [OnlyPool]⟩

theorem repairDiscard_worksOnPool (clip : Nat) (p : Fin 4) : WorksOnPool (.repairDiscard clip p) :=
  fun s => ⟨_, rfl, by simp [OnlyPool]⟩

theorem cardSeated_linkContinues (b : Fin 8) : LinkContinues (.cardSeated b) := by
  refine fun s => ⟨_, rfl, ?_⟩
  split <;> exact .of_lki rfl

theorem probeCompletion_linkContinues (x : ProbeEnd) (answer : Option CardSig) :
    LinkContinues (.probeCompletion x answer) := by
  refine fun s => ⟨_, rfl, ?_⟩
  split
  · split
    · split
      · exact LinkGoesOn.grants (.of_lki (by rfl))
      · exact .of_lki rfl
    · exact .of_lki rfl
  · exact .refl s

theorem probeTimerExpiry_linkContinues (x : ProbeEnd) : LinkContinues (.probeTimerExpiry x) := by
  refine fun s => ⟨_, rfl, ?_⟩
  split <;> exact .of_lki rfl

theorem cardLeaves_linkContinues (b : Fin 8) : LinkContinues (.cardLeaves b) :=
  fun _ => ⟨_, rfl, .trans (.of_lki (by rfl)) (.departure _ b)⟩

theorem cardLoss_linkContinues (b : Fin 8) (seated : Bool) : LinkContinues (.cardLoss b seated) := by
  refine fun s => ⟨_, rfl, ?_⟩
  split
  · exact .losesCard s b seated
  · split
    · exact .refl s
    · exact .departure s b

theorem ejectButton_linkContinues (b : Fin 8) : LinkContinues (.ejectButton b) := by
  refine fun s => ⟨_, rfl, ?_⟩
  split <;> exact .of_lki rfl

theorem bayJobRemoved_linkContinues (b : Fin 8) : LinkContinues (.bayJobRemoved b) :=
  fun _ => ⟨_, rfl, .of_lki (by simp)⟩

theorem bayReleaseAccepted_linkContinues (b : Fin 8) : LinkContinues (.bayReleaseAccepted b) :=
  fun _ => ⟨_, rfl, .of_lki (by simp)⟩

theorem bayReadWork_linkContinues (b : Fin 8) (w : ReadWork) : LinkContinues (.bayReadWork b w) :=
  fun _ => ⟨_, rfl, .grants (.of_lki rfl)⟩

theorem healthWindowExpiry_linkContinues (b : Fin 8) : LinkContinues (.healthWindowExpiry b) := by
  refine fun s => ⟨_, rfl, ?_⟩
  split
  · unfold State.windowExpires
    dsimp only
    split
    · exact .of_lki rfl
    · split <;> exact .of_lki rfl
  · exact .refl s

theorem blockReadAttempt_linkContinues (n : Fin 4) (answer : Option (List Byte)) :
    LinkContinues (.blockReadAttempt n answer) := by
  refine fun s => ⟨_, rfl, ?_⟩
  split
  · exact .refl s
  · exact .hostAttempt s n _ answer
  · split
    · exact .skipZeros (.workAttempt s n _ _ _ answer) n
    · exact .refl s

theorem readCompletionAck_linkContinues (n : Fin 4) (item : WorkItem) : LinkContinues (.readCompletionAck n item) := by
  refine fun s => ⟨_, rfl, ?_⟩
  split
  · split
    · exact .returnLane (.of_lki (by rfl)) n
    · exact .of_lki rfl
  · exact .of_lki rfl

theorem claimAnswer_linkContinues (r : Requester) (c : ClaimId) (i : Option Nat) : LinkContinues (.claimAnswer r c i) := by
  refine fun s => ⟨_, rfl, ?_⟩
  split
  · refine .trans ?_ (.laneAnswer _ _ _ _ _)
    exact .of_lki rfl
  · rename_i p
    obtain ⟨-, -, -, lki, -⟩ := engineAnswer_portsOnly (s.arrive (.claimAnswer (.engine p) c i)) p c i
    exact .of_lki lki

theorem waitRemoved_linkContinues (r : Requester) (c : ClaimId) : LinkContinues (.waitRemoved r c) := by
  refine fun s => ⟨_, rfl, ?_⟩
  split
  · exact .grants (.of_lki rfl)
  · rename_i p
    obtain ⟨-, -, -, lki, -⟩ := engineWaitGone_portsOnly (s.arrive (.waitRemoved (.engine p) c)) p c
    exact .of_lki lki

theorem poolOffer_linkContinues (b : Fin 8) (c : ClaimId) : LinkContinues (.poolOffer b c) := by
  refine fun s => ⟨_, rfl, .grants (.of_lki ?_)⟩
  have lapsed (t : State) : (t.offerLapses b c).lki = t.lki := by
    unfold State.offerLapses
    split <;> simp
  rw [State.setBay_lki]
  split
  · rfl
  · exact lapsed _

theorem workItemEnded_linkContinues (b : Fin 8) (item : WorkItem) : LinkContinues (.workItemEnded b item) := by
  refine fun s => ⟨_, rfl, .giveBackAll ?_ _⟩
  split
  · exact .returnLane (.of_lki (by simp)) _
  · exact .grants (.of_lki (by simp))

theorem noticeQueued_linkContinues (n : Notice) : LinkContinues (.noticeQueued n) := by
  refine fun s => ⟨_, rfl, .trans ?_ (.linkSettle _)⟩
  unfold takeNotice
  split
  · rename_i room
    obtain ⟨up, few⟩ := room
    refine ⟨fun ⟨_, four, apart, below, _⟩ => ⟨?_, four, apart, below, fun down => ?_⟩, fun _ _ => rfl, id, [],
      by simp [State.replyLog], by simp⟩
    · have few : s.lki.notices.length < 128 := few
      simpa using few
    · exact absurd (up.symm.trans down) (by simp)
  · exact ⟨id, fun _ _ => rfl, id, [], by simp [State.replyLog], by simp⟩

end Sys2Proof.Machine
end

section
namespace Sys2Proof.Machine

/-! ## Requests and their replies -/

/-- A request has been decided: it is refused, and nothing else has changed; or it has had its effects, and is answered DONE
(R167, R168). What a filler gives up after its reply is no part of the link interface. -/
def RequestDecided (c : Instr) (kind tag : Nat) (s t : State) : Prop :=
  (∃ code, code ≠ .done ∧ t = (s.arrive c).refuse kind tag code) ∨
    ∃ u body gs, LinkGoesOn s u ∧ t = (u.answer kind tag .done body).giveBackAll gs

theorem RequestDecided.refuse {c : Instr} {kind tag : Nat} {code : ReplyCode} (s : State) (h : code ≠ .done) :
    RequestDecided c kind tag s ((s.arrive c).refuse kind tag code) := .inl ⟨code, h, rfl⟩

theorem RequestDecided.done {c : Instr} {kind tag : Nat} {body : ReplyBody} {s u : State} (h : LinkGoesOn s u) :
    RequestDecided c kind tag s (u.answer kind tag .done body) := .inr ⟨u, body, [], h, rfl⟩

theorem RequestDecided.giving {c : Instr} {kind tag : Nat} {body : ReplyBody} {s u : State} {gs : List Given}
    (h : LinkGoesOn s u) : RequestDecided c kind tag s ((u.answer kind tag .done body).giveBackAll gs) := .inr ⟨u, body, gs, h, rfl⟩

/-- A request is decided as its owning block takes it. -/
def DecidesRequest (c : Instr) (kind tag : Nat) : Prop := ∀ s, ∃ t, exec c s = .next t ∧ RequestDecided c kind tag s t

theorem LinkGoesOn.jobs {s t : State} (m : Instr) (k : JobOnly (s.arrive m) t) : LinkGoesOn s t := by
  obtain ⟨-, -, -, -, lki, -⟩ := k
  exact of_lki lki

theorem ident_decides (tag : Nat) : DecidesRequest (.ident tag) kindIdent tag :=
  fun s => ⟨_, rfl, .done ⟨id, fun _ _ => rfl, id, [], by simp [State.replyLog], by simp⟩⟩

theorem health_decides (tag sel w up lo : Nat) : DecidesRequest (.health tag sel w up lo) kindHealth tag := by
  have stored (v : HealthSettings) (bays : List (Fin 8)) (s : State) :
      (bays.foldl (fun u b => u.storeHealth v b) s).lki = s.lki := by
    induction bays generalizing s with
    | nil => rfl
    | cons b bays ih => exact ih _
  refine fun s => ⟨_, rfl, ?_⟩
  split
  · exact .refuse s (by simp)
  · exact .done (.of_lki (stored _ _ _))

theorem grace_decides (tag sel g : Nat) : DecidesRequest (.grace tag sel g) kindGrace tag := by
  have stored (v : Nat) (ports : List (Fin 4)) (s : State) :
      (ports.foldl (fun u p => u.storeGrace v p) s).lki = s.lki := by
    induction ports generalizing s with
    | nil => rfl
    | cons p ports ih => exact ih _
  refine fun s => ⟨_, rfl, ?_⟩
  split
  · exact .refuse s (by simp)
  · exact .done (.of_lki (stored _ _ _))

theorem baypwr_decides (tag bay power : Nat) : DecidesRequest (.baypwr tag bay power) kindBaypwr tag := by
  refine fun s => ⟨_, rfl, ?_⟩
  split
  · split
    · exact .refuse s (by simp)
    · refine .giving (.trans ?_ (.setBayPower _ _ _))
      exact .of_lki rfl
  · exact .refuse s (by simp)

theorem portpwr_decides (tag port power : Nat) : DecidesRequest (.portpwr tag port power) kindPortpwr tag := by
  have powered (s : State) (p : Fin 4) (v : Power) : (s.setPortPower p v).lki = s.lki := by
    unfold State.setPortPower
    split
    · rfl
    · cases v <;> simp
  refine fun s => ⟨_, rfl, ?_⟩
  split
  · split
    · exact .refuse s (by simp)
    · exact .giving (.of_lki (powered _ _ _))
  · exact .refuse s (by simp)

theorem areaSet_decides (tag port start length unit reserve fill : Nat) (label : List Byte) :
    DecidesRequest (.areaSet tag port start length unit reserve fill label) kindAreaSet tag := by
  refine fun s => ⟨_, rfl, ?_⟩
  dsimp only
  split
  · exact .refuse s (by simp)
  · split
    · split
      · exact .refuse s (by simp)
      · exact .done (.of_lki rfl)
    · exact .refuse s (by simp)

theorem areaDrop_decides (tag port : Nat) : DecidesRequest (.areaDrop tag port) kindAreaDrop tag := by
  refine fun s => ⟨_, rfl, ?_⟩
  split
  · exact .refuse s (by simp)
  · split
    · exact .giving (.of_lki rfl)
    · exact .refuse s (by simp)

theorem jobOpen_decides (tag job bay verify damage count : Nat) (slots : List CopySlot) :
    DecidesRequest (.jobOpen tag job bay verify damage count slots) kindJobOpen tag := by
  have opened (s : State) (j : Job) : (s.openJob j).lki = s.lki := (JobOnly.evalClear _ _).2.2.2.2.1
  refine fun s => ⟨_, rfl, ?_⟩
  split
  · split
    · exact .refuse s (by simp)
    · split
      · exact .refuse s (by simp)
      · exact .done (.of_lki (opened _ _))
  · exact .refuse s (by simp)

theorem clipAdd_decides (tag job : Nat) (label : List Byte) (length : Nat) (runs : List Run) (flag : Nat)
    (expect : Digest) : DecidesRequest (.clipAdd tag job label length runs flag expect) kindClipAdd tag := by
  have added (s : State) (c : Clip) (b : Fin 8) : ((s.addClip c).admissionPoint b).lki = s.lki :=
    (JobOnly.admissionPoint (s.addClip c) b).2.2.2.2.1
  refine fun s => ⟨_, rfl, ?_⟩
  split
  · exact .refuse s (by simp)
  · split
    · exact .refuse s (by simp)
    split
    · exact .refuse s (by simp)
    split
    · exact .refuse s (by simp)
    · exact .done (.of_lki (added _ _ _))

theorem jobSeal_decides (tag job : Nat) : DecidesRequest (.jobSeal tag job) kindJobSeal tag := by
  refine fun s => ⟨_, rfl, ?_⟩
  split
  · exact .refuse s (by simp)
  · split
    · exact .refuse s (by simp)
    · exact .refuse s (by simp)
    · exact .done (.of_lki rfl)
    · exact .done (.of_lki rfl)
    · exact .done (.jobs _ (.sealJob _ _))

theorem jobStop_decides (tag job mode : Nat) : DecidesRequest (.jobStop tag job mode) kindJobStop tag := by
  refine fun s => ⟨_, rfl, ?_⟩
  split
  · exact .refuse s (by simp)
  · split
    · exact .refuse s (by simp)
    · split
      · exact .refuse s (by simp)
      · exact .done (.jobs _ (.stopJob _ _ _))

theorem clipCancel_decides (tag clip : Nat) : DecidesRequest (.clipCancel tag clip) kindClipCancel tag := by
  refine fun s => ⟨_, rfl, ?_⟩
  split
  · split
    · exact .refuse s (by simp)
    · split
      · exact .refuse s (by simp)
      · exact .done (.jobs _ (.cancelClip _ _))
  · exact .refuse s (by simp)

theorem cardRelease_decides (tag bay force : Nat) : DecidesRequest (.cardRelease tag bay force) kindCardRelease tag := by
  refine fun s => ⟨_, rfl, ?_⟩
  split
  · split
    · exact .refuse s (by simp)
    · split_ifs
      · exact .done (.jobs _ (.forceRelease _ _))
      · exact .done (.of_lki rfl)
      · exact .refuse s (by simp)
  · exact .refuse s (by simp)

theorem jobRetire_decides (tag job : Nat) : DecidesRequest (.jobRetire tag job) kindJobRetire tag := by
  have retired (s : State) (j : Job) : (s.retireJob j).lki = s.lki := (JobOnly.evalClear _ _).2.2.2.2.1
  refine fun s => ⟨_, rfl, ?_⟩
  split
  · exact .refuse s (by simp)
  · split
    · exact .done (.of_lki (retired _ _))
    · exact .refuse s (by simp)

theorem bayQuery_decides (tag v : Nat) : DecidesRequest (.bayQuery tag v) kindBayQuery tag := by
  refine fun s => ⟨_, rfl, ?_⟩
  split
  · exact .refuse s (by simp)
  · exact .done (.of_lki rfl)

theorem portQuery_decides (tag v : Nat) : DecidesRequest (.portQuery tag v) kindPortQuery tag := by
  refine fun s => ⟨_, rfl, ?_⟩
  split
  · exact .refuse s (by simp)
  · exact .done (.of_lki rfl)

theorem jobQuery_decides (tag v : Nat) : DecidesRequest (.jobQuery tag v) kindJobQuery tag := by
  refine fun s => ⟨_, rfl, ?_⟩
  split
  · split
    · exact .refuse s (by simp)
    · exact .done (.of_lki rfl)
  · exact .refuse s (by simp)

theorem clipQuery_decides (tag v : Nat) : DecidesRequest (.clipQuery tag v) kindClipQuery tag := by
  refine fun s => ⟨_, rfl, ?_⟩
  split
  · split
    · exact .refuse s (by simp)
    · exact .done (.of_lki rfl)
  · exact .refuse s (by simp)

theorem poolQuery_decides (tag : Nat) : DecidesRequest (.poolQuery tag) kindPoolQuery tag :=
  fun _ => ⟨_, rfl, .done (.of_lki rfl)⟩

/-- The nineteen requests that are decided as they are taken; PLAN, CARD_READ and RESET are not among them. -/
theorem request_decides {c : Instr} {kind tag : Nat} (request : requestKind c = some kind) (tagged : c.tag? = some tag)
    (plan : kind ≠ kindPlan) (read : kind ≠ kindCardRead) (reset : kind ≠ kindReset) : DecidesRequest c kind tag := by
  cases c <;> cases request <;> cases tagged
  case ident => exact ident_decides _
  case plan => exact absurd rfl plan
  case health => exact health_decides _ _ _ _ _
  case grace => exact grace_decides _ _ _
  case baypwr => exact baypwr_decides _ _ _
  case portpwr => exact portpwr_decides _ _ _
  case areaSet => exact areaSet_decides _ _ _ _ _ _ _ _
  case areaDrop => exact areaDrop_decides _ _
  case jobOpen => exact jobOpen_decides _ _ _ _ _ _ _
  case clipAdd => exact clipAdd_decides _ _ _ _ _ _ _
  case jobSeal => exact jobSeal_decides _ _
  case jobStop => exact jobStop_decides _ _ _
  case clipCancel => exact clipCancel_decides _ _
  case cardRelease => exact cardRelease_decides _ _ _
  case jobRetire => exact jobRetire_decides _ _
  case cardRead => exact absurd rfl read
  case bayQuery => exact bayQuery_decides _ _
  case portQuery => exact portQuery_decides _ _
  case jobQuery => exact jobQuery_decides _ _
  case clipQuery => exact clipQuery_decides _ _
  case poolQuery => exact poolQuery_decides _
  case reset => exact absurd rfl reset

/-- With what the link interface goes on to do, the refusals of transfers that waited join the log, and nothing else. -/
theorem State.linkSettle_refuses (s : State) : ∃ xs, s.linkSettle.replyLog = s.replyLog ++ xs ∧
    (∀ x ∈ xs, RefusesTransfer x) ∧ (s.lki.receive = [] → xs = []) := by
  have acts (n : Nat) (s : State) : ∃ xs, (State.linkActs n s).replyLog = s.replyLog ++ xs ∧ ∀ x ∈ xs, RefusesTransfer x := by
    induction n generalizing s with
    | zero => exact ⟨[], by simp [State.linkActs], by simp⟩
    | succ n ih =>
      unfold State.linkActs
      split
      · rename_i t act
        obtain ⟨xs, log, each⟩ := ih t
        obtain ⟨-, ⟨u, -, sends, rfl⟩ | ⟨x, rest, -, -, rfl⟩⟩ := State.linkAct_cases act
        · obtain ⟨-, -, -, -, -, -, -, same, -⟩ := State.sendOne_spec sends
          exact ⟨xs, log.trans (congrArg (· ++ xs) same), each⟩
        · unfold State.takeTransfer at log ⊢
          split at log
          · rename_i kind tag code refused
            refine ⟨⟨kind, tag, code, .codeAlone⟩ :: xs, ?_, fun y m => ?_⟩
            · rw [log]
              simp [State.replyLog]
            · rcases List.mem_cons.1 m with rfl | m
              · exact parseFrame_refuse refused
              · exact each y m
          · exact ⟨xs, log, each⟩
      · exact ⟨[], by simp, by simp⟩
  obtain ⟨xs, log, each⟩ := acts _ s
  refine ⟨xs, log, each, fun e => ?_⟩
  have same := s.linkSettle_replyLog e
  exact List.append_right_eq_self.1 (log.symm.trans same)

theorem State.answer_refuses (s : State) (k n : Nat) (c : ReplyCode) (b : ReplyBody) : ∃ xs,
    (s.answer k n c b).replyLog = s.replyLog ++ (if handOrphan s.lki k n then [] else [⟨k, n, c, b⟩]) ++ xs ∧
      (∀ x ∈ xs, RefusesTransfer x) ∧ (s.lki.receive = [] → xs = []) := by
  obtain ⟨-, log, receive, -, -⟩ := s.dropHand_spec k n
  unfold State.answer
  by_cases orphan : handOrphan s.lki k n = true
  · obtain ⟨xs, settled, each, none⟩ := (s.dropHand k n).linkSettle_refuses
    exact ⟨xs, by simp [orphan, settled, log], each, fun e => none (receive.trans e)⟩
  · obtain ⟨xs, settled, each, none⟩ := ((s.dropHand k n).joinReady ⟨none, ⟨k, n, c, b⟩⟩).linkSettle_refuses
    refine ⟨xs, ?_, each, fun e => none (receive.trans e)⟩
    rw [if_neg orphan, settled, (State.joinReady_spec _ _).2, log, if_neg orphan]

/-- Settles O3: each of the nineteen requests is decided as it is taken, and so answered by one reply. -/
theorem requestsAreAnswered : Obligations.RequestsAreAnswered := by
  intro c kind tag s request tagged plan read reset
  obtain ⟨t, run, ⟨code, refused, rfl⟩ | ⟨u, body, gs, ⟨-, hand, receive, ended, log, each⟩, rfl⟩⟩ :=
    request_decides request tagged plan read reset s
  · obtain ⟨xs, replies, transfers, none⟩ := (s.arrive c).answer_refuses kind tag code .codeAlone
    refine ⟨_, ⟨kind, tag, code, .codeAlone⟩, [], xs, run, rfl, rfl, by rw [List.append_nil]; exact replies, fun x m => .inr ?_,
      fun e => ⟨none e, by simp⟩, fun _ => ⟨.answered s c kind tag code _, rfl⟩⟩
    exact transfers x (by simpa using m)
  · obtain ⟨xs, replies, transfers, none⟩ := u.answer_refuses kind tag .done body
    refine ⟨_, ⟨kind, tag, .done, body⟩, ended, xs, run, rfl, rfl, ?_, fun x m => ?_, fun e => ⟨none (receive e), fun x m => ?_⟩,
      fun k => absurd rfl k⟩
    · rw [← hand kind tag, ← log, ← replies]
      simp [State.replyLog]
    · rcases List.mem_append.1 m with m | m
      · exact (each x m).imp (fun k => ⟨m, k⟩) And.right
      · exact .inr (transfers x m)
    · exact (each x m).resolve_right fun k => k.1 e

end Sys2Proof.Machine
end

section
namespace Sys2Proof.Machine

/-! ## The limits of the link interface -/

/-- A command keeps the limits of the link interface. -/
def KeepsLinkLimits (c : Instr) : Prop := ∀ s, ∃ t, exec c s = .next t ∧ (LinkOk s → LinkOk t)

theorem KeepsLinkLimits.of_continues {c : Instr} (h : LinkContinues c) : KeepsLinkLimits c := fun s =>
  let ⟨t, run, ok, _⟩ := h s
  ⟨t, run, ok⟩

theorem LinkOk.settle {s : State} (h : LinkOk s) : LinkOk s.linkSettle := (LinkGoesOn.linkSettle s).1 h

theorem LinkOk.dropHand {s : State} (h : LinkOk s) (k n : Nat) : LinkOk (s.dropHand k n) := by
  unfold State.dropHand
  split
  · exact h
  · exact h

theorem LinkOk.answer {s : State} (h : LinkOk s) (k n : Nat) (c : ReplyCode) (b : ReplyBody) : LinkOk (s.answer k n c b) := by
  have dropped := h.dropHand k n
  unfold State.answer
  split
  · exact dropped.settle
  · exact LinkOk.settle (s := (s.dropHand k n).joinReady _) dropped

theorem KeepsLinkLimits.of_decides {c : Instr} {kind tag : Nat} (h : DecidesRequest c kind tag) : KeepsLinkLimits c := by
  intro s
  obtain ⟨t, run, ⟨code, -, rfl⟩ | ⟨u, body, gs, ⟨ok, -⟩, rfl⟩⟩ := h s
  · exact ⟨_, run, fun k => LinkOk.answer (s := s.arrive c) k kind tag code .codeAlone⟩
  · exact ⟨_, run, fun k => (LinkGoesOn.giveBackAll (.refl _) gs).1 ((ok k).answer kind tag .done body)⟩

theorem powerOn_keepsLinkLimits : KeepsLinkLimits .powerOn :=
  fun _ => ⟨_, rfl, fun _ => ⟨Nat.zero_le _, Nat.zero_le _, .nil, by simp [LinkIf.reset], fun _ => ⟨rfl, rfl, rfl⟩⟩⟩

theorem linkReset_keepsLinkLimits : KeepsLinkLimits .linkReset := by
  refine fun s => ⟨_, rfl, fun _ => (LinkGoesOn.grants (.refl _)).1 ?_⟩
  exact ⟨Nat.zero_le _, Nat.zero_le _, .nil, by simp [linkDown], fun _ => ⟨rfl, rfl, rfl⟩⟩

theorem linkUp_keepsLinkLimits : KeepsLinkLimits .linkUp := by
  refine fun s => ⟨_, rfl, fun ⟨few, four, apart, below, _⟩ => LinkOk.settle ?_⟩
  exact ⟨few, four, apart, below, fun down => by cases down⟩

/-- A transfer, or the wish for one, may wait while the link is UP. -/
theorem LinkOk.waits {s : State} (h : LinkOk s) (up : s.lki.up = true) (receive : List (List Byte)) (n : Nat) :
    LinkOk { s with lki := { s.lki with receive := receive, inWaiting := n } } := by
  obtain ⟨few, four, apart, below, -⟩ := h
  exact ⟨few, four, apart, below, fun down => absurd (up.symm.trans down) (by simp)⟩

theorem receiveFrame_keepsLinkLimits (x : List Byte) : KeepsLinkLimits (.receiveFrame x) := by
  refine fun s => ⟨_, rfl, fun ok => ?_⟩
  split
  · rename_i up
    exact (ok.waits up _ _).settle
  · exact ok

theorem sendFrame_keepsLinkLimits : KeepsLinkLimits .sendFrame := by
  refine fun s => ⟨_, rfl, fun ok => ?_⟩
  split
  · rename_i up
    exact (ok.waits up _ _).settle
  · exact ok

theorem reset_keepsLinkLimits (tag : Nat) : KeepsLinkLimits (.reset tag) := by
  refine fun s => ⟨_, rfl, fun ⟨_, _, _, _, down⟩ => LinkOk.answer ?_ _ _ _ _⟩
  exact ⟨Nat.zero_le _, Nat.zero_le _, .nil, by simp [State.softReset, softLink],
    fun d => ⟨(down d).1, (down d).2.1, rfl⟩⟩

theorem plan_keepsLinkLimits (tag number : Nat) : KeepsLinkLimits (.plan tag number) := by
  refine fun s => ⟨_, rfl, fun ok => ?_⟩
  have arrived : LinkOk (s.arrive (.plan tag number)) := ok
  split
  · exact arrived.answer _ _ _ _
  · split
    · exact arrived.answer _ _ _ _
    · exact ok

theorem planAnswer_keepsLinkLimits (yes : Bool) : KeepsLinkLimits (.planAnswer yes) := by
  refine fun s => ⟨_, rfl, fun ok => ?_⟩
  have searched (arb : Arbiter) : LinkOk ({ s.arrive (.planAnswer yes) with arb := arb } : State).grants :=
    (LinkGoesOn.grants (.refl _)).1 ok
  split
  · exact ok
  · split
    · exact (searched _).answer _ _ _ _
    · exact (searched _).answer _ _ _ _

/-- A host card read is entered while fewer than four are outstanding, under a number that none before it has had (R58; log
32). -/
theorem LinkOk.enterRead {s : State} (h : LinkOk s) (few : s.lki.reads.length < 4) (tag : Nat) (b : Fin 8)
    (start count : Nat) : LinkOk (s.enterRead tag b start count) := by
  obtain ⟨notices, -, apart, below, down⟩ := h
  refine LinkOk.settle ((LinkGoesOn.grants (.refl _)).1 ?_)
  have dropped : LinkOk (s.dropHand kindCardRead tag) := LinkOk.dropHand ⟨notices, few.le, apart, below, down⟩ _ _
  obtain ⟨notices', -, -, -, down'⟩ := dropped
  refine ⟨notices', by simpa using few, ?_, fun r m => ?_, down'⟩
  · rw [List.map_append, List.pairwise_append]
    refine ⟨apart, by simp, fun i m j k => ?_⟩
    obtain ⟨r, member, rfl⟩ := List.mem_map.1 m
    simp only [List.map_cons, List.map_nil, List.mem_singleton] at k
    exact k ▸ below r member
  · rcases List.mem_append.1 m with m | m
    · exact Nat.lt_succ_of_lt (below r m)
    · rw [List.mem_singleton.1 m]
      exact Nat.lt_succ_self _

theorem cardRead_keepsLinkLimits (tag bay start count : Nat) : KeepsLinkLimits (.cardRead tag bay start count) := by
  refine fun s => ⟨_, rfl, fun ok => ?_⟩
  have arrived : LinkOk (s.arrive (.cardRead tag bay start count)) := ok
  split
  · exact arrived.answer _ _ _ _
  · split
    · exact arrived.answer _ _ _ _
    · split
      · exact arrived.answer _ _ _ _
      · rename_i room
        exact arrived.enterRead (Nat.lt_of_not_le room) _ _ _ _

/-- Every command keeps the limits of the link interface, by what its block makes of that interface. -/
theorem exec_keepsLinkLimits : ∀ c : Instr, KeepsLinkLimits c
  | .powerOn => powerOn_keepsLinkLimits
  | .linkReset => linkReset_keepsLinkLimits
  | .linkUp => linkUp_keepsLinkLimits
  | .receiveFrame .. => receiveFrame_keepsLinkLimits _
  | .sendFrame => sendFrame_keepsLinkLimits
  | .noticeQueued .. => .of_continues (noticeQueued_linkContinues _)
  | .ident .. => .of_decides (ident_decides _)
  | .plan .. => plan_keepsLinkLimits _ _
  | .poolFreeQuestion .. => .of_continues (.of_pool (poolFreeQuestion_worksOnPool _))
  | .planAnswer .. => planAnswer_keepsLinkLimits _
  | .health .. => .of_decides (health_decides _ _ _ _ _)
  | .grace .. => .of_decides (grace_decides _ _ _)
  | .baypwr .. => .of_decides (baypwr_decides _ _ _)
  | .portpwr .. => .of_decides (portpwr_decides _ _ _)
  | .areaSet .. => .of_decides (areaSet_decides _ _ _ _ _ _ _ _)
  | .areaDrop .. => .of_decides (areaDrop_decides _ _)
  | .jobOpen .. => .of_decides (jobOpen_decides _ _ _ _ _ _ _)
  | .clipAdd .. => .of_decides (clipAdd_decides _ _ _ _ _ _ _)
  | .jobSeal .. => .of_decides (jobSeal_decides _ _)
  | .jobStop .. => .of_decides (jobStop_decides _ _ _)
  | .clipCancel .. => .of_decides (clipCancel_decides _ _)
  | .cardRelease .. => .of_decides (cardRelease_decides _ _ _)
  | .jobRetire .. => .of_decides (jobRetire_decides _ _)
  | .cardRead .. => cardRead_keepsLinkLimits _ _ _ _
  | .bayQuery .. => .of_decides (bayQuery_decides _ _)
  | .portQuery .. => .of_decides (portQuery_decides _ _)
  | .jobQuery .. => .of_decides (jobQuery_decides _ _)
  | .clipQuery .. => .of_decides (clipQuery_decides _ _)
  | .poolQuery .. => .of_decides (poolQuery_decides _)
  | .reset .. => reset_keepsLinkLimits _
  | .cardSeated .. => .of_continues (cardSeated_linkContinues _)
  | .probeCompletion .. => .of_continues (probeCompletion_linkContinues _ _)
  | .probeTimerExpiry .. => .of_continues (probeTimerExpiry_linkContinues _)
  | .cardLeaves .. => .of_continues (cardLeaves_linkContinues _)
  | .cardLoss .. => .of_continues (cardLoss_linkContinues _ _)
  | .ejectButton .. => .of_continues (ejectButton_linkContinues _)
  | .bayJobBound .. => fun _ => ⟨_, rfl, id⟩
  | .bayJobState .. => fun _ => ⟨_, rfl, id⟩
  | .bayClearChange .. => fun _ => ⟨_, rfl, id⟩
  | .bayJobRemoved .. => .of_continues (bayJobRemoved_linkContinues _)
  | .bayReleaseAccepted .. => .of_continues (bayReleaseAccepted_linkContinues _)
  | .bayReadWork .. => .of_continues (bayReadWork_linkContinues _ _)
  | .healthWindowExpiry .. => .of_continues (healthWindowExpiry_linkContinues _)
  | .blockReadAttempt .. => .of_continues (blockReadAttempt_linkContinues _ _)
  | .readCompletionAck .. => .of_continues (readCompletionAck_linkContinues _ _)
  | .extentClaim .. => .of_continues (.of_pool (extentClaim_worksOnPool _ _))
  | .extentComplete .. => .of_continues (.of_pool (extentComplete_worksOnPool _ _ _))
  | .pendingSetQuestion .. => .of_continues (.of_jobs (pendingSetQuestion_worksOnJobs _ _))
  | .pendingSetAnswer .. => .of_continues (.of_pool (pendingSetAnswer_worksOnPool _ _ _))
  | .extentRelease .. => .of_continues (.of_pool (extentRelease_worksOnPool _ _))
  | .clipDiscard .. => .of_continues (.of_pool (clipDiscard_worksOnPool _))
  | .repairDiscard .. => .of_continues (.of_pool (repairDiscard_worksOnPool _ _))
  | .poolOffer .. => .of_continues (poolOffer_linkContinues _ _)
  | .siblingOffer .. => .of_continues (.of_ports (siblingOffer_worksOnPorts _ _ _))
  | .waitRemoved .. => .of_continues (waitRemoved_linkContinues _ _)
  | .mountReport .. => .of_continues (.of_jobs (mountReport_worksOnJobs _ _))
  | .cardLostReport .. => .of_continues (.of_jobs (cardLostReport_worksOnJobs _))
  | .burstEndReport .. => .of_continues (.of_jobs (burstEndReport_worksOnJobs _ _))
  | .blockSubstitution .. => .of_continues (.of_jobs (blockSubstitution_worksOnJobs _ _))
  | .readCompletion .. => .of_continues (.of_jobs (readCompletion_worksOnJobs _ _ _))
  | .mediaFailure .. => .of_continues (.of_jobs (mediaFailure_worksOnJobs _))
  | .repairReadCompletion .. => .of_continues (.of_jobs (repairReadCompletion_worksOnJobs _ _ _ _))
  | .repairSourceFailure .. => .of_continues (.of_jobs (repairSourceFailure_worksOnJobs _ _))
  | .holdAnswer .. => .of_continues (.of_jobs (holdAnswer_worksOnJobs _ _ _))
  | .confirmationAnswer .. => .of_continues (.of_jobs (confirmationAnswer_worksOnJobs _ _ _))
  | .extentWriteCompletion .. => .of_continues (.of_jobs (extentWriteCompletion_worksOnJobs _ _ _ _))
  | .trailerWriteCompletion .. => .of_continues (.of_jobs (trailerWriteCompletion_worksOnJobs _ _))
  | .writeFailureReport .. => .of_continues (.of_jobs (writeFailureReport_worksOnJobs _ _))
  | .verifyStart .. => .of_continues (.of_jobs (verifyStart_worksOnJobs _ _))
  | .verifyDigestReport .. => .of_continues (.of_jobs (verifyDigestReport_worksOnJobs _ _ _))
  | .verifyCompletion .. => .of_continues (.of_jobs (verifyCompletion_worksOnJobs _ _ _))
  | .siblingReadCompletion .. => .of_continues (.of_jobs (siblingReadCompletion_worksOnJobs _ _ _ _))
  | .siblingCompletionAck .. => .of_continues (.of_ports (siblingCompletionAck_worksOnPorts _ _ _))
  | .areaInstalledReport .. => .of_continues (.of_jobs (areaInstalledReport_worksOnJobs _))
  | .driveLossReport .. => .of_continues (.of_jobs (driveLossReport_worksOnJobs _))
  | .driveReturnReport .. => .of_continues (.of_jobs (driveReturnReport_worksOnJobs _))
  | .graceExpiryReport .. => .of_continues (.of_jobs (graceExpiryReport_worksOnJobs _))
  | .portFaultReport .. => .of_continues (.of_jobs (portFaultReport_worksOnJobs _))
  | .roomFreedReport .. => .of_continues (.of_jobs (roomFreedReport_worksOnJobs _ _))
  | .holdEnquiry .. => .of_continues (.of_ports (holdEnquiry_worksOnPorts _ _ _))
  | .holdConfirmation .. => .of_continues (.of_ports (holdConfirmation_worksOnPorts _ _))
  | .holdWithdrawal .. => .of_continues (.of_ports (holdWithdrawal_worksOnPorts _ _))
  | .placementClose .. => .of_continues (.of_ports (placementClose_worksOnPorts _ _))
  | .runAbandonment .. => .of_continues (.of_ports (runAbandonment_worksOnPorts _ _))
  | .extentAppend .. => .of_continues (.of_ports (extentAppend_worksOnPorts _ _ _ _))
  | .trailerAppend .. => .of_continues (.of_ports (trailerAppend_worksOnPorts _ _ _))
  | .extentRemoval .. => .of_continues (.of_ports (extentRemoval_worksOnPorts _ _ _))
  | .trailerRemoval .. => .of_continues (.of_ports (trailerRemoval_worksOnPorts _ _))
  | .verifyAppend .. => .of_continues (.of_ports (verifyAppend_worksOnPorts _ _))
  | .siblingAppend .. => .of_continues (.of_ports (siblingAppend_worksOnPorts _ _))
  | .verifyRemoval .. => .of_continues (.of_ports (verifyRemoval_worksOnPorts _ _))
  | .siblingCancel .. => .of_continues (.of_ports (siblingCancel_worksOnPorts _ _ _))
  | .driveConnected .. => .of_continues (.of_ports (driveConnected_worksOnPorts _))
  | .driveIdentified .. => .of_continues (.of_ports (driveIdentified_worksOnPorts _ _))
  | .identTimerExpiry .. => .of_continues (.of_ports (identTimerExpiry_worksOnPorts _))
  | .driveLoss .. => .of_continues (.of_ports (driveLoss_worksOnPorts _ _))
  | .graceTimerExpiry .. => .of_continues (.of_ports (graceTimerExpiry_worksOnPorts _))
  | .writeCompletion .. => .of_continues (.of_ports (writeCompletion_worksOnPorts _))
  | .writeFailure .. => .of_continues (.of_ports (writeFailure_worksOnPorts _))
  | .verifyChunkRead .. => .of_continues (.of_ports (verifyChunkRead_worksOnPorts _ _))
  | .trailerRead .. => .of_continues (.of_ports (trailerRead_worksOnPorts _ _))
  | .siblingChunkRead .. => .of_continues (.of_ports (siblingChunkRead_worksOnPorts _ _))
  | .claimAnswer .. => .of_continues (claimAnswer_linkContinues _ _ _)
  | .workItemEnded .. => .of_continues (workItemEnded_linkContinues _ _)

theorem LinkOk.exec {c : Instr} {s t : State} (run : exec c s = .next t) (ok : LinkOk s) : LinkOk t := by
  obtain ⟨u, k, keeps⟩ := exec_keepsLinkLimits c s
  cases k.symm.trans run
  exact keeps ok

/-- Settles O59: each command keeps the limits, and which commands wait makes no difference to them. -/
theorem stepsKeepLink : Obligations.StepsKeepLink := by
  intro s t ok run
  unfold step at run
  split at run
  · exact LinkOk.exec (s := { s with pending := _ }) run ok
  · split at run
    · exact LinkOk.exec run ok
    · cases run
      exact ok

end Sys2Proof.Machine
end

section
namespace Sys2Proof.Machine

/-! ## Selectors and settings -/

/-- What a selector out of range, one in range, and the selector of all name. -/
theorem selectorOf_cases {n sel : Nat} (small : n ≤ 255) :
    (selectorOf n sel = none ∧ n ≤ sel ∧ sel ≠ 255) ∨
      ∃ is : List (Fin n), selectorOf n sel = some is ∧ (sel < n ∨ sel = 255) ∧ ∀ i, i ∈ is ↔ sel = 255 ∨ sel = i.val := by
  unfold selectorOf
  split_ifs with all
  · exact .inr ⟨_, rfl, .inr all, by simp [all]⟩
  · cases h : indexOf n sel with
    | none => exact .inl ⟨rfl, indexOf_eq_none.1 h, all⟩
    | some j =>
      have j_eq := indexOf_eq_some.1 h
      exact .inr ⟨_, rfl, .inl (by omega), fun i => by rw [List.mem_singleton, Fin.ext_iff]; omega⟩

/-- The settings that a HEALTH leaves, as R67 words them. -/
theorem healthSettings_eq (w up lo : Nat) : healthSettings w up lo = ⟨max 4 (min 60 w), max 1 (min 255 up),
    if min 254 lo < max 1 (min 255 up) then min 254 lo else max 1 (min 255 up) - 1⟩ := by
  simp only [healthSettings, clamp, Nat.zero_max, ← Nat.not_lt, ite_not]

/-- The selected bays store the health settings, and nothing else changes. -/
theorem storeHealths_spec (v : HealthSettings) (bays : List (Fin 8)) (s t : State)
    (h : t = bays.foldl (fun u b => u.storeHealth v b) s) : t.arb = s.arb ∧ t.pool = s.pool ∧ t.ports = s.ports ∧
      t.jm = s.jm ∧ t.lki = s.lki ∧ t.pending = s.pending ∧ ∀ b, t.bay b = if b ∈ bays then
        { s.bay b with health := { (s.bay b).health with w := v.w, up := v.up, lo := v.lo } } else s.bay b := by
  induction bays generalizing s with
  | nil => subst h; simp
  | cons a bays ih =>
    obtain ⟨arb, pool, ports, jm, lki, pending, bay⟩ := ih (s.storeHealth v a) h
    refine ⟨arb, pool, ports, jm, lki, pending, fun b => (bay b).trans ?_⟩
    by_cases same : b = a
    · subst same
      simp [State.storeHealth]
    · simp [State.storeHealth, same]

/-- The selected ports store the grace setting, and nothing else changes. -/
theorem storeGraces_spec (g : Nat) (ports : List (Fin 4)) (s t : State)
    (h : t = ports.foldl (fun u p => u.storeGrace g p) s) : t.bays = s.bays ∧ t.arb = s.arb ∧ t.pool = s.pool ∧
      t.jm = s.jm ∧ t.lki = s.lki ∧ t.pending = s.pending ∧
      ∀ p, t.port p = if p ∈ ports then { s.port p with grace := g } else s.port p := by
  induction ports generalizing s with
  | nil => subst h; simp
  | cons a ports ih =>
    obtain ⟨bays, arb, pool, jm, lki, pending, port⟩ := ih (s.storeGrace g a) h
    refine ⟨bays, arb, pool, jm, lki, pending, fun p => (port p).trans ?_⟩
    by_cases same : p = a
    · subst same
      simp [State.storeGrace]
    · simp [State.storeGrace, same]

theorem health_spec (tag sel w up lo : Nat) (s : State) : ∃ t, exec (.health tag sel w up lo) s = .next t ∧
    (8 ≤ sel → sel ≠ 255 → OnlyLink s t ∧ Replies s t ⟨kindHealth, tag, .badArg, .codeAlone⟩) ∧
    (sel < 8 ∨ sel = 255 → ∀ w' up' lo', w' = max 4 (min 60 w) → up' = max 1 (min 255 up) →
      lo' = (if min 254 lo < up' then min 254 lo else up' - 1) →
      Replies s t ⟨kindHealth, tag, .done, .health w' up' lo'⟩ ∧
      t.arb = s.arb ∧ t.pool = s.pool ∧ t.ports = s.ports ∧ t.jm = s.jm ∧ t.pending = s.pending ∧
      ∀ b : Fin 8, t.bay b = (if sel = 255 ∨ sel = b.val then
        { s.bay b with health := { (s.bay b).health with w := w', up := up', lo := lo' } } else s.bay b)) := by
  refine ⟨_, rfl, ?_⟩
  rcases selectorOf_cases (n := 8) (sel := sel) (by omega) with ⟨none, big, other⟩ | ⟨is, some, inside, named⟩
  · rw [none]
    exact ⟨fun _ _ => ⟨.answered s _ _ _ _ _, .answered s _ _ _ _ _⟩, fun inside => by omega⟩
  · rw [some, healthSettings_eq]
    refine ⟨fun big other => by omega, ?_⟩
    rintro - w' up' lo' rfl rfl rfl
    obtain ⟨arb, pool, ports, jm, lki, pending, bay⟩ := storeHealths_spec _ is (s.arrive (.health tag sel w up lo)) _ rfl
    refine ⟨.of_lki lki (State.answer_replies _ _ _ _ _), by simpa using arb, by simpa using pool, by simpa using ports,
      by simpa using jm, by simpa using pending, fun b => ?_⟩
    rw [State.bay_of_bays (State.answer_bays ..)]
    simpa [named] using bay b

theorem grace_spec (tag sel g : Nat) (s : State) : ∃ t, exec (.grace tag sel g) s = .next t ∧
    (4 ≤ sel → sel ≠ 255 → OnlyLink s t ∧ Replies s t ⟨kindGrace, tag, .badArg, .codeAlone⟩) ∧
    (sel < 4 ∨ sel = 255 → Replies s t ⟨kindGrace, tag, .done, .grace (max 5 (min 120 g))⟩ ∧
      t.bays = s.bays ∧ t.arb = s.arb ∧ t.pool = s.pool ∧ t.jm = s.jm ∧ t.pending = s.pending ∧
      ∀ p : Fin 4, t.port p =
        (if sel = 255 ∨ sel = p.val then { s.port p with grace := max 5 (min 120 g) } else s.port p)) := by
  refine ⟨_, rfl, ?_⟩
  rcases selectorOf_cases (n := 4) (sel := sel) (by omega) with ⟨none, big, other⟩ | ⟨is, some, inside, named⟩
  · rw [none]
    exact ⟨fun _ _ => ⟨.answered s _ _ _ _ _, .answered s _ _ _ _ _⟩, fun inside => by omega⟩
  · rw [some]
    refine ⟨fun big other => by omega, fun _ => ?_⟩
    obtain ⟨bays, arb, pool, jm, lki, pending, port⟩ := storeGraces_spec (clamp 5 120 g) is (s.arrive (.grace tag sel g)) _ rfl
    refine ⟨.of_lki lki (State.answer_replies _ _ _ _ _), by simpa using bays, by simpa using arb, by simpa using pool,
      by simpa using jm, by simpa using pending, fun p => ?_⟩
    rw [State.port_of_ports (State.answer_ports ..)]
    simpa [named, clamp] using port p

/-- Settles O12: the checked selector names the records that the fold stores in. -/
theorem healthAndGraceClamp : Obligations.HealthAndGraceClamp := ⟨health_spec, grace_spec⟩

end Sys2Proof.Machine
end

section
namespace Sys2Proof.Machine

/-! ## PLAN and its answer -/

theorem laneHeld_iff (s : State) : s.laneHeld = true ↔ ∃ n, (s.lane n).holder.isSome = true := by
  simp [State.laneHeld]

theorem plan_spec (tag number : Nat) (s : State) : ∃ t, exec (.plan tag number) s = .next t ∧
    (4 ≤ number → OnlyLink s t ∧ Replies s t ⟨kindPlan, tag, .badArg, .codeAlone⟩) ∧
    (number < 4 → (∃ n, (s.lane n).holder.isSome = true) → OnlyLink s t ∧
      Replies s t ⟨kindPlan, tag, .busy, .codeAlone⟩) ∧
    (∀ p : Fin 4, number = p.val → (∀ n, (s.lane n).holder = none) →
      t = { s with
        arb := { s.arb with asking := some ⟨tag, p⟩ }
        wire := s.wire.erase (.plan tag number) ++ [Instr.poolFreeQuestion p] }) := by
  refine ⟨_, rfl, ?_⟩
  split
  · rename_i h
    have big := indexOf_eq_none.1 h
    exact ⟨fun _ => ⟨.answered s _ _ _ _ _, .answered s _ _ _ _ _⟩, fun _ => by omega, fun p e => by omega⟩
  · rename_i p h
    have named := indexOf_eq_some.1 h
    split
    · rename_i held
      refine ⟨fun _ => by omega, fun _ _ => ⟨.answered s _ _ _ _ _, .answered s _ _ _ _ _⟩, fun _ _ free => ?_⟩
      obtain ⟨n, taken⟩ := (laneHeld_iff s).1 held
      simp [free n] at taken
    · rename_i free
      refine ⟨fun _ => by omega, fun _ taken => absurd ((laneHeld_iff s).2 taken) free, fun q e _ => ?_⟩
      obtain rfl : p = q := Fin.ext (named.symm.trans e)
      rfl

theorem poolFreeQuestion_spec (p : Fin 4) (s : State) : ∃ t, exec (.poolFreeQuestion p) s = .next t ∧ OnlyPool s t ∧
    t.pool.extents = s.pool.extents ∧ t.pool.waits = s.pool.waits ∧
    (s.pool.extents = [] → t.pool.window = (Config.planRow p).window ∧
      t.wire = s.wire.erase (.poolFreeQuestion p) ++ [Instr.planAnswer true]) ∧
    (s.pool.extents ≠ [] → t.pool.window = s.pool.window ∧
      t.wire = s.wire.erase (.poolFreeQuestion p) ++ [Instr.planAnswer false]) := by
  obtain ⟨t, run, only⟩ := poolFreeQuestion_worksOnPool p s
  refine ⟨t, run, only, ?_⟩
  cases run
  split
  · rename_i none
    exact ⟨rfl, rfl, fun _ => ⟨rfl, rfl⟩, fun some => absurd none some⟩
  · rename_i some
    exact ⟨rfl, rfl, fun none => absurd none some, fun _ => ⟨rfl, rfl⟩⟩

/-- The plan and its question are settled, the lanes are granted, and the reply follows. -/
theorem planAnswered_spec (s u t : State) (a : Asking) (plan : Fin 4) (code : ReplyCode)
    (h : u = { s with arb := { s.arb with plan := plan, asking := none } })
    (e : t = u.grants.answer kindPlan a.tag code .codeAlone) : t.pool = s.pool ∧ t.ports = s.ports ∧
      t.jm = s.jm ∧ t.pending = s.pending ∧ (∀ b, bayCore (t.bay b) = bayCore (s.bay b)) ∧ t.arb.asking = none ∧
      t.arb.plan = plan ∧ Replies s t ⟨kindPlan, a.tag, code, .codeAlone⟩ := by
  have answered := State.answer_spec u.grants kindPlan a.tag code .codeAlone
  obtain ⟨pool, ports, jm, pending, plan', asking, bays, -⟩ := (GrantOnly.grants u).trans (.of_link answered)
  obtain ⟨log, hand⟩ := RepliesKept.grants u
  subst h e
  exact ⟨pool, ports, jm, pending, bays, asking, plan', .of_le log hand (State.answer_replies _ _ _ _ _)⟩

theorem planAnswer_spec (yes : Bool) (s : State) : ∃ t, exec (.planAnswer yes) s = .next t ∧ t.pool = s.pool ∧
    t.ports = s.ports ∧ t.jm = s.jm ∧ t.pending = s.pending ∧ (∀ b, bayCore (t.bay b) = bayCore (s.bay b)) ∧
    (s.arb.asking = none → t = s.arrive (.planAnswer yes)) ∧
    (∀ a, s.arb.asking = some a → t.arb.asking = none ∧ t.arb.plan = (if yes then a.plan else s.arb.plan) ∧
      Replies s t ⟨kindPlan, a.tag, if yes then .done else .busy, .codeAlone⟩) := by
  refine ⟨_, rfl, ?_⟩
  split
  · rename_i none
    have none : s.arb.asking = .none := none
    exact ⟨rfl, rfl, rfl, rfl, fun _ => rfl, fun _ => rfl, by simp [none]⟩
  · rename_i a some
    have some : s.arb.asking = .some a := some
    split
    · rename_i yes
      obtain ⟨pool, ports, jm, pending, bays, asked, plan, replies⟩ :=
        planAnswered_spec (s.arrive (.planAnswer _)) _ _ a a.plan .done rfl rfl
      refine ⟨pool, ports, jm, pending, bays, by simp [some], fun x e => ?_⟩
      obtain rfl : a = x := Option.some.inj (some.symm.trans e)
      subst yes
      exact ⟨asked, plan, .of_lki (u := s.arrive _) rfl replies⟩
    · rename_i no
      obtain ⟨pool, ports, jm, pending, bays, asked, plan, replies⟩ :=
        planAnswered_spec (s.arrive (.planAnswer _)) _ _ a s.arb.plan .busy rfl rfl
      refine ⟨pool, ports, jm, pending, bays, by simp [some], fun x e => ?_⟩
      obtain rfl : a = x := Option.some.inj (some.symm.trans e)
      obtain rfl := Bool.eq_false_of_not_eq_true no
      exact ⟨asked, plan, .of_lki (u := s.arrive _) rfl replies⟩

/-- Settles O11: the request, the pool's question, the answer, and the search that waits for it. -/
theorem planAsksThePool : Obligations.PlanAsksThePool :=
  ⟨plan_spec, poolFreeQuestion_spec, planAnswer_spec, fun s asking => s.grants_none (.inl asking)⟩

end Sys2Proof.Machine
end

section
namespace Sys2Proof.Machine

/-! ## The health window -/

/-- A bay's return to NORMAL is a change of its record with notice and lamp (R65, R66). -/
theorem State.changeMode_normal (s : State) (b : Fin 8) : s.changeMode b .normal =
    s.bayChanges b { s.bay b with health := (s.bay b).health.change .normal } (.healthMode .normal) := rfl

/-- A new window of W with no count, the mode standing (R64, R65). -/
def State.windowAgain (s : State) (b : Fin 8) : State :=
  s.setBay b { s.bay b with health := (s.bay b).health.change (s.bay b).health.mode }

/-- An expiry takes a CAREFUL bay of few retry events back to NORMAL, and else begins a window anew (R64, R65). -/
theorem State.windowExpires_eq (s : State) (b : Fin 8) : s.windowExpires b =
    if (s.bay b).health.mode = .careful ∧ (s.bay b).health.count ≤ (s.bay b).health.lo then s.changeMode b .normal
    else s.windowAgain b := by
  unfold State.windowExpires State.windowAgain
  dsimp only
  cases (s.bay b).health.mode with
  | normal => simp
  | careful => simp

/-- Settles O29: the monitor is stopped, or returns to NORMAL, or begins a window anew. -/
theorem healthWindowsExpire : Obligations.HealthWindowsExpire := by
  refine fun b s => ⟨_, rfl, ?_⟩
  split
  · rename_i running
    rw [State.windowExpires_eq]
    refine ⟨?_, fun stopped => by simp [stopped] at running, fun _ => ?_⟩
    · split
      · exact .bayChanges s b _ _
      · exact .setBay s b _
    · split
      · rename_i returns
        obtain ⟨careful, few⟩ := returns
        rw [State.changeMode_normal, if_pos few]
        refine ⟨⟨_, State.bayChanges_bay s b _ _⟩,
          fun _ _ => ⟨lampRight_bayChanges s b _ _, State.bayChanges_wire s b _ _⟩, fun stays => ?_⟩
        rcases stays with normal | many
        · simp [normal] at careful
        · omega
      · rename_i stays
        have mode : (if (s.bay b).health.count ≤ (s.bay b).health.lo then HealthMode.normal
            else (s.bay b).health.mode) = (s.bay b).health.mode := by
          split
          · rename_i few
            cases h : (s.bay b).health.mode with
            | normal => rfl
            | careful => exact absurd ⟨h, few⟩ stays
          · rfl
        refine ⟨⟨(s.bay b).lamp, ?_⟩, fun careful few => absurd ⟨careful, few⟩ stays, fun _ => ⟨rfl, ?_⟩⟩
        · rw [mode]
          exact State.bay_setBay s b _
        · rw [State.windowAgain, State.bay_setBay]
  · rename_i stopped
    exact ⟨.refl b s, fun _ => rfl, fun running => absurd running stopped⟩

end Sys2Proof.Machine
end

section
namespace Sys2Proof.Machine

/-! ## A search with no host card read on the list -/

theorem not_hostNext {s : State} (none : s.arb.requests = []) (r : CardRead) : ¬ HostNext s r := by
  rintro ⟨before, id, after, list, -⟩
  simp [none] at list

/-- The lane granted for a turn serves the bay's own work. -/
theorem turnGiven_holder (s : State) (n m : Fin 4) (b : Fin 8) (item : WorkItem) :
    ((turnGiven s n b item).lane m).holder = if m = n then some (.work b item) else (s.lane m).holder := by
  by_cases same : m = n
  · subst same
    simp [turnGiven, State.lane]
  · simp [turnGiven, State.lane, same, Fin.val_ne_of_ne (Ne.symm same)]

/-- The lanes are granted for the bays' own work alone, and the link interface stands (R52). -/
theorem GrantRound.turns_only {s t : State} (h : GrantRound s t) (none : s.arb.requests = []) :
    t.lki = s.lki ∧ t.arb.requests = [] ∧
      ∀ n r, (t.lane n).holder = some (.host r) → (s.lane n).holder = some (.host r) := by
  induction h with
  | ends s => exact ⟨rfl, none, fun _ _ h => h⟩
  | host s u t n r _ next => exact absurd next (not_hostNext none r)
  | bay s t n b item _ _ _ _ _ ih =>
    obtain ⟨lki, requests, hosts⟩ := ih none
    refine ⟨lki, requests, fun m r host => ?_⟩
    have holder := hosts m r host
    rw [turnGiven_holder] at holder
    split at holder
    · simp at holder
    · exact holder

/-! ## The link reset -/

/-- The link interface and the lanes of the host card reads at a link reset (R68, R176). -/
def State.linkLost (s : State) : State := { s with lki := linkDown s.lki, arb := arbLinkReset s.arb }

theorem State.linkLost_lane (s : State) (n : Fin 4) : s.linkLost.lane n = abortHost (s.lane n) := by
  simp [State.linkLost, State.lane, arbLinkReset]

theorem abortHost_ne_host (l : Lane) (r : HostRead) : (abortHost l).holder ≠ some (.host r) := by
  unfold abortHost
  split
  · simp [Lane.reset]
  · rename_i none
    exact none r

theorem abortHost_work {l : Lane} {b : Fin 8} {i : WorkItem} (h : l.holder = some (.work b i)) : abortHost l = l := by
  simp [abortHost, h]

/-- Settles O7: the host card reads are gone from the lanes and from the list before the search, which grants turns alone. -/
theorem linkResetLosesTransit : Obligations.LinkResetLosesTransit := by
  intro s
  refine ⟨s.linkLost.grants, rfl, ?_⟩
  obtain ⟨lki, requests, hosts⟩ := s.linkLost.grants_round.turns_only rfl
  obtain ⟨pool, ports, jm, pending, plan, asking, bays, -⟩ := GrantOnly.grants s.linkLost
  refine ⟨lki, requests, plan, asking, fun n r host => ?_, fun n b i work => ?_, bays, s.linkLost.grants_wire, pool, ports,
    jm, pending⟩
  · have lost := hosts n r host
    rw [State.linkLost_lane] at lost
    exact abortHost_ne_host _ r lost
  · have stands : s.linkLost.lane n = s.lane n := (s.linkLost_lane n).trans (abortHost_work work)
    rw [State.grants_held _ n (by simp [stands, work]), stands]

end Sys2Proof.Machine
end

section
namespace Sys2Proof.Machine

/-! ## The acts of the link interface in their order -/

theorem State.linkAct_sends {s u : State} (up : s.lki.up = true) (asked : s.lki.inWaiting ≠ 0) (h : s.sendOne = some u) :
    s.linkAct = some { u with lki := { u.lki with inWaiting := u.lki.inWaiting - 1 } } := by
  simp [State.linkAct, up, asked, h]

theorem State.linkAct_takes {s : State} {x : List Byte} {rest : List (List Byte)} (up : s.lki.up = true)
    (unasked : s.lki.inWaiting = 0) (received : s.lki.receive = x :: rest) (may : mayTakeRequest s.lki = true) :
    s.linkAct = some (({ s with lki := { s.lki with receive := rest } } : State).takeTransfer x) := by
  simp [State.linkAct, up, unasked, received, may]

theorem State.linkAct_none {s : State} (unsent : s.lki.inWaiting = 0 ∨ s.sendOne = none)
    (untaken : s.lki.receive = [] ∨ mayTakeRequest s.lki = false) : s.linkAct = none := by
  cases h : s.linkAct with
  | none => rfl
  | some t =>
    obtain ⟨-, ⟨u, asked, sends, -⟩ | ⟨x, rest, received, may, -⟩⟩ := State.linkAct_cases h
    · rcases unsent with e | e
      · exact absurd e asked
      · simp [e] at sends
    · rcases untaken with e | e
      · simp [e] at received
      · simp [e] at may

theorem State.linkActs_none {s : State} (h : s.linkAct = none) (n : Nat) : State.linkActs n s = s := by
  cases n with
  | zero => rfl
  | succ n => simp [State.linkActs, h]

theorem State.linkActs_some {s t : State} (h : s.linkAct = some t) (n : Nat) :
    State.linkActs (n + 1) s = State.linkActs n t := by
  simp [State.linkActs, h]

/-- A transfer taken is a request in hand, or has a refusal ready that answers no host card read: no other is taken until then
(R167). -/
theorem mayTakeRequest_takeTransfer (s : State) (x : List Byte) : mayTakeRequest (s.takeTransfer x).lki = false := by
  unfold State.takeTransfer
  split <;> simp [mayTakeRequest]

theorem State.takeTransfer_receive (s : State) (x : List Byte) : (s.takeTransfer x).lki.receive = s.lki.receive ∧
    (s.takeTransfer x).lki.inWaiting = s.lki.inWaiting := by
  unfold State.takeTransfer
  split <;> exact ⟨rfl, rfl⟩

/-! ## SEND_FRAME -/

/-- The host asks for one more transfer. -/
def State.asked (s : State) : State := { s with lki := { s.lki with inWaiting := s.lki.inWaiting + 1 } }

/-- The state after one frame has been sent: the ready replies, the reads, the notices that are left, and the message. -/
def State.frameSent (s : State) (ready : List ReadyReply) (reads : List CardRead) (notices : List QueuedNotice)
    (m : OutMessage) : State :=
  { s with
    lki := { s.lki with
      ready := ready, reads := reads, notices := notices, sent := s.lki.sent ++ [⟨m, messageBytes s.fresh m⟩] }
    fresh := s.fresh + 1 }

theorem State.sendOne_reply {s : State} {r : ReadyReply} {rest : List ReadyReply} (h : s.lki.ready = r :: rest) :
    s.sendOne = some (s.frameSent rest (dropRead r.read s.lki.reads) s.lki.notices (.reply r.reply)) := by
  simp [State.sendOne, h, State.frameSent]

theorem State.sendOne_notice {s : State} {n : QueuedNotice} {rest : List QueuedNotice} (ready : s.lki.ready = [])
    (h : s.lki.notices = n :: rest) : s.sendOne = some (s.frameSent [] s.lki.reads rest (.notice n)) := by
  simp [State.sendOne, ready, h, State.frameSent]

theorem State.sendOne_none {s : State} (ready : s.lki.ready = []) (notices : s.lki.notices = []) : s.sendOne = none := by
  simp [State.sendOne, ready, notices]

/-- With no transfer of the host waiting before, the first act sends the frame, and the transfers received are taken after it. -/
theorem State.asked_sends {s : State} {ready : List ReadyReply} {reads : List CardRead} {notices : List QueuedNotice}
    {m : OutMessage} (up : s.lki.up = true) (unasked : s.lki.inWaiting = 0)
    (h : s.asked.sendOne = some (s.asked.frameSent ready reads notices m)) :
    s.asked.linkSettle = State.linkActs s.lki.receive.length (s.frameSent ready reads notices m) := by
  have act := State.linkAct_sends (s := s.asked) up (Nat.succ_ne_zero _) h
  have sent : ({ s.asked.frameSent ready reads notices m with
      lki := { (s.asked.frameSent ready reads notices m).lki with inWaiting := s.asked.lki.inWaiting - 1 } } : State) =
      s.frameSent ready reads notices m := by
    simp [State.frameSent, State.asked, unasked]
  have acts : s.asked.lki.inWaiting + s.asked.lki.receive.length = s.lki.receive.length + 1 := by
    simp [State.asked, unasked, Nat.add_comm]
  rw [State.linkSettle, acts, State.linkActs_some act]
  exact congrArg _ sent

/-- What the frame sent leaves of the messages to the host stands while the transfers received are taken. -/
theorem State.asked_sends_fields {s t : State} {ready : List ReadyReply} {reads : List CardRead}
    {notices : List QueuedNotice} {m : OutMessage} (unasked : s.lki.inWaiting = 0)
    (h : t = State.linkActs s.lki.receive.length (s.frameSent ready reads notices m)) :
    t.lki.sent = s.lki.sent ++ [⟨m, messageBytes s.fresh m⟩] ∧ t.lki.notices = notices ∧ t.lki.reads = reads ∧
      t.lki.inWaiting = 0 := by
  subst h
  exact State.linkActs_unasked _ (s.frameSent ready reads notices m) unasked

/-- When the last reply has gone, the next transfer is taken, and it alone. -/
theorem State.takes_one {s : State} {x : List Byte} {rest : List (List Byte)} (up : s.lki.up = true)
    (unasked : s.lki.inWaiting = 0) (received : s.lki.receive = x :: rest) (may : mayTakeRequest s.lki = true) (n : Nat) :
    (State.linkActs (n + 1) s).lki.receive = rest := by
  have act := State.linkAct_takes up unasked received may
  obtain ⟨receive, inWaiting⟩ := State.takeTransfer_receive ({ s with lki := { s.lki with receive := rest } } : State) x
  have stop := State.linkAct_none (.inl (inWaiting.trans unasked)) (.inr (mayTakeRequest_takeTransfer _ x))
  rw [State.linkActs_some act, State.linkActs_none stop, receive]

theorem linkUp_spec (s : State) : ∃ t, exec .linkUp s = .next t ∧ OnlyLink s t ∧ t.lki.up = true ∧
    s.replyLog <+: t.replyLog ∧ t.noticeLog = s.noticeLog ∧ t.lki.freshStart = s.lki.freshStart ∧
    t.lki.droppedMark = s.lki.droppedMark := by
  have spec := State.linkSettle_spec ({ s with lki := { s.lki with up := true } } : State)
  obtain ⟨bays, arb, pool, ports, jm, -, pending, replies, -, -, up, fresh, dropped, notices, -⟩ := spec
  exact ⟨_, rfl, ⟨bays, arb, pool, ports, jm, pending⟩, up, replies, notices, fresh, dropped⟩

theorem sendFrame_spec (s : State) (up : s.lki.up = true) : ∃ t, exec .sendFrame s = .next t ∧ OnlyLink s t ∧
    s.replyLog <+: t.replyLog ∧ t.noticeLog = s.noticeLog ∧
    (∀ r rest, s.lki.inWaiting = 0 → s.lki.ready = r :: rest →
      t.lki.sent = s.lki.sent ++ [⟨.reply r.reply, messageBytes s.fresh (.reply r.reply)⟩] ∧
        t.lki.reads = dropRead r.read s.lki.reads ∧ t.lki.notices = s.lki.notices ∧ t.lki.inWaiting = 0) ∧
    (∀ r x xs, s.lki.inWaiting = 0 → s.lki.ready = [r] → s.lki.inHand = none → s.lki.receive = x :: xs →
      t.lki.receive = xs) ∧
    (∀ n rest, s.lki.inWaiting = 0 → s.lki.ready = [] → s.lki.notices = n :: rest →
      t.lki.sent = s.lki.sent ++ [⟨.notice n, messageBytes s.fresh (.notice n)⟩] ∧ t.lki.notices = rest ∧
        t.lki.reads = s.lki.reads ∧ t.lki.inWaiting = 0) ∧
    (s.lki.ready = [] → s.lki.notices = [] → s.lki.receive = [] ∨ mayTakeRequest s.lki = false →
      t = { s with lki := { s.lki with inWaiting := s.lki.inWaiting + 1 } }) := by
  have run : exec .sendFrame s = .next s.asked.linkSettle := congrArg Host.Outcome.next (if_pos up)
  have spec := State.linkSettle_spec s.asked
  have only : OnlyLink s _ := OnlyLink.of_linkOnly spec
  obtain ⟨-, -, -, -, -, -, -, replies, -, -, -, -, -, notices, -⟩ := spec
  refine ⟨_, run, only, replies, notices, fun r rest unasked ready => ?_, fun r x xs unasked ready hand received => ?_,
    fun n rest unasked ready queued => ?_, fun ready queued untaken => ?_⟩
  · obtain ⟨sent, queue, reads, waits⟩ :=
      State.asked_sends_fields unasked (State.asked_sends up unasked (State.sendOne_reply (s := s.asked) ready))
    exact ⟨sent, reads, queue, waits⟩
  · rw [State.asked_sends up unasked (State.sendOne_reply (s := s.asked) ready), received]
    exact State.takes_one (s := s.frameSent [] _ _ _) up unasked received (by simp [mayTakeRequest, State.frameSent, up, hand]) _
  · exact State.asked_sends_fields unasked (State.asked_sends up unasked (State.sendOne_notice (s := s.asked) ready queued))
  · exact State.linkActs_none (State.linkAct_none (s := s.asked) (.inr (State.sendOne_none ready queued)) untaken) _

end Sys2Proof.Machine
end

section
namespace Sys2Proof.Machine

/-! ## Fields written one after another -/

/-- Integers of the given numbers of bytes, one after another. -/
def fieldBytes (fs : List (Nat × Nat)) : List Byte := fs.flatMap (fun f => leBytes f.1 f.2)

/-- The bytes that fields take. -/
def fieldSize (fs : List (Nat × Nat)) : Nat := (fs.map Prod.fst).sum

@[simp] theorem fieldBytes_length (fs : List (Nat × Nat)) : (fieldBytes fs).length = fieldSize fs := by
  simp [fieldBytes, fieldSize, List.length_flatMap]

/-- Each field reads back at the end of those before it. -/
theorem fieldAt_fields {fs : List (Nat × Nat)} {widths : List Nat} (given : fs.map Prod.fst = widths) (rest : List Byte)
    (i : Nat) {n v : Nat} (h : fs[i]? = some (n, v)) (fits : v < 256 ^ n) :
    fieldAt (fieldBytes fs ++ rest) (widths.take i).sum n = v := by
  subst given
  induction fs generalizing i with
  | nil => simp at h
  | cons f fs ih =>
    have split : fieldBytes (f :: fs) ++ rest = leBytes f.1 f.2 ++ (fieldBytes fs ++ rest) := by simp [fieldBytes]
    rw [split]
    cases i with
    | zero =>
      obtain rfl : f = (n, v) := by simpa using h
      exact fieldAt_front n v _ fits
    | succ i => exact (fieldAt_skip _ _ _ ((fs.map Prod.fst).take i).sum _ (by simp)).trans (ih i h)

theorem fieldAt_drop (m : List Byte) (k o n : Nat) : fieldAt (m.drop k) o n = fieldAt m (k + o) n := by
  simp [fieldAt, List.drop_drop]

/-- A field that ends before what follows does not see it. -/
theorem fieldAt_before (xs rest : List Byte) (o n : Nat) (h : o + n ≤ xs.length) :
    fieldAt (xs ++ rest) o n = fieldAt xs o n := by
  simp only [fieldAt]
  rw [List.drop_append_of_le_length (by omega), List.take_append_of_le_length (by simp; omega)]

/-- A field of one of several records of the same size that stand one after another. -/
theorem fieldAt_flatMap {α : Type} (f : α → List Byte) (size : Nat) (each : ∀ x, (f x).length = size) {xs : List α}
    (rest : List Byte) {i : Nat} {x : α} (h : xs[i]? = some x) {o n : Nat} (inside : o + n ≤ size) :
    fieldAt (xs.flatMap f ++ rest) (size * i + o) n = fieldAt (f x) o n := by
  induction xs generalizing i with
  | nil => simp at h
  | cons y xs ih =>
    rw [List.flatMap_cons, List.append_assoc]
    cases i with
    | zero =>
      obtain rfl : y = x := by simpa using h
      rw [Nat.mul_zero, Nat.zero_add]
      exact fieldAt_before _ _ _ _ (by rw [each]; exact inside)
    | succ i => exact (fieldAt_skip _ _ _ (size * i + o) _ (by rw [each]; ring)).trans (ih h)

theorem frameOf_drop (k f g : Nat) (b : List Byte) : (frameOf k f g b).drop 8 = b := by
  rw [frameOf, List.drop_append, List.drop_eq_nil_of_le (by simp)]
  simp

/-! ## Codes and values that may be absent -/

theorem codeOpt_eq {α : Type} (f : α → Nat) (o : Option α) : codeOpt f o = (o.map f).getD 0 := by
  cases o <;> rfl

theorem codeOpt_lt {α : Type} {f : α → Nat} {k : Nat} (o : Option α) (pos : 0 < k) (h : ∀ a, o = some a → f a < k) :
    codeOpt f o < k := by
  cases o with
  | none => exact pos
  | some a => exact h a rfl

theorem codeReply_lt (c : ReplyCode) : codeReply c < 256 := by cases c <;> decide

theorem codeClip_lt (c : ClipState) : codeClip c < 256 := by cases c <;> decide

theorem codeCopy_lt (c : CopyState) : codeCopy c < 256 := by cases c <;> decide

theorem codeWait_lt (o : Option WaitReason) : codeOpt codeWait o < 256 :=
  codeOpt_lt o (by decide) fun a _ => by cases a <;> decide

theorem codeCause_lt (o : Option Cause) : codeOpt codeCause o < 256 :=
  codeOpt_lt o (by decide) fun a _ => by cases a <;> decide

/-- A presence byte of two or three bits. -/
theorem presence_lt (a b c : Bool) : presenceBit a 1 + presenceBit b 2 + presenceBit c 4 < 256 := by
  cases a <;> cases b <;> cases c <;> decide

/-! ## The reply of a host card read -/

theorem cardReadReply_fields (fresh blocks failing : Nat) (r : Reply) (data m : List Byte)
    (body : r.body = .cardRead blocks failing data) (small : blocks < 65536) (fits : failing < 2 ^ 32)
    (short : data.length ≤ 32768) (kind : r.kind < 256) (tag : r.tag < 65536)
    (message : m = messageBytes fresh (.reply r)) : fieldAt m 0 4 = 7 + data.length ∧ fieldAt m 4 1 = r.kind ∧
      fieldAt m 5 1 = 1 ∧ fieldAt m 6 2 = r.tag ∧ fieldAt m 8 1 = codeReply r.code ∧ fieldAt m 9 2 = blocks ∧
      fieldAt m 11 4 = failing ∧ m.drop 15 = data := by
  have written : replyBytes fresh r = fieldBytes [(1, codeReply r.code), (2, blocks), (4, failing)] ++ data := by
    simp [replyBytes, body, fieldBytes]
  have widths : [(1, codeReply r.code), (2, blocks), (4, failing)].map Prod.fst = [1, 2, 4] := rfl
  have length : (replyBytes fresh r).length = 7 + data.length := by simp [written, fieldSize]
  obtain ⟨size, kinds, flags, tags, behind⟩ := frameOf_fields r.kind 1 r.tag (replyBytes fresh r) (by omega) kind (by omega) tag
  subst message
  have fields (o n : Nat) : fieldAt (messageBytes fresh (.reply r)) (8 + o) n = fieldAt (replyBytes fresh r) o n := by
    rw [← fieldAt_drop]
    exact congrArg (fieldAt · o n) behind
  refine ⟨size.trans length, kinds, flags, tags, (fields 0 1).trans ?_, (fields 1 2).trans ?_, (fields 3 4).trans ?_, ?_⟩
  · rw [written]
    exact fieldAt_fields widths data 0 rfl (codeReply_lt _)
  · rw [written]
    exact fieldAt_fields widths data 1 rfl small
  · rw [written]
    exact fieldAt_fields widths data 2 rfl (by omega)
  · have split : (messageBytes fresh (.reply r)).drop 15 = ((messageBytes fresh (.reply r)).drop 8).drop 7 := by
      rw [List.drop_drop]
    have front : (messageBytes fresh (.reply r)).drop 8 = _ := behind.trans written
    rw [split, front]
    exact List.drop_left' (fieldBytes_length _)

/-! ## A clip notice -/

/-- The fields of the frame of a clip notice, the header's four before them (R179, R185). -/
def clipNoticeFields (dropped : Bool) (clip job : Nat) (st : ClipState) (wait : Option WaitReason) (cause : Option Cause) :
    List (Nat × Nat) :=
  [(4, 6), (1, 0x81), (1, if dropped then 6 else 2), (2, 0), (2, clip), (1, job), (1, codeClip st),
    (1, codeOpt codeWait wait), (1, codeOpt codeCause cause)]

theorem clipNotice_fields (fresh : Nat) (n : QueuedNotice) (clip job : Nat) (st : ClipState) (wait : Option WaitReason)
    (cause : Option Cause) (m : List Byte) (notice : n.notice = .clip clip job st wait cause) (small : clip < 65536)
    (few : job < 256) (message : m = messageBytes fresh (.notice n)) : m.length = 14 ∧ fieldAt m 0 4 = 6 ∧
      fieldAt m 4 1 = 0x81 ∧ fieldAt m 5 1 = (if n.dropped then 6 else 2) ∧ fieldAt m 6 2 = 0 ∧ fieldAt m 8 2 = clip ∧
      fieldAt m 10 1 = job ∧ fieldAt m 11 1 = codeClip st ∧ fieldAt m 12 1 = codeOpt codeWait wait ∧
      fieldAt m 13 1 = codeOpt codeCause cause := by
  have written : m = fieldBytes (clipNoticeFields n.dropped clip job st wait cause) ++ [] := by
    simp [message, messageBytes, notice, noticeKind, noticeBytes, frameOf, fieldBytes, clipNoticeFields]
  have widths : (clipNoticeFields n.dropped clip job st wait cause).map Prod.fst = [4, 1, 1, 2, 2, 1, 1, 1, 1] := rfl
  have flags : (if n.dropped then 6 else 2) < 256 := by split <;> decide
  rw [written]
  exact ⟨by simp [fieldSize, widths], fieldAt_fields widths [] 0 rfl (by decide), fieldAt_fields widths [] 1 rfl (by decide),
    fieldAt_fields widths [] 2 rfl flags, fieldAt_fields widths [] 3 rfl (by decide), fieldAt_fields widths [] 4 rfl small,
    fieldAt_fields widths [] 5 rfl few, fieldAt_fields widths [] 6 rfl (codeClip_lt _), fieldAt_fields widths [] 7 rfl (codeWait_lt _),
    fieldAt_fields widths [] 8 rfl (codeCause_lt _)⟩

end Sys2Proof.Machine
end

section
namespace Sys2Proof.Machine

/-! ## The reply of CLIP_QUERY -/

/-- The fields of the reply up to the label, the code before them (R185). -/
def clipHead (code : ReplyCode) (c : Clip) : List (Nat × Nat) :=
  [(1, codeReply code), (2, c.id), (1, c.job), (1, codeClip c.state), (1, codeOpt codeWait c.wait),
    (1, codeOpt codeCause c.cause),
    (1, presenceBit c.expected.isSome 1 + presenceBit c.digest.isSome 2 + presenceBit c.mismatch 4), (1, c.attempts),
    (1, c.label.length), (1, c.runs.length), (1, c.damage.length), (1, c.copies.length), (8, c.length), (8, c.bytesRead),
    (8, (c.expected.getD 0#64).toNat), (8, (c.digest.getD 0#64).toNat)]

/-- The fields of a copy (R185). -/
def copyFields (k : Copy) : List (Nat × Nat) :=
  [(1, k.port.val), (1, presenceBit k.required 1), (1, codeCopy k.state), (1, codeOpt codeCause k.cause), (1, k.attempts),
    (1, presenceBit k.placement.isSome 1 + presenceBit k.digest.isSome 2), (1, codeSource k), (1, codeSourcePort k),
    (8, codeOpt Placement.start k.placement), (4, codeOpt Placement.footprint k.placement),
    (4, codeOpt Placement.dataUnits k.placement), (8, (k.digest.getD 0#64).toNat)]

theorem clipHead_widths (code : ReplyCode) (c : Clip) :
    (clipHead code c).map Prod.fst = [1, 2, 1, 1, 1, 1, 1, 1, 1, 1, 1, 1, 8, 8, 8, 8] := rfl

theorem copyFields_widths (k : Copy) : (copyFields k).map Prod.fst = [1, 1, 1, 1, 1, 1, 1, 1, 8, 4, 4, 8] := rfl

theorem clipReply_written (fresh : Nat) {r : Reply} {c : Clip} (body : r.body = .clip c) :
    replyBytes fresh r = fieldBytes (clipHead r.code c) ++
      (c.label ++ (c.runs.flatMap runBytes ++ (c.damage.flatMap (leBytes 4) ++ c.copies.flatMap copyBytes))) := by
  simp [replyBytes, body, clipBytes, digestBytes, fieldBytes, clipHead]

theorem copyBytes_written (k : Copy) : copyBytes k = fieldBytes (copyFields k) ++ [] := by
  simp [copyBytes, digestBytes, fieldBytes, copyFields]

theorem runBytes_written (x : Run) : runBytes x = fieldBytes [(4, x.start), (4, x.count)] ++ [] := by
  simp [runBytes, fieldBytes]

@[simp] theorem copyBytes_length (k : Copy) : (copyBytes k).length = 32 := by
  simp [copyBytes_written, fieldSize, copyFields_widths]

theorem codeSource_lt (k : Copy) : codeSource k < 256 := by
  unfold codeSource
  split
  · split <;> decide
  · decide

theorem codeSourcePort_lt (k : Copy) : codeSourcePort k < 256 := by
  unfold codeSourcePort
  split
  · split
    · omega
    · decide
  · decide

/-- The repair bytes of a copy that is under no repair. -/
theorem codeSource_of_ne {k : Copy} (h : k.state ≠ .repairing) : codeSource k = 0 ∧ codeSourcePort k = 0 := by
  unfold codeSource codeSourcePort
  split
  · rename_i state _
    exact absurd state h
  · exact ⟨rfl, rfl⟩

/-- The byte that tells a repair's source (R185). -/
def sourceByte : RepairSource → Nat
  | .none => 0
  | .card => 1
  | .port _ => 2

/-- The byte that tells the sibling port of a repair (R185). -/
def sourcePortByte : RepairSource → Nat
  | .port p => p.val
  | _ => 0

theorem codeSource_repairing {k : Copy} {y : Repair} (state : k.state = .repairing) (repair : k.repair = some y) :
    codeSource k = sourceByte y.source ∧ codeSourcePort k = sourcePortByte y.source := by
  obtain ⟨source, excluded, running, reading⟩ := y
  unfold codeSource codeSourcePort
  rw [state, repair]
  cases source with
  | none => exact ⟨rfl, rfl⟩
  | card => exact ⟨rfl, rfl⟩
  | port p => exact ⟨rfl, rfl⟩

theorem clipHead_fields {code : ReplyCode} {c : Clip} {m : List Byte} (rest : List Byte) (fits : ClipFits c)
    (written : m = fieldBytes (clipHead code c) ++ rest) : fieldAt m 0 1 = codeReply code ∧ fieldAt m 1 2 = c.id ∧
      fieldAt m 3 1 = c.job ∧ fieldAt m 4 1 = codeClip c.state ∧ fieldAt m 5 1 = codeOpt codeWait c.wait ∧
      fieldAt m 6 1 = codeOpt codeCause c.cause ∧
      fieldAt m 7 1 = (if c.expected.isSome then 1 else 0) + (if c.digest.isSome then 2 else 0) +
        (if c.mismatch then 4 else 0) ∧
      fieldAt m 8 1 = c.attempts ∧ fieldAt m 9 1 = c.label.length ∧ fieldAt m 10 1 = c.runs.length ∧
      fieldAt m 11 1 = c.damage.length ∧ fieldAt m 12 1 = c.copies.length ∧ fieldAt m 13 8 = c.length ∧
      fieldAt m 21 8 = c.bytesRead ∧ fieldAt m 29 8 = (c.expected.getD 0#64).toNat ∧
      fieldAt m 37 8 = (c.digest.getD 0#64).toNat := by
  obtain ⟨id, job, attempts, label, runs, damage, copies, length, bytesRead, -⟩ := fits
  rw [written]
  exact ⟨fieldAt_fields (clipHead_widths _ _) rest 0 rfl (codeReply_lt _), fieldAt_fields (clipHead_widths _ _) rest 1 rfl id, fieldAt_fields (clipHead_widths _ _) rest 2 rfl job,
    fieldAt_fields (clipHead_widths _ _) rest 3 rfl (codeClip_lt _), fieldAt_fields (clipHead_widths _ _) rest 4 rfl (codeWait_lt _),
    fieldAt_fields (clipHead_widths _ _) rest 5 rfl (codeCause_lt _), fieldAt_fields (clipHead_widths _ _) rest 6 rfl (presence_lt _ _ _),
    fieldAt_fields (clipHead_widths _ _) rest 7 rfl attempts, fieldAt_fields (clipHead_widths _ _) rest 8 rfl label, fieldAt_fields (clipHead_widths _ _) rest 9 rfl runs,
    fieldAt_fields (clipHead_widths _ _) rest 10 rfl damage, fieldAt_fields (clipHead_widths _ _) rest 11 rfl copies, fieldAt_fields (clipHead_widths _ _) rest 12 rfl (by omega),
    fieldAt_fields (clipHead_widths _ _) rest 13 rfl (by omega), fieldAt_fields (clipHead_widths _ _) rest 14 rfl (BitVec.isLt _),
    fieldAt_fields (clipHead_widths _ _) rest 15 rfl (BitVec.isLt _)⟩

/-- The fields of a copy, read where the copy stands. -/
theorem copyFields_read {k : Copy} {m : List Byte} {o : Nat} (few : k.attempts < 256)
    (fits : ∀ p, k.placement = some p → p.start < 2 ^ 64 ∧ p.footprint < 2 ^ 32 ∧ p.dataUnits < 2 ^ 32)
    (read : ∀ j n, j + n ≤ 32 → fieldAt m (o + j) n = fieldAt (copyBytes k) j n) :
    fieldAt m o 1 = k.port.val ∧ fieldAt m (o + 1) 1 = (if k.required then 1 else 0) ∧
      fieldAt m (o + 2) 1 = codeCopy k.state ∧ fieldAt m (o + 3) 1 = codeOpt codeCause k.cause ∧
      fieldAt m (o + 4) 1 = k.attempts ∧
      fieldAt m (o + 5) 1 = (if k.placement.isSome then 1 else 0) + (if k.digest.isSome then 2 else 0) ∧
      fieldAt m (o + 6) 1 = codeSource k ∧ fieldAt m (o + 7) 1 = codeSourcePort k ∧
      fieldAt m (o + 8) 8 = (k.placement.map Placement.start).getD 0 ∧
      fieldAt m (o + 16) 4 = (k.placement.map Placement.footprint).getD 0 ∧
      fieldAt m (o + 20) 4 = (k.placement.map Placement.dataUnits).getD 0 ∧
      fieldAt m (o + 24) 8 = (k.digest.getD 0#64).toNat := by
  have port : k.port.val < 256 := by omega
  have required : presenceBit k.required 1 < 256 := by cases k.required <;> decide
  have start : codeOpt Placement.start k.placement < 256 ^ 8 := codeOpt_lt _ (by decide) fun p e => (fits p e).1
  have footprint : codeOpt Placement.footprint k.placement < 256 ^ 4 := codeOpt_lt _ (by decide) fun p e => (fits p e).2.1
  have dataUnits : codeOpt Placement.dataUnits k.placement < 256 ^ 4 := codeOpt_lt _ (by decide) fun p e => (fits p e).2.2
  have parts (i n v : Nat) (h : (copyFields k)[i]? = some (n, v)) (small : v < 256 ^ n)
      (inside : ([1, 1, 1, 1, 1, 1, 1, 1, 8, 4, 4, 8].take i).sum + n ≤ 32) :
      fieldAt m (o + ([1, 1, 1, 1, 1, 1, 1, 1, 8, 4, 4, 8].take i).sum) n = v := by
    rw [read _ _ inside, copyBytes_written]
    exact fieldAt_fields (copyFields_widths k) [] i h small
  rw [← codeOpt_eq, ← codeOpt_eq, ← codeOpt_eq]
  exact ⟨parts 0 1 _ rfl port (by decide), parts 1 1 _ rfl required (by decide), parts 2 1 _ rfl (codeCopy_lt _) (by decide),
    parts 3 1 _ rfl (codeCause_lt _) (by decide), parts 4 1 _ rfl few (by decide),
    parts 5 1 _ rfl (presence_lt _ _ false) (by decide), parts 6 1 _ rfl (codeSource_lt k) (by decide),
    parts 7 1 _ rfl (codeSourcePort_lt k) (by decide), parts 8 8 _ rfl start (by decide),
    parts 9 4 _ rfl footprint (by decide), parts 10 4 _ rfl dataUnits (by decide),
    parts 11 8 _ rfl (BitVec.isLt _) (by decide)⟩

theorem clipReply_fields (fresh : Nat) (r : Reply) (c : Clip) (m : List Byte) (body : r.body = .clip c) (fits : ClipFits c)
    (message : m = (messageBytes fresh (.reply r)).drop 8) :
    fieldAt m 0 1 = codeReply r.code ∧ fieldAt m 1 2 = c.id ∧ fieldAt m 3 1 = c.job ∧ fieldAt m 4 1 = codeClip c.state ∧
      fieldAt m 5 1 = codeOpt codeWait c.wait ∧ fieldAt m 6 1 = codeOpt codeCause c.cause ∧
      fieldAt m 7 1 = (if c.expected.isSome then 1 else 0) + (if c.digest.isSome then 2 else 0) +
        (if c.mismatch then 4 else 0) ∧
      fieldAt m 8 1 = c.attempts ∧ fieldAt m 9 1 = c.label.length ∧ fieldAt m 10 1 = c.runs.length ∧
      fieldAt m 11 1 = c.damage.length ∧ fieldAt m 12 1 = c.copies.length ∧ fieldAt m 13 8 = c.length ∧
      fieldAt m 21 8 = c.bytesRead ∧ fieldAt m 29 8 = (c.expected.getD 0#64).toNat ∧
      fieldAt m 37 8 = (c.digest.getD 0#64).toNat ∧ (m.drop 45).take c.label.length = c.label ∧
      (∀ i x, c.runs[i]? = some x → fieldAt m (45 + c.label.length + 8 * i) 4 = x.start ∧
        fieldAt m (45 + c.label.length + 8 * i + 4) 4 = x.count) ∧
      (∀ i v, c.damage[i]? = some v → fieldAt m (45 + c.label.length + 8 * c.runs.length + 4 * i) 4 = v) ∧
      ∀ i k o, c.copies[i]? = some k → o = 45 + c.label.length + 8 * c.runs.length + 4 * c.damage.length + 32 * i →
        fieldAt m o 1 = k.port.val ∧ fieldAt m (o + 1) 1 = (if k.required then 1 else 0) ∧
        fieldAt m (o + 2) 1 = codeCopy k.state ∧ fieldAt m (o + 3) 1 = codeOpt codeCause k.cause ∧
        fieldAt m (o + 4) 1 = k.attempts ∧
        fieldAt m (o + 5) 1 = (if k.placement.isSome then 1 else 0) + (if k.digest.isSome then 2 else 0) ∧
        (k.state ≠ .repairing → fieldAt m (o + 6) 1 = 0 ∧ fieldAt m (o + 7) 1 = 0) ∧
        (∀ y, k.state = .repairing → k.repair = some y →
          (y.source = .none → fieldAt m (o + 6) 1 = 0 ∧ fieldAt m (o + 7) 1 = 0) ∧
          (y.source = .card → fieldAt m (o + 6) 1 = 1 ∧ fieldAt m (o + 7) 1 = 0) ∧
          ∀ q, y.source = .port q → fieldAt m (o + 6) 1 = 2 ∧ fieldAt m (o + 7) 1 = q.val) ∧
        fieldAt m (o + 8) 8 = (k.placement.map Placement.start).getD 0 ∧
        fieldAt m (o + 16) 4 = (k.placement.map Placement.footprint).getD 0 ∧
        fieldAt m (o + 20) 4 = (k.placement.map Placement.dataUnits).getD 0 ∧
        fieldAt m (o + 24) 8 = (k.digest.getD 0#64).toNat := by
  have written : m = _ := (message.trans (frameOf_drop _ _ _ _)).trans (clipReply_written fresh body)
  have size : (fieldBytes (clipHead r.code c)).length = 45 := by simp [fieldSize, clipHead_widths]
  have runsSize : (c.runs.flatMap runBytes).length = 8 * c.runs.length := by
    simp [List.length_flatMap, Nat.mul_comm]
  have damageSize : (c.damage.flatMap (leBytes 4)).length = 4 * c.damage.length := by
    simp [List.length_flatMap, Nat.mul_comm]
  obtain ⟨f1, f2, f3, f4, f5, f6, f7, f8, f9, f10, f11, f12, f13, f14, f15, f16⟩ := clipHead_fields _ fits written
  obtain ⟨-, -, -, -, -, -, -, -, -, runs, damage, copies⟩ := fits
  have inRuns (o n : Nat) : fieldAt m (45 + c.label.length + o) n = fieldAt (c.runs.flatMap runBytes ++
      (c.damage.flatMap (leBytes 4) ++ c.copies.flatMap copyBytes)) o n := by
    rw [written, fieldAt_skip _ _ _ (c.label.length + o) _ (by omega), fieldAt_skip _ _ _ o _ rfl]
  have inDamage (o n : Nat) : fieldAt m (45 + c.label.length + 8 * c.runs.length + o) n =
      fieldAt (c.damage.flatMap (leBytes 4) ++ c.copies.flatMap copyBytes) o n := by
    rw [Nat.add_assoc _ _ o, inRuns, fieldAt_skip _ _ _ o _ (by omega)]
  have inCopies (o n : Nat) : fieldAt m (45 + c.label.length + 8 * c.runs.length + 4 * c.damage.length + o) n =
      fieldAt (c.copies.flatMap copyBytes ++ []) o n := by
    rw [Nat.add_assoc _ _ o, inDamage, fieldAt_skip _ _ _ o _ (by omega), List.append_nil]
  refine ⟨f1, f2, f3, f4, f5, f6, f7, f8, f9, f10, f11, f12, f13, f14, f15, f16, ?_, fun i x at_i => ?_, fun i v at_i => ?_,
    fun i k o at_i place => ?_⟩
  · rw [written, List.drop_left' size]
    exact List.take_left
  · obtain ⟨start, count⟩ := runs x (List.mem_of_getElem? at_i)
    have parts (j : Nat) (h : j + 4 ≤ 8) : fieldAt m (45 + c.label.length + 8 * i + j) 4 = fieldAt (runBytes x) j 4 := by
      rw [Nat.add_assoc _ _ j, inRuns]
      exact fieldAt_flatMap runBytes 8 runBytes_length _ at_i h
    rw [runBytes_written] at parts
    exact ⟨(parts 0 (by omega)).trans (fieldAt_fields (widths := [4, 4]) rfl [] 0 rfl (by omega)),
      (parts 4 (by omega)).trans (fieldAt_fields (widths := [4, 4]) rfl [] 1 rfl (by omega))⟩
  · rw [inDamage]
    refine (fieldAt_flatMap (leBytes 4) 4 (leBytes_length 4) _ at_i (o := 0) (by omega)).trans ?_
    have fits := damage v (List.mem_of_getElem? at_i)
    simpa using fieldAt_front 4 v [] (by omega)
  · obtain ⟨few, placed⟩ := copies k (List.mem_of_getElem? at_i)
    have read (j n : Nat) (h : j + n ≤ 32) : fieldAt m (o + j) n = fieldAt (copyBytes k) j n := by
      rw [place, Nat.add_assoc _ _ j, inCopies]
      exact fieldAt_flatMap copyBytes 32 copyBytes_length _ at_i h
    obtain ⟨g1, g2, g3, g4, g5, g6, source, sourcePort, g9, g10, g11, g12⟩ := copyFields_read few placed read
    refine ⟨g1, g2, g3, g4, g5, g6, fun state => ?_, fun y state repair => ?_, g9, g10, g11, g12⟩
    · obtain ⟨none, nowhere⟩ := codeSource_of_ne state
      exact ⟨source.trans none, sourcePort.trans nowhere⟩
    · obtain ⟨from_, port⟩ := codeSource_repairing state repair
      rw [source, sourcePort, from_, port]
      exact ⟨fun e => e ▸ ⟨rfl, rfl⟩, fun e => e ▸ ⟨rfl, rfl⟩, fun q e => e ▸ ⟨rfl, rfl⟩⟩

theorem codes_eq : [ReplyCode.done, .busy, .badArg, .noRoom, .noSuch, .wrongState, .notSafe, .unknownKind, .malformed,
      .mediaError].map codeReply = [0, 1, 2, 3, 4, 5, 6, 7, 8, 9] ∧
    [ClipState.queued, .waiting, .reading, .landing, .safe, .partialSafe, .failed, .cancelled].map codeClip =
      [1, 2, 3, 4, 5, 6, 7, 8] ∧
    [CopyState.pending, .writing, .written, .verifying, .verified, .repairing, .failed, .dropped, .skipped].map codeCopy =
      [1, 2, 3, 4, 5, 6, 7, 8, 9] ∧
    [none, some WaitReason.space, some .port].map (codeOpt codeWait) = [0, 1, 2] ∧
    [none, some Cause.media, some .sourceLost, some .sourceDigest, some .writeError, some .portLost, some .portFault,
      some .verifyMismatch, some .noRepairSource, some .space, some .cancelled].map (codeOpt codeCause) =
      [0, 1, 2, 3, 4, 5, 6, 7, 8, 9, 10] := ⟨rfl, rfl, rfl, rfl, rfl⟩

/-- Settles O6: the acts of the link interface one by one, and each message as the fields that it is written from. -/
theorem linkComesUpAndSends : Obligations.LinkComesUpAndSends :=
  ⟨linkUp_spec, sendFrame_spec, codes_eq, cardReadReply_fields, clipReply_fields, clipNotice_fields⟩

end Sys2Proof.Machine
end

section
namespace Sys2Proof.Machine

/-! ## A search for grants is a function of its state -/

theorem State.nextHostRead_none {s : State} (h : ∀ r, ¬ HostNext s r) : s.nextHostRead = none :=
  Option.eq_none_iff_forall_ne_some.2 fun r e => h r ((s.hostNext_iff r).2 e)

theorem State.grantOne_host {s : State} {n : Fin 4} {r : CardRead} (lane : LaneNext s n) (read : HostNext s r) :
    s.grantOne = some (s.grantHost n r) := by
  obtain ⟨asking, free⟩ := (s.laneNext_iff n).1 lane
  simp [State.grantOne, asking, free, (s.hostNext_iff r).1 read]

theorem State.grantOne_bay {s : State} {n : Fin 4} {b : Fin 8} {item : WorkItem} (lane : LaneNext s n)
    (unread : ∀ r, ¬ HostNext s r) (bay : BayNext s b) (work : bayItem (s.bay b) = some item) :
    s.grantOne = some (turnGiven s n b item) := by
  obtain ⟨asking, free⟩ := (s.laneNext_iff n).1 lane
  rw [← State.startTurn_given]
  simp [State.grantOne, asking, free, State.nextHostRead_none unread, (s.nextBay_iff b item).2 ⟨bay, work⟩]

theorem State.grantOne_none {s : State}
    (h : (∀ n, ¬ LaneNext s n) ∨ ((∀ r, ¬ HostNext s r) ∧ ∀ b, s.bayEligible b = false)) : s.grantOne = none := by
  rcases s.grantOne_cases with ⟨none, -⟩ | ⟨n, r, -, lane, read⟩ | ⟨n, b, item, -, lane, -, bay, -⟩
  · exact none
  · rcases h with unfree | ⟨unread, -⟩
    · exact absurd lane (unfree n)
    · exact absurd read (unread r)
  · rcases h with unfree | ⟨-, idle⟩
    · exact absurd lane (unfree n)
    · obtain ⟨-, -, -, eligible, -⟩ := bay
      rw [idle b] at eligible
      cases eligible

/-- What a host card read comes to at its grant is decided by the bay (R58). -/
theorem HostGiven.eq {s u : State} {n : Fin 4} {r : CardRead} (given : HostGiven s u n r) : u = s.grantHost n r := by
  obtain ⟨refused, mounted⟩ := given _ rfl
  obtain ⟨refused', mounted'⟩ := s.grantHost_given n r _ rfl
  by_cases seated : (s.bay r.bay).state = .mounted
  · cases sig : (s.bay r.bay).sig with
    | none => rw [refused (.inr sig), refused' (.inr sig)]
    | some g =>
      obtain ⟨outside, inside⟩ := mounted g seated sig
      obtain ⟨outside', inside'⟩ := mounted' g seated sig
      rcases Nat.lt_or_ge r.start g.capacity with l | l
      · rw [inside l, inside' l]
      · rw [outside l, outside' l]
  · rw [refused (.inl seated), refused' (.inl seated)]

/-- A search that is a round grants as `grantOne` does. -/
theorem GrantRound.step {s t : State} (h : GrantRound s t) :
    (s.grantOne = none ∧ t = s) ∨ ∃ u, s.grantOne = some u ∧ GrantRound u t := by
  cases h with
  | ends _ none => exact .inl ⟨State.grantOne_none none, rfl⟩
  | host _ u _ n r lane read given rest => exact .inr ⟨u, given.eq ▸ State.grantOne_host lane read, rest⟩
  | bay _ _ n b item lane unread bay work rest => exact .inr ⟨_, State.grantOne_bay lane unread bay work, rest⟩

theorem GrantRound.next {s t v : State} (h : GrantRound s t) (one : s.grantOne = some v) : GrantRound v t := by
  rcases h.step with ⟨none, -⟩ | ⟨u, some, rest⟩
  · rw [one] at none
    cases none
  · cases one.symm.trans some
    exact rest

theorem GrantRound.unique {s t u : State} (h : GrantRound s t) (k : GrantRound s u) : t = u := by
  induction h with
  | ends s none =>
    rcases k.step with ⟨-, e⟩ | ⟨v, some, -⟩
    · exact e.symm
    · rw [State.grantOne_none none] at some
      cases some
  | host s v t n r lane read given _ ih => exact ih (k.next (given.eq ▸ State.grantOne_host lane read))
  | bay s t n b item lane unread bay work _ ih => exact ih (k.next (State.grantOne_bay lane unread bay work))

/-- So what is known of the arbiter's own search is known of every round (R52). -/
theorem GrantRound.eq_grants {s t : State} (h : GrantRound s t) : t = s.grants := h.unique s.grants_round

/-! ## What a search for grants leaves -/

theorem GrantOnly.of_round {s t : State} (h : GrantRound s t) : GrantOnly s t := h.eq_grants ▸ .grants s

theorem GrantRound.wire {s t : State} (h : GrantRound s t) : s.wire <+: t.wire := h.eq_grants ▸ s.grants_wire

/-- A lane that is held is granted to nobody (R52). -/
theorem GrantRound.held {s t : State} (h : GrantRound s t) {m : Fin 4} (held : (s.lane m).holder ≠ none) :
    t.lane m = s.lane m := by
  rw [h.eq_grants]
  exact s.grants_held m (Option.isSome_iff_ne_none.2 held)

theorem RepliesKept.of_round {s t : State} (h : GrantRound s t) : RepliesKept s t := h.eq_grants ▸ .grants s

/-- A search that has a lane and a host card read for it begins with that grant (R52). -/
theorem GrantRound.first_host {s t : State} {n : Fin 4} {r : CardRead} (h : GrantRound s t) (lane : LaneNext s n)
    (read : HostNext s r) : GrantRound (s.grantHost n r) t := h.next (State.grantOne_host lane read)

/-! ## CARD_READ -/

/-- The entry of a host card read in the table (R58). -/
def entryOfRead (s : State) (tag : Nat) (b : Fin 8) (start count : Nat) : CardRead :=
  ⟨s.lki.nextRead, tag, b, start, min count 64, handOrphan s.lki kindCardRead tag⟩

/-- A host card read has been entered, and the arbiter has not yet looked for grants (R58, R167). -/
def readEntered (s : State) (tag : Nat) (b : Fin 8) (start count : Nat) : State :=
  { s with
    lki := { s.lki with
      reads := s.lki.reads ++ [entryOfRead s tag b start count], nextRead := s.lki.nextRead + 1
      inHand := if handIs s.lki kindCardRead tag then none else s.lki.inHand }
    arb := { s.arb with requests := s.arb.requests ++ [s.lki.nextRead] } }

theorem State.enterRead_eq (s : State) (tag : Nat) (b : Fin 8) (start count : Nat) :
    s.enterRead tag b start count = (readEntered s tag b start count).grants.linkSettle := by
  unfold State.enterRead State.dropHand readEntered
  split <;> rfl

theorem enterRead_frame (s : State) (tag : Nat) (b : Fin 8) (start count : Nat) (t : State)
    (h : t = s.enterRead tag b start count) : t.pool = s.pool ∧ t.ports = s.ports ∧ t.jm = s.jm ∧ t.pending = s.pending ∧
      ∀ a, bayCore (t.bay a) = bayCore (s.bay a) := by
  rw [State.enterRead_eq] at h
  subst h
  obtain ⟨pool, ports, jm, pending, -, -, bays, -⟩ :=
    (GrantOnly.grants (readEntered s tag b start count)).trans (.of_link (State.linkSettle_spec _))
  exact ⟨pool, ports, jm, pending, bays⟩

/-- The first request of the list that serves is the new one, where each before it is passed over or is the new one itself. -/
theorem find?_append_new {α : Type} {p : α → Bool} {xs : List α} {x : α} (new : p x = true)
    (before : ∀ y ∈ xs, p y = false ∨ y = x) : (xs ++ [x]).find? p = some x := by
  induction xs with
  | nil => simp [new]
  | cons y xs ih =>
    rw [List.cons_append, List.find?_cons]
    rcases before y (by simp) with passed | same
    · rw [passed]
      exact ih fun z m => before z (by simp [m])
    · rw [same, new]

/-- A number of the table that the new entry does not have names the entry that it named; the new entry's own number names it,
or an entry that had the number before. -/
theorem readEntered_read? (s : State) (tag : Nat) (b : Fin 8) (start count i : Nat) :
    (readEntered s tag b start count).read? i =
      (s.read? i).or (if s.lki.nextRead = i then some (entryOfRead s tag b start count) else none) := by
  simp only [State.read?, readEntered, List.find?_append]
  by_cases same : s.lki.nextRead = i
  · simp [entryOfRead, same]
  · simp [entryOfRead, same]

/-- The new read is next where those before it on the list are passed over (R51, R52). -/
theorem readEntered_hostNext {s : State} (tag : Nat) {b : Fin 8} (start count : Nat) (lane : s.laneOf b = none)
    (passed : ∀ i ∈ s.arb.requests, ∀ x, s.read? i = some x → ∃ m, holderBay (s.lane m) = some x.bay)
    (fresh : ∀ r ∈ s.lki.reads, r.id ≠ s.lki.nextRead) :
    HostNext (readEntered s tag b start count) (entryOfRead s tag b start count) := by
  have unlisted : s.read? s.lki.nextRead = none := by simpa [State.read?] using fresh
  have new : (readEntered s tag b start count).read? s.lki.nextRead = some (entryOfRead s tag b start count) := by
    simp [readEntered_read?, unlisted]
  have last : ((readEntered s tag b start count).arb.requests.filterMap (readEntered s tag b start count).read?) =
      s.arb.requests.filterMap (readEntered s tag b start count).read? ++ [entryOfRead s tag b start count] := by
    simp only [readEntered, List.filterMap_append]
    exact congrArg _ (List.filterMap_cons_some new)
  rw [State.hostNext_iff, State.nextHostRead, last]
  refine find?_append_new (by rw [Option.isNone_iff_eq_none]; exact lane) fun y m => ?_
  obtain ⟨i, listed, named⟩ := List.mem_filterMap.1 m
  rw [readEntered_read?, Option.or_eq_some_iff] at named
  rcases named with old | ⟨-, new⟩
  · obtain ⟨m, held⟩ := passed i listed y old
    refine .inl ?_
    cases none : (readEntered s tag b start count).laneOf y.bay with
    | none => exact absurd held ((s.laneOf_eq_none y.bay).1 none m)
    | some k => rfl
  · split at new
    · exact .inr (Option.some.inj new).symm
    · cases new

end Sys2Proof.Machine
end

section
namespace Sys2Proof.Machine

/-- A read that ends has its reply ready, or none where a link reset has taken it (R58, R167, R176). -/
theorem endRead_entry (id : Nat) (code : ReplyCode) (body : ReplyBody) (s : State) (e : CardRead) (entry : s.read? id = some e) :
    OnlyLink s (s.endRead id code body) ∧
    (e.orphan = false →
      s.replyLog ++ [⟨kindCardRead, e.tag, code, body⟩] <+: (s.endRead id code body).replyLog) ∧
    (e.orphan = true →
      s.endRead id code body = { s with lki := { s.lki with reads := s.lki.reads.filter (fun r => r.id != id) } }) := by
  refine ⟨.of_linkOnly (s.endRead_spec id code body), s.endRead_replyLog id code body e entry, fun orphan => ?_⟩
  simp [State.endRead, entry, orphan, dropRead]

/-- The link interface, with nothing to send for a transfer that waits and none received, stands (R167, R175). -/
theorem State.linkSettle_idle {s : State}
    (unsent : s.lki.inWaiting = 0 ∨ (s.lki.ready = [] ∧ s.lki.notices = [])) (unreceived : s.lki.receive = []) :
    s.linkSettle = s :=
  State.linkActs_none (State.linkAct_none (unsent.imp_right fun h => State.sendOne_none h.1 h.2) (.inl unreceived)) _

theorem handIs_dropped (l : LinkIf) (k n : Nat) :
    handIs { l with inHand := if handIs l k n then none else l.inHand } k n = false := by
  cases h : handIs l k n with
  | true => rfl
  | false => exact h

/-- While no lane can be granted the read waits on the list (R49, R52, R58). -/
theorem enterRead_waits {s t : State} {tag : Nat} {b : Fin 8} {start count : Nat} (h : t = s.enterRead tag b start count)
    (unsent : s.lki.inWaiting = 0 ∨ (s.lki.ready = [] ∧ s.lki.notices = [])) (unreceived : s.lki.receive = [])
    (none : s.arb.asking.isSome = true ∨ s.freeActiveLane = none) : t.lki.reads = s.lki.reads ++ [entryOfRead s tag b start count] ∧
      t.arb.requests = s.arb.requests ++ [s.lki.nextRead] ∧ t.replyLog = s.replyLog ∧
      handIs t.lki kindCardRead tag = false := by
  have stands : t = readEntered s tag b start count := by
    rw [h, State.enterRead_eq, State.grants_none (readEntered s tag b start count) none]
    exact State.linkSettle_idle (s := readEntered s tag b start count) unsent unreceived
  subst stands
  exact ⟨rfl, rfl, rfl, handIs_dropped s.lki kindCardRead tag⟩

/-- The search that follows the entry, and the link interface after it. -/
theorem enterRead_round {s t : State} {tag : Nat} {b : Fin 8} {start count : Nat} (h : t = s.enterRead tag b start count) :
    ∃ u, GrantRound (readEntered s tag b start count) u ∧ OnlyLink u t ∧ u.replyLog <+: t.replyLog ∧ u.wire <+: t.wire := by
  rw [State.enterRead_eq] at h
  subst h
  have settled := State.linkSettle_spec (readEntered s tag b start count).grants
  have only := OnlyLink.of_linkOnly settled
  obtain ⟨-, -, -, -, -, wire, -, replies, -⟩ := settled
  exact ⟨_, State.grants_round _, only, replies, wire⟩

/-- A read that is granted a lane where its bay has no card to read it from ends at once, and its reply joins the log (R58). -/
theorem grantedRead_refused {s u t : State} {e : CardRead} {id : Nat} {code : ReplyCode} {body : ReplyBody}
    (ends : u = (s.unlisted id).endRead id code body) (entry : s.read? id = some e) (whole : e.orphan = false) (replies : u.replyLog <+: t.replyLog) :
    s.replyLog ++ [⟨kindCardRead, e.tag, code, body⟩] <+: t.replyLog := by
  subst ends
  exact (State.endRead_replyLog (s.unlisted id) id code body e entry whole).trans replies

/-- The read that a lane is granted looks at its bay as it stands (R51, R52, R58). -/
theorem enterRead_granted {s t : State} {tag : Nat} {b : Fin 8} {start count : Nat} (h : t = s.enterRead tag b start count)
    {n : Fin 4} (asking : s.arb.asking = none) (free : s.freeActiveLane = some n) (lane : s.laneOf b = none)
    (passed : ∀ i ∈ s.arb.requests, ∀ x, s.read? i = some x → ∃ m, holderBay (s.lane m) = some x.bay)
    (fresh : ∀ r ∈ s.lki.reads, r.id ≠ s.lki.nextRead) :
    ((s.bay b).state ≠ .mounted → handOrphan s.lki kindCardRead tag = false →
      s.replyLog ++ [⟨kindCardRead, tag, .wrongState, .cardRead 0 0 []⟩] <+: t.replyLog) ∧
    (∀ g, (s.bay b).state = .mounted → (s.bay b).sig = some g → g.capacity ≤ start →
      handOrphan s.lki kindCardRead tag = false →
      s.replyLog ++ [⟨kindCardRead, tag, .badArg, .codeAlone⟩] <+: t.replyLog) ∧
    (∀ g, (s.bay b).state = .mounted → (s.bay b).sig = some g → start < g.capacity →
      (t.lane n).holder =
        some (.host ⟨s.lki.nextRead, b, start, min (min count 64) (g.capacity - start), 0, []⟩)) := by
  obtain ⟨v, round, ⟨-, arb, -⟩, replies, -⟩ := enterRead_round h
  have next : LaneNext (readEntered s tag b start count) n := (State.laneNext_iff _ n).2 ⟨asking, free⟩
  have rest := round.first_host next (readEntered_hostNext tag start count lane passed fresh)
  have unlisted : s.read? s.lki.nextRead = none := by simpa [State.read?] using fresh
  have entry : (readEntered s tag b start count).read? s.lki.nextRead = some (entryOfRead s tag b start count) := by
    simp [readEntered_read?, unlisted]
  obtain ⟨refused, mounted⟩ := (readEntered s tag b start count).grantHost_given n (entryOfRead s tag b start count) _ rfl
  have logged := (RepliesKept.of_round rest).1.trans replies
  refine ⟨fun away whole => ?_, fun g seated sig beyond whole => ?_, fun g seated sig inside => ?_⟩
  · exact grantedRead_refused (refused (.inl away)) entry whole logged
  · exact grantedRead_refused ((mounted g seated sig).1 beyond) entry whole logged
  · have given := (mounted g seated sig).2 inside
    have holds : (((readEntered s tag b start count).grantHost n (entryOfRead s tag b start count)).lane n).holder =
        some (.host ⟨s.lki.nextRead, b, start, min (min count 64) (g.capacity - start), 0, []⟩) := by
      rw [given, State.lane_setLane]
      rfl
    rw [State.lane_of_arb arb, rest.held (by rw [holds]; simp), holds]

theorem cardRead_spec (tag bay start count : Nat) (s : State) : ∃ t, exec (.cardRead tag bay start count) s = .next t ∧
    t.pool = s.pool ∧ t.ports = s.ports ∧ t.jm = s.jm ∧ t.pending = s.pending ∧
    (∀ b, bayCore (t.bay b) = bayCore (s.bay b)) ∧
    (8 ≤ bay ∨ count = 0 → OnlyLink s t ∧ Replies s t ⟨kindCardRead, tag, .badArg, .codeAlone⟩) ∧
    (bay < 8 → 1 ≤ count → 4 ≤ s.lki.reads.length →
      OnlyLink s t ∧ Replies s t ⟨kindCardRead, tag, .busy, .codeAlone⟩) ∧
    (∀ b : Fin 8, bay = b.val → 1 ≤ count → s.lki.reads.length < 4 →
      t = (s.arrive (.cardRead tag bay start count)).enterRead tag b start count) := by
  have refused (c : ReplyCode) := OnlyLink.answered s (.cardRead tag bay start count) kindCardRead tag c .codeAlone
  have replied (c : ReplyCode) := Replies.answered s (.cardRead tag bay start count) kindCardRead tag c .codeAlone
  have stands {t : State} (only : OnlyLink s t) : t.pool = s.pool ∧ t.ports = s.ports ∧ t.jm = s.jm ∧
      t.pending = s.pending ∧ ∀ b, bayCore (t.bay b) = bayCore (s.bay b) := by
    obtain ⟨bays, -, pool, ports, jm, pending⟩ := only
    exact ⟨pool, ports, jm, pending, fun b => congrArg bayCore (State.bay_of_bays bays b)⟩
  refine ⟨_, rfl, ?_⟩
  split
  · rename_i out
    have big := indexOf_eq_none.1 out
    obtain ⟨pool, ports, jm, pending, bays⟩ := stands (refused .badArg)
    exact ⟨pool, ports, jm, pending, bays, fun _ => ⟨refused _, replied _⟩, fun _ => by omega, fun b e => by omega⟩
  · rename_i a inside
    have named := indexOf_eq_some.1 inside
    split
    · rename_i zero
      obtain ⟨pool, ports, jm, pending, bays⟩ := stands (refused .badArg)
      exact ⟨pool, ports, jm, pending, bays, fun _ => ⟨refused _, replied _⟩, fun _ _ => by omega, fun _ _ _ => by omega⟩
    · split
      · rename_i full
        have full : 4 ≤ s.lki.reads.length := full
        obtain ⟨pool, ports, jm, pending, bays⟩ := stands (refused .busy)
        exact ⟨pool, ports, jm, pending, bays, fun _ => by omega, fun _ _ _ => ⟨refused _, replied _⟩, fun _ _ _ _ => by omega⟩
      · rename_i room
        have room : s.lki.reads.length < 4 := Nat.lt_of_not_le room
        obtain ⟨pool, ports, jm, pending, bays⟩ :=
          enterRead_frame (s.arrive (.cardRead tag bay start count)) tag a start count _ rfl
        refine ⟨pool, ports, jm, pending, bays, fun _ => by omega, fun _ _ _ => by omega, fun b e _ _ => ?_⟩
        obtain rfl : a = b := Fin.ext (named.symm.trans e)
        rfl

/-- Settles O23: the checks, the entry, and the search that finds the new read first or no lane at all. -/
theorem cardReadIsEntered : Obligations.CardReadIsEntered := by
  refine ⟨fun tag bay start count s => ?_, endRead_entry⟩
  obtain ⟨t, run, pool, ports, jm, pending, bays, bad, busy, entered⟩ := cardRead_spec tag bay start count s
  refine ⟨t, run, pool, ports, jm, pending, bays, bad, busy, fun b e some room => enterRead_round (entered b e some room),
    fun b e some room unsent unreceived => ⟨?_, fun n => ?_⟩⟩
  · exact enterRead_waits (s := s.arrive _) (entered b e some room) unsent unreceived
  · exact enterRead_granted (s := s.arrive _) (entered b e some room)

end Sys2Proof.Machine
end

section
namespace Sys2Proof.Machine

/-! ## Answers of a card -/

theorem blockData_whole {data : List Byte} (h : data.length = 512) : blockData (some data) = some data := by
  simp [blockData, Config.blockBytes, h]

theorem blockData_failed {answer : Option (List Byte)} (h : ∀ data, answer = some data → data.length ≠ 512) :
    blockData answer = none := by
  cases answer with
  | none => rfl
  | some data => simp [blockData, Config.blockBytes, h data rfl]

/-! ## What the judgement of a failed attempt leaves -/

/-- A failed attempt has been judged: beside the bay's record and the messages sent, only the end of a turn can have changed
(R60, R64 to R66). -/
def BayJudged (b : Fin 8) (s t : State) : Prop :=
  t.pool = s.pool ∧ t.ports = s.ports ∧ t.jm = s.jm ∧ t.lki = s.lki ∧ t.pending = s.pending ∧
    (∀ a, a ≠ b → t.bay a = s.bay a) ∧ ∀ m, ∃ e, t.lane m = { s.lane m with endTurn := e }

theorem BayJudged.setBay (s : State) (b : Fin 8) (x : Bay) : BayJudged b s (s.setBay b x) :=
  ⟨rfl, rfl, rfl, rfl, rfl, fun _ other => State.bay_setBay_ne s b _ x other, fun m => ⟨(s.lane m).endTurn, rfl⟩⟩

theorem BayJudged.carefulEntered (s : State) (b : Fin 8) (k : Nat) : BayJudged b s (carefulEntered s b k) := setBay (s.send _) b _

theorem BayJudged.eighthFailed (s : State) (b : Fin 8) : BayJudged b s (eighthFailed s b) := by
  unfold Machine.eighthFailed
  split
  · exact setBay s b _
  · exact carefulEntered s b 0

theorem State.shortenTurn_lane (s : State) (b : Fin 8) (m : Fin 4) :
    ∃ e, (s.shortenTurn b).lane m = { s.lane m with endTurn := e } := by
  unfold State.shortenTurn
  split
  · exact ⟨(s.lane m).endTurn, rfl⟩
  · rename_i n _
    split
    · by_cases same : m = n
      · exact ⟨true, by rw [same, State.lane_setLane]⟩
      · exact ⟨(s.lane m).endTurn, State.lane_setLane_ne s n m _ same⟩
    · exact ⟨(s.lane m).endTurn, rfl⟩

theorem BayJudged.shortenTurn {b : Fin 8} {s t : State} (h : BayJudged b s t) : BayJudged b s (t.shortenTurn b) := by
  obtain ⟨pool, ports, jm, lki, pending, bays, lanes⟩ := h
  obtain ⟨bays', pool', ports', jm', lki', -, -, pending'⟩ := t.shortenTurn_frame b
  refine ⟨pool'.trans pool, ports'.trans ports, jm'.trans jm, lki'.trans lki, pending'.trans pending,
    fun a other => (State.bay_of_bays bays' a).trans (bays a other), fun m => ?_⟩
  obtain ⟨e, lane⟩ := lanes m
  obtain ⟨e', lane'⟩ := t.shortenTurn_lane b m
  exact ⟨e', by rw [lane', lane]⟩

theorem BayJudged.holder {b : Fin 8} {s t : State} (h : BayJudged b s t) (m : Fin 4) :
    (t.lane m).holder = (s.lane m).holder := by
  obtain ⟨-, -, -, -, -, -, lanes⟩ := h
  obtain ⟨e, lane⟩ := lanes m
  rw [lane]

/-- The state in which the eighth failed attempt on a block is judged uncorrectable: a turn of a bay that enters CAREFUL by it is
shortened (R53, R60, R66). -/
def State.eighthJudged (s : State) (b : Fin 8) : State :=
  if (s.bay b).health.mode = .careful then eighthFailed s b else (eighthFailed s b).shortenTurn b

theorem BayJudged.eighthJudged (s : State) (b : Fin 8) : BayJudged b s (s.eighthJudged b) := by
  unfold State.eighthJudged
  split
  · exact eighthFailed s b
  · exact (eighthFailed s b).shortenTurn

theorem State.eighthJudged_bay (s : State) (b : Fin 8) : (s.eighthJudged b).bay b = (eighthFailed s b).bay b := by
  unfold State.eighthJudged
  split
  · rfl
  · exact State.shortenTurn_bay _ b b

theorem State.eighthJudged_wire (s : State) (b : Fin 8) : (s.eighthJudged b).wire = (eighthFailed s b).wire := by
  unfold State.eighthJudged
  split
  · rfl
  · obtain ⟨-, -, -, -, -, wire, -⟩ := (eighthFailed s b).shortenTurn_frame b
    exact wire

theorem OnlyLane.carefulEntered {s : State} {n : Fin 4} {b : Fin 8} (h : OnlyLane s n b) (k : Nat) :
    OnlyLane (carefulEntered s b k) n b := h

theorem OnlyLane.eighthFailed {s : State} {n : Fin 4} {b : Fin 8} (h : OnlyLane s n b) : OnlyLane (eighthFailed s b) n b := by
  unfold Machine.eighthFailed
  split
  · exact h
  · exact h.carefulEntered 0

theorem State.carefulEntered_bay (s : State) (b : Fin 8) (k : Nat) :
    (carefulEntered s b k).bay b = carefulRecord (s.bay b) k := State.bay_setBay _ b _

/-! ## Host card reads -/

theorem State.hostEnds_round (s : State) (n : Fin 4) (r : HostRead) (code : ReplyCode) (failing : Nat) :
    GrantRound ((laneBack s n).endRead r.id code (.cardRead r.blocks failing r.data)) (s.hostEnds n r code failing) := by
  rw [← freeLane_eq]
  exact State.grants_round _

theorem State.hostEnds_wire (s : State) (n : Fin 4) (r : HostRead) (code : ReplyCode) (failing : Nat) :
    s.wire <+: (s.hostEnds n r code failing).wire :=
  (State.endRead_wire (laneBack s n) _ _ _).trans (s.hostEnds_round n r code failing).wire

theorem State.hostEnds_reply {s : State} {r : HostRead} {e : CardRead} (n : Fin 4) (code : ReplyCode) (failing : Nat)
    (entry : s.read? r.id = some e) (whole : e.orphan = false) :
    s.replyLog ++ [⟨kindCardRead, e.tag, code, .cardRead r.blocks failing r.data⟩] <+:
      (s.hostEnds n r code failing).replyLog :=
  (State.endRead_replyLog (laneBack s n) _ _ _ e entry whole).trans (RepliesKept.of_round (s.hostEnds_round n r code failing)).1

/-- A whole block joins the read's data, and the last one ends the read (R58). -/
theorem hostBlock_spec (n : Fin 4) (s : State) (r : HostRead) (holds : (s.lane n).holder = some (.host r))
    (data : List Byte) (whole : data.length = 512) : ∃ t, exec (.blockReadAttempt n (some data)) s = .next t ∧
      t.pool = s.pool ∧ t.ports = s.ports ∧ t.jm = s.jm ∧ t.pending = s.pending ∧
      (∀ a, bayCore (t.bay a) = bayCore (s.bay a)) ∧
      (r.blocks + 1 < r.count → t = (s.setBay r.bay { s.bay r.bay with fails := 0 }).setLane n { s.lane n with
        holder := some (.host { r with blocks := r.blocks + 1, data := r.data ++ data }) }) ∧
      (r.count ≤ r.blocks + 1 → GrantRound ((laneBack (s.setBay r.bay { s.bay r.bay with fails := 0 }) n).endRead r.id .done
        (.cardRead (r.blocks + 1) 0 (r.data ++ data))) t) ∧
      (∀ e, r.count ≤ r.blocks + 1 → s.read? r.id = some e → e.orphan = false →
        s.replyLog ++ [⟨kindCardRead, e.tag, .done, .cardRead (r.blocks + 1) 0 (r.data ++ data)⟩] <+: t.replyLog) := by
  have run : exec (.blockReadAttempt n (some data)) s = .next (s.hostBlock n r data) := by
    simp [exec, execBlockReadAttempt, holds, State.hostAttempt, blockData_whole whole]
  have fresh : GrantOnly s (s.setBay r.bay { s.bay r.bay with fails := 0 }) := .setBay s _ _ rfl
  refine ⟨_, run, ?_⟩
  unfold State.hostBlock
  dsimp only
  split
  · rename_i last
    obtain ⟨pool, ports, jm, pending, -, -, bays, -⟩ := fresh.trans (.hostEnds _ n _ .done 0)
    have round := State.hostEnds_round (s.setBay r.bay { s.bay r.bay with fails := 0 }) n
      { r with blocks := r.blocks + 1, data := r.data ++ data } .done 0
    have reply (e : CardRead) := State.hostEnds_reply (s := s.setBay r.bay { s.bay r.bay with fails := 0 })
      (r := { r with blocks := r.blocks + 1, data := r.data ++ data }) (e := e) n .done 0
    exact ⟨pool, ports, jm, pending, bays, fun more => by omega, fun _ => round, fun e _ => reply e⟩
  · rename_i more
    obtain ⟨pool, ports, jm, pending, -, -, bays, -⟩ := fresh
    exact ⟨pool, ports, jm, pending, bays, fun _ => rfl, fun last => absurd last more, fun _ last => absurd last more⟩

/-- A failed attempt while attempts are left: the read holds its lane (R60). -/
theorem hostFailed_again {s : State} {n : Fin 4} {r : HostRead} (holds : (s.lane n).holder = some (.host r))
    (running : (s.bay r.bay).health.running = true) (left : (s.bay r.bay).fails + 1 < 8) :
    BayJudged r.bay s (s.hostFailed n r) ∧
      (EntersCareful (s.bay r.bay) →
        (s.hostFailed n r).bay r.bay = carefulRecord (s.bay r.bay) (entryCount (s.bay r.bay)) ∧
        (s.hostFailed n r).wire = (carefulEntered s r.bay (entryCount (s.bay r.bay))).wire ∧
        (OnlyLane s n r.bay → s.hostFailed n r = carefulEntered s r.bay (entryCount (s.bay r.bay)))) ∧
      (¬ EntersCareful (s.bay r.bay) → s.hostFailed n r = retried s r.bay) := by
  obtain ⟨again, careful⟩ := State.judgeFailure_again s r.bay running left
  by_cases enters : EntersCareful (s.bay r.bay)
  · have judged : s.hostFailed n r = (carefulEntered s r.bay (entryCount (s.bay r.bay))).shortenTurn r.bay := by
      simp [State.hostFailed, careful enters]
    obtain ⟨-, -, -, -, -, wire, -⟩ := (carefulEntered s r.bay (entryCount (s.bay r.bay))).shortenTurn_frame r.bay
    rw [judged]
    refine ⟨(BayJudged.carefulEntered s r.bay _).shortenTurn, fun _ => ⟨?_, wire, fun only => ?_⟩, fun stays => absurd enters stays⟩
    · rw [State.shortenTurn_bay, State.carefulEntered_bay]
    · exact (State.shortenTurn_cases _ r.bay n (only.carefulEntered _)).2 r holds rfl
  · have judged : s.hostFailed n r = retried s r.bay := by simp [State.hostFailed, again enters]
    rw [judged]
    exact ⟨.setBay s r.bay _, fun e => absurd e enters, fun _ => rfl⟩

/-- The eighth failed attempt on a block ends the read with the blocks read so far (R58, R60). -/
theorem hostFailed_eighth (s : State) (n : Fin 4) (r : HostRead) (eighth : 8 ≤ (s.bay r.bay).fails + 1) :
    s.hostFailed n r = (s.eighthJudged r.bay).hostEnds n r .mediaError (r.start + r.blocks) := by
  simp [State.hostFailed, State.judgeFailure_eighth s r.bay eighth, State.eighthJudged]

theorem eighthJudged_host {s : State} {n : Fin 4} {r : HostRead} (holds : (s.lane n).holder = some (.host r))
    (h : (s.bay r.bay).health.mode = .careful ∨ OnlyLane s n r.bay) : s.eighthJudged r.bay = eighthFailed s r.bay := by
  unfold State.eighthJudged
  split
  · rfl
  · rename_i normal
    have only : OnlyLane (eighthFailed s r.bay) n r.bay := (h.resolve_left normal).eighthFailed
    exact (State.shortenTurn_cases _ r.bay n only).2 r (((BayJudged.eighthFailed s r.bay).holder n).trans holds) rfl

theorem hostFailed_spec (n : Fin 4) (s : State) (r : HostRead) (holds : (s.lane n).holder = some (.host r))
    (answer : Option (List Byte)) (failed : ∀ data, answer = some data → data.length ≠ 512)
    (running : (s.bay r.bay).health.running = true) : ∃ t, exec (.blockReadAttempt n answer) s = .next t ∧ t.pool = s.pool ∧
      t.ports = s.ports ∧ t.jm = s.jm ∧ t.pending = s.pending ∧ (∀ a, a ≠ r.bay → bayCore (t.bay a) = bayCore (s.bay a)) ∧
      ((s.bay r.bay).fails + 1 < 8 → (t.lane n).holder = some (.host r) ∧ t.lki = s.lki ∧
        (EntersCareful (s.bay r.bay) →
          t.bay r.bay = carefulRecord (s.bay r.bay) (entryCount (s.bay r.bay)) ∧
          t.wire = (carefulEntered s r.bay (entryCount (s.bay r.bay))).wire ∧
          (OnlyLane s n r.bay → t = carefulEntered s r.bay (entryCount (s.bay r.bay)))) ∧
        (¬ EntersCareful (s.bay r.bay) → t = retried s r.bay)) ∧
      (8 ≤ (s.bay r.bay).fails + 1 →
        bayCore (t.bay r.bay) = bayCore ((eighthFailed s r.bay).bay r.bay) ∧ (eighthFailed s r.bay).wire <+: t.wire ∧
        ((s.bay r.bay).health.mode = .careful ∨ OnlyLane s n r.bay → GrantRound ((laneBack (eighthFailed s r.bay) n).endRead
          r.id .mediaError (.cardRead r.blocks (r.start + r.blocks) r.data)) t) ∧
        ∀ e, s.read? r.id = some e → e.orphan = false →
          s.replyLog ++ [⟨kindCardRead, e.tag, .mediaError, .cardRead r.blocks (r.start + r.blocks) r.data⟩] <+:
            t.replyLog) := by
  have run : exec (.blockReadAttempt n answer) s = .next (s.hostFailed n r) := by
    simp [exec, execBlockReadAttempt, holds, State.hostAttempt, blockData_failed failed]
  refine ⟨_, run, ?_⟩
  rcases Nat.lt_or_ge ((s.bay r.bay).fails + 1) 8 with left | eighth
  · obtain ⟨judged, careful, again⟩ := hostFailed_again holds running left
    have holder := (judged.holder n).trans holds
    obtain ⟨pool, ports, jm, lki, pending, bays, -⟩ := judged
    exact ⟨pool, ports, jm, pending, fun a other => congrArg bayCore (bays a other),
      fun _ => ⟨holder, lki, careful, again⟩, fun eighth => by omega⟩
  · obtain ⟨pool, ports, jm, lki, pending, bays, -⟩ := BayJudged.eighthJudged s r.bay
    obtain ⟨pool', ports', jm', pending', -, -, bays', -⟩ :=
      GrantOnly.hostEnds (s.eighthJudged r.bay) n r .mediaError (r.start + r.blocks)
    have log : (s.eighthJudged r.bay).replyLog = s.replyLog := by simp [State.replyLog, lki]
    have table (i : Nat) : (s.eighthJudged r.bay).read? i = s.read? i := by simp [State.read?, lki]
    rw [hostFailed_eighth s n r eighth]
    refine ⟨pool'.trans pool, ports'.trans ports, jm'.trans jm, pending'.trans pending,
      fun a other => (bays' a).trans (congrArg bayCore (bays a other)), fun left => by omega, fun _ => ⟨?_, ?_, fun sure => ?_,
      fun e entry whole => ?_⟩⟩
    · rw [bays', State.eighthJudged_bay]
    · rw [← State.eighthJudged_wire]
      exact State.hostEnds_wire _ n r _ _
    · rw [← eighthJudged_host holds sure]
      exact State.hostEnds_round _ n r _ _
    · rw [← log]
      exact State.hostEnds_reply n .mediaError _ ((table r.id).trans entry) whole

/-- Settles O32: a whole block, and a failed attempt judged by the bay's monitor. -/
theorem hostReadsAreAnswered : Obligations.HostReadsAreAnswered :=
  fun n s r holds => ⟨hostBlock_spec n s r holds, hostFailed_spec n s r holds⟩

end Sys2Proof.Machine
end

section
namespace Sys2Proof.Machine

/-! ## Bytes placed one after another -/

theorem putExtent_putExtent (xs : List (Nat × Extent)) (i : Nat) (e f : Extent) :
    putExtent (putExtent xs i e) i f = putExtent xs i f := by
  induction xs with
  | nil => simp [putExtent]
  | cons x xs ih =>
    obtain ⟨j, g⟩ := x
    by_cases before : i < j
    · simp [putExtent, before]
    · by_cases same : i = j
      · simp [putExtent, same]
      · simp [putExtent, before, same, ih]

theorem find?_putExtent (xs : List (Nat × Extent)) (i : Nat) (e : Extent) :
    (putExtent xs i e).find? (fun x => x.1 == i) = some (i, e) := by
  induction xs with
  | nil => simp [putExtent]
  | cons x xs ih =>
    obtain ⟨j, g⟩ := x
    by_cases before : i < j
    · simp [putExtent, before]
    · by_cases same : i = j
      · simp [putExtent, same]
      · simp [putExtent, before, same, Ne.symm same, ih]

theorem extentAt_putExtent (q : Pool) (m : Memory) (i : Nat) (e : Extent) :
    extentAt { q with extents := putExtent q.extents i e, mem := m } i = some e := by
  simp [extentAt, find?_putExtent]

theorem writeBytes_append (m : Memory) (a : Nat) (xs ys : List Byte) :
    Memory.writeBytes (Memory.writeBytes m a xs) (a + xs.length) ys = Memory.writeBytes m a (xs ++ ys) := by
  induction xs generalizing m a with
  | nil => rfl
  | cons v xs ih =>
    have next : a + (v :: xs).length = a + 1 + xs.length := by simp; omega
    rw [next]
    exact ih _ _

theorem poolPlace_filling {q : Pool} {i : Nat} {e : Extent} {c : ClaimId} (entry : extentAt q i = some e)
    (filling : e.state = .filling) (claim : e.claim = c) (off : Nat) (bytes : List Byte) : poolPlace q i c off bytes = { q with
      extents := putExtent q.extents i { e with bytes := e.bytes + bytes.length }
      mem := Memory.writeBytes q.mem (i * 4194304 + off) bytes } := by
  unfold poolPlace
  rw [entry]
  exact if_pos ⟨filling, claim⟩

theorem poolPlace_other {q : Pool} {i : Nat} {c : ClaimId}
    (h : ∀ e, extentAt q i = some e → e.state ≠ .filling ∨ e.claim ≠ c) (off : Nat) (bytes : List Byte) :
    poolPlace q i c off bytes = q := by
  unfold poolPlace
  split
  · rename_i e entry
    refine if_neg fun ⟨filling, claim⟩ => ?_
    rcases h e entry with other | other
    · exact other filling
    · exact other claim
  · rfl

/-- What is placed in two steps is what is placed at once (R73). -/
theorem poolPlace_append (q : Pool) (i : Nat) (c : ClaimId) (off : Nat) (xs ys : List Byte) :
    poolPlace (poolPlace q i c off xs) i c (off + xs.length) ys = poolPlace q i c off (xs ++ ys) := by
  by_cases ours : ∃ e, extentAt q i = some e ∧ e.state = .filling ∧ e.claim = c
  · obtain ⟨e, entry, filling, claim⟩ := ours
    have placed := extentAt_putExtent q (Memory.writeBytes q.mem (i * 4194304 + off) xs) i
      { e with bytes := e.bytes + xs.length }
    rw [poolPlace_filling entry filling claim, poolPlace_filling entry filling claim,
      poolPlace_filling placed filling claim]
    dsimp only
    rw [putExtent_putExtent, ← writeBytes_append, List.length_append, Nat.add_assoc, Nat.add_assoc]
  · have other (e : Extent) (entry : extentAt q i = some e) : e.state ≠ .filling ∨ e.claim ≠ c := by
      by_contra both
      rw [not_or, not_not, not_not] at both
      exact ours ⟨e, entry, both⟩
    rw [poolPlace_other other, poolPlace_other other, poolPlace_other other]

/-! ## Blocks taken by a lane that reads on -/

/-- The bytes of a block have been taken in the middle of an extent (R54, R73, R90). -/
def State.bytesTaken (s : State) (n : Fin 4) (b : Fin 8) (i : Nat) (c : ClaimId) (d : DigestState) (bytes : List Byte) : State :=
  (({ s with pool := poolPlace s.pool i c (d.count % 4194304) bytes } : State).setBay b { s.bay b with fails := 0 }).setLane n
    { s.lane n with unit := some (digestFeed d bytes) }

theorem State.bytesTaken_lane (s : State) (n : Fin 4) (b : Fin 8) (i : Nat) (c : ClaimId) (d : DigestState)
    (bytes : List Byte) : (s.bytesTaken n b i c d bytes).lane n = { s.lane n with unit := some (digestFeed d bytes) } :=
  State.lane_setLane _ n _

theorem State.bytesTaken_bay (s : State) (n : Fin 4) (b : Fin 8) (i : Nat) (c : ClaimId) (d : DigestState)
    (bytes : List Byte) : (s.bytesTaken n b i c d bytes).bay b = { s.bay b with fails := 0 } := State.bay_setBay _ b _

theorem State.setLane_setLane (s : State) (n : Fin 4) (x y : Lane) : (s.setLane n x).setLane n y = s.setLane n y := by
  unfold State.setLane
  dsimp only
  rw [Vector.set_set]

theorem digestFeed_append (d : DigestState) (xs ys : List Byte) :
    digestFeed (digestFeed d xs) ys = digestFeed d (xs ++ ys) := by
  simp [digestFeed, Nat.add_assoc]

/-- Two blocks taken in one extent are their bytes taken together. -/
theorem State.bytesTaken_append (s : State) (n : Fin 4) (b : Fin 8) (i : Nat) (c : ClaimId) (d : DigestState)
    (xs ys : List Byte) (inside : (d.count + xs.length) % 4194304 = d.count % 4194304 + xs.length) :
    (s.bytesTaken n b i c d xs).bytesTaken n b i c (digestFeed d xs) ys = s.bytesTaken n b i c d (xs ++ ys) := by
  have place : (digestFeed d xs).count % 4194304 = d.count % 4194304 + xs.length := inside
  have lane := s.bytesTaken_lane n b i c d xs
  have bay := s.bytesTaken_bay n b i c d xs
  have pool : poolPlace (s.bytesTaken n b i c d xs).pool i c ((digestFeed d xs).count % 4194304) ys =
      poolPlace s.pool i c (d.count % 4194304) (xs ++ ys) := by
    rw [place]
    exact poolPlace_append s.pool i c _ xs ys
  unfold State.bytesTaken at lane bay pool ⊢
  rw [lane, bay, pool, digestFeed_append]
  simp [State.setLane, State.setBay, Vector.set_set]

/-- A block that ends neither the read nor the extent leaves the lane reading (R54). -/
theorem BlockTaken.reads_on {s t : State} {n : Fin 4} {b : Fin 8} {item : WorkItem} {i length : Nat} {d : DigestState}
    {bytes : List Byte} (h : BlockTaken s t n b item i d length bytes) (more : d.count + bytes.length < length)
    (inside : (d.count + bytes.length) % 4194304 ≠ 0) : t = s.bytesTaken n b i (claimOf item d.count) d bytes :=
  (h _ _ _ _ _ rfl rfl rfl rfl rfl).1 more inside

/-- A block that ends the read or the extent leaves the lane with no extent (R54 to R56). -/
theorem BlockTaken.extent_none {s t : State} {n : Fin 4} {b : Fin 8} {item : WorkItem} {i length : Nat} {d : DigestState}
    {bytes : List Byte} (h : BlockTaken s t n b item i d length bytes)
    (ends : length ≤ d.count + bytes.length ∨ (d.count + bytes.length) % 4194304 = 0) : (t.lane n).extent = none := by
  obtain ⟨-, last, full⟩ := h _ _ _ _ _ rfl rfl rfl rfl rfl
  rcases Nat.lt_or_ge (d.count + bytes.length) length with more | done
  · obtain ⟨turnEnds, claimsNext⟩ := full more (ends.resolve_left (by omega))
    by_cases turn : (s.lane n).burst ≤ (s.lane n).filled + 1 ∨ (s.lane n).endTurn = true
    · exact (turnEnds turn).extent_none n (by rw [laneBack_lane]; rfl)
    · rw [not_or] at turn
      rw [claimsNext (Nat.lt_of_not_le turn.1) (Bool.eq_false_of_not_eq_true turn.2), State.lane_setLane]
  · rw [last done, State.lane_setLane]

/-- What the taking of a block leaves of the pool and of the other bays. -/
theorem BlockTaken.frame {s t : State} {n : Fin 4} {b : Fin 8} {item : WorkItem} {i length : Nat} {d : DigestState}
    {bytes : List Byte} (h : BlockTaken s t n b item i d length bytes) :
    t.pool = poolPlace s.pool i (claimOf item d.count) (d.count % 4194304) bytes ∧
      (∀ a, a ≠ b → bayCore (t.bay a) = bayCore (s.bay a)) ∧ s.wire <+: t.wire := by
  obtain ⟨middle, last, full⟩ := h _ _ _ _ _ rfl rfl rfl rfl rfl
  have others (pool : Pool) (x : Bay) (a : Fin 8) (other : a ≠ b) :
      (({ s with pool := pool } : State).setBay b x).bay a = s.bay a := State.bay_setBay_ne _ b a x other
  rcases Nat.lt_or_ge (d.count + bytes.length) length with more | done
  · by_cases boundary : (d.count + bytes.length) % 4194304 = 0
    · obtain ⟨turnEnds, claimsNext⟩ := full more boundary
      by_cases turn : (s.lane n).burst ≤ (s.lane n).filled + 1 ∨ (s.lane n).endTurn = true
      · have round := turnEnds turn
        obtain ⟨pool, -, -, -, -, -, bays, -⟩ := GrantOnly.of_round round
        exact ⟨pool, fun a other => (bays a).trans (congrArg bayCore (others _ _ a other)),
          (List.prefix_append _ _).trans round.wire⟩
      · rw [not_or] at turn
        rw [claimsNext (Nat.lt_of_not_le turn.1) (Bool.eq_false_of_not_eq_true turn.2)]
        exact ⟨rfl, fun a other => congrArg bayCore (others _ _ a other), List.prefix_append _ _⟩
    · rw [middle more boundary]
      exact ⟨rfl, fun a other => congrArg bayCore (others _ _ a other), List.prefix_refl _⟩
  · rw [last done]
    exact ⟨rfl, fun a other => congrArg bayCore ((State.bay_setBay_ne _ b a _ other).trans (others _ _ a other)),
      List.prefix_append _ _⟩

/-! ## Damaged blocks -/

/-- A repair read stands at a block of its damage list (R62). -/
theorem State.atDamaged_iff {s : State} {n : Fin 4} {b : Fin 8} {c i : Nat} {p : Fin 4} {d : DigestState} {w : ReadWork}
    (holder : (s.lane n).holder = some (.work b (.repair c p))) (extent : (s.lane n).extent = some i)
    (unit : (s.lane n).unit = some d) (work : bayWork (s.bay b) (.repair c p) = some w) :
    s.atDamaged n = true ↔ blockAt w.runs (d.count / 512) ∈ w.damage := by
  unfold State.atDamaged
  rw [holder, extent, unit]
  simp [work, nextBlock, Config.blockBytes]

/-- A lane that has an extent in progress has it for the bay's own work, or has none. -/
def ReadsFor (b : Fin 8) (n : Fin 4) (s : State) : Prop :=
  (s.lane n).extent = none ∨ ∃ item, (s.lane n).holder = some (.work b item)

theorem State.takeBlock_readsFor {s : State} {b : Fin 8} {n : Fin 4} (h : ReadsFor b n s) (data : List Byte) :
    ReadsFor b n (s.takeBlock n data) ∧ ∀ a, a ≠ b → bayCore ((s.takeBlock n data).bay a) = bayCore (s.bay a) := by
  by_cases takes : ∃ item d i w, (s.lane n).holder = some (.work b item) ∧ (s.lane n).unit = some d ∧
      (s.lane n).extent = some i ∧ bayWork (s.bay b) item = some w
  · obtain ⟨item, d, i, w, holder, unit, extent, work⟩ := takes
    have taken := s.takeBlock_taken n b item i d w data holder extent unit work
    obtain ⟨-, others, -⟩ := taken.frame
    refine ⟨?_, others⟩
    generalize data.take (min 512 (w.length - d.count)) = bytes at taken
    by_cases ends : w.length ≤ d.count + bytes.length ∨ (d.count + bytes.length) % 4194304 = 0
    · exact .inl (taken.extent_none ends)
    · rw [not_or] at ends
      rw [taken.reads_on (Nat.lt_of_not_le ends.1) ends.2]
      exact .inr ⟨item, by rw [State.bytesTaken_lane]; exact holder⟩
  · have stands : s.takeBlock n data = s := by
      unfold State.takeBlock
      split
      · rename_i a item d i holder unit extent
        obtain rfl : a = b := by
          rcases h with none | ⟨item', held⟩
          · rw [none] at extent
            cases extent
          · rw [holder] at held
            cases held
            rfl
        split
        · rfl
        · rename_i w work
          exact absurd ⟨item, d, i, w, holder, unit, extent, work⟩ takes
      · rfl
    rw [stands]
    exact ⟨h, fun _ _ => rfl⟩

theorem State.skipDamaged_readsFor (k : Nat) {s : State} {b : Fin 8} {n : Fin 4} (h : ReadsFor b n s) :
    ∀ a, a ≠ b → bayCore ((State.skipDamaged k s n).bay a) = bayCore (s.bay a) := by
  induction k generalizing s with
  | zero => exact fun _ _ => rfl
  | succ k ih =>
    unfold State.skipDamaged
    split
    · obtain ⟨next, others⟩ := State.takeBlock_readsFor h zeroBlock
      exact fun a other => (ih next a other).trans (others a other)
    · exact fun _ _ => rfl

/-- A lane that reads for a repair stands in the middle of an extent, the blocks of the damage list that stand next being `z`
in number (R62). -/
def ZerosNext (w : ReadWork) (d : DigestState) (z : Nat) : Prop :=
  (∀ m, m < z → blockAt w.runs ((d.count + 512 * m) / 512) ∈ w.damage) ∧
    blockAt w.runs ((d.count + 512 * z) / 512) ∉ w.damage ∧ d.count + 512 * z < w.length ∧
    d.count % 4194304 + 512 * z < 4194304

/-- A byte count moved on by a block within its extent stays in it. -/
theorem within_extent {count z : Nat} (inside : count % 4194304 + 512 * (z + 1) < 4194304) :
    (count + 512) % 4194304 ≠ 0 ∧ (count + 512) % 4194304 = count % 4194304 + 512 ∧
      (count + 512) / 4194304 = count / 4194304 := by omega

theorem one_more_block {count : Nat} (z : Nat) : count + 512 ≤ count + 512 * (z + 1) := by omega

theorem zeroBlock_length : zeroBlock.length = 512 := List.length_replicate

theorem digestFeed_zeroBlock (d : DigestState) : (digestFeed d zeroBlock).count = d.count + 512 := by
  simp [digestFeed, zeroBlock_length]

theorem ZerosNext.next {w : ReadWork} {d : DigestState} {z : Nat} (h : ZerosNext w d (z + 1)) :
    ZerosNext w (digestFeed d zeroBlock) z := by
  obtain ⟨damaged, sound, more, inside⟩ := h
  have count := digestFeed_zeroBlock d
  have shift (m : Nat) : d.count + 512 + 512 * m = d.count + 512 * (m + 1) := by ring
  unfold ZerosNext
  rw [count, shift]
  refine ⟨fun m small => ?_, sound, more, by omega⟩
  rw [shift]
  exact damaged (m + 1) (by omega)

section
variable {n : Fin 4} {b : Fin 8} {c i : Nat} {p : Fin 4} {w : ReadWork} {s : State} {d : DigestState} {z : Nat}
  (holder : (s.lane n).holder = some (.work b (.repair c p))) (extent : (s.lane n).extent = some i)
  (unit : (s.lane n).unit = some d) (work : bayWork (s.bay b) (.repair c p) = some w)
include holder extent work

/-- A lane that reads on for a repair stands behind the bytes taken. -/
theorem State.bytesTaken_reads (k : ClaimId) (bytes : List Byte) :
    ((s.bytesTaken n b i k d bytes).lane n).holder = some (.work b (.repair c p)) ∧
      ((s.bytesTaken n b i k d bytes).lane n).extent = some i ∧
      ((s.bytesTaken n b i k d bytes).lane n).unit = some (digestFeed d bytes) ∧
      bayWork ((s.bytesTaken n b i k d bytes).bay b) (.repair c p) = some w := by
  rw [State.bytesTaken_lane, State.bytesTaken_bay]
  exact ⟨holder, extent, rfl, work⟩

include unit

/-- A whole block in the middle of a clip and of an extent is taken, and the lane reads on (R54). -/
theorem State.takeBlock_whole {data : List Byte} (whole : data.length = 512) (goesOn : d.count + 512 < w.length)
    (within : (d.count + 512) % 4194304 ≠ 0) :
    s.takeBlock n data = s.bytesTaken n b i ⟨c, .repair, some p, d.count / 4194304⟩ d data := by
  have taken := s.takeBlock_taken n b (.repair c p) i d w data holder extent unit work
  rw [List.take_of_length_le (by omega)] at taken
  exact taken.reads_on (by omega) (by rwa [whole])

/-- The first of the damaged blocks that stand next is taken as zeros (R62). -/
theorem State.skipDamaged_zero (k : Nat) (next : ZerosNext w d (z + 1)) : State.skipDamaged (k + 1) s n =
    State.skipDamaged k (s.bytesTaken n b i ⟨c, .repair, some p, d.count / 4194304⟩ d zeroBlock) n := by
  obtain ⟨damaged, -, more, inside⟩ := next
  have here : s.atDamaged n = true := (State.atDamaged_iff holder extent unit work).2 (damaged 0 (by omega))
  obtain ⟨within, -, -⟩ := within_extent inside
  have goesOn : d.count + 512 < w.length := (one_more_block z).trans_lt more
  rw [State.skipDamaged, if_pos here, State.takeBlock_whole holder extent unit work zeroBlock_length goesOn within]

theorem State.skipDamaged_sound (k : Nat) (sound : blockAt w.runs (d.count / 512) ∉ w.damage) :
    State.skipDamaged k s n = s := by
  cases k with
  | zero => rfl
  | succ k => exact if_neg fun here => sound ((State.atDamaged_iff holder extent unit work).1 here)
end

/-- The damaged blocks that stand next are taken as zeros in one go (R62). -/
theorem State.skipDamaged_zeros {n : Fin 4} {b : Fin 8} {c i : Nat} {p : Fin 4} {w : ReadWork} (z : Nat) {k : Nat}
    {s : State} {d : DigestState} (few : z < k) (holder : (s.lane n).holder = some (.work b (.repair c p)))
    (extent : (s.lane n).extent = some i) (unit : (s.lane n).unit = some d)
    (work : bayWork (s.bay b) (.repair c p) = some w) (next : ZerosNext w d (z + 1)) :
    State.skipDamaged k s n =
      s.bytesTaken n b i ⟨c, .repair, some p, d.count / 4194304⟩ d (List.replicate (512 * (z + 1)) 0#8) := by
  induction z generalizing k s d with
  | zero =>
    obtain ⟨k, rfl⟩ := Nat.exists_eq_succ_of_ne_zero (show k ≠ 0 by omega)
    obtain ⟨-, sound, -, -⟩ := next.next
    rw [Nat.mul_zero, Nat.add_zero] at sound
    rw [Nat.succ_eq_add_one, State.skipDamaged_zero holder extent unit work k next]
    obtain ⟨holder', extent', unit', work'⟩ := State.bytesTaken_reads (d := d) holder extent work
      ⟨c, .repair, some p, d.count / 4194304⟩ zeroBlock
    exact State.skipDamaged_sound holder' extent' unit' work' k sound
  | succ z ih =>
    obtain ⟨k, rfl⟩ := Nat.exists_eq_succ_of_ne_zero (show k ≠ 0 by omega)
    have ⟨_, _, _, inside⟩ := next
    obtain ⟨-, place, extents⟩ := within_extent inside
    rw [← digestFeed_zeroBlock] at extents
    obtain ⟨holder', extent', unit', work'⟩ := State.bytesTaken_reads (d := d) holder extent work
      ⟨c, .repair, some p, d.count / 4194304⟩ zeroBlock
    have rest := ih (k := k) (by omega) holder' extent' unit' work' next.next
    have zeros : zeroBlock ++ List.replicate (512 * (z + 1)) 0#8 = List.replicate (512 * (z + 1 + 1)) 0#8 := by
      rw [zeroBlock, List.replicate_append_replicate]
      exact congrArg (List.replicate · _) (by simp [Config.blockBytes]; ring)
    rw [Nat.succ_eq_add_one, State.skipDamaged_zero holder extent unit work k next, rest, extents,
      State.bytesTaken_append _ _ _ _ _ _ _ _ (by rw [zeroBlock_length, place]), zeros]

end Sys2Proof.Machine
end

section
namespace Sys2Proof.Machine

/-! ## BLOCK_READ_ATTEMPT of a whole block -/

theorem blockReadAttempt_work {n : Fin 4} {b : Fin 8} {item : WorkItem} {i : Nat} {d : DigestState} {w : ReadWork} {s : State}
    (holder : (s.lane n).holder = some (.work b item)) (extent : (s.lane n).extent = some i)
    (unit : (s.lane n).unit = some d) (work : bayWork (s.bay b) item = some w) (answer : Option (List Byte)) :
    exec (.blockReadAttempt n answer) s = .next ((s.workAttempt n b w d.count answer).skipZeros n) := by
  simp [exec, execBlockReadAttempt, holder, extent, unit, work]

theorem blockReadAttempt_whole {n : Fin 4} {b : Fin 8} {item : WorkItem} {i : Nat} {d : DigestState} {w : ReadWork} {s : State}
    (holder : (s.lane n).holder = some (.work b item)) (extent : (s.lane n).extent = some i)
    (unit : (s.lane n).unit = some d) (work : bayWork (s.bay b) item = some w) {data : List Byte} (whole : data.length = 512) :
    exec (.blockReadAttempt n (some data)) s = .next ((s.takeBlock n data).skipZeros n) := by
  rw [blockReadAttempt_work holder extent unit work, State.workAttempt, blockData_whole whole]

/-- The blocks that stand when a lane has taken a block, and zeros after it (R62). -/
theorem takeBlock_skipZeros_frame {n : Fin 4} {b : Fin 8} {item : WorkItem} {s : State}
    (holder : (s.lane n).holder = some (.work b item)) (data : List Byte) (t : State)
    (h : t = (s.takeBlock n data).skipZeros n) : t.ports = s.ports ∧ t.jm = s.jm ∧ t.pending = s.pending ∧
      ∀ a, a ≠ b → bayCore (t.bay a) = bayCore (s.bay a) := by
  subst h
  obtain ⟨ports, jm, pending⟩ := (s.takeBlock n data).skipZeros_frame n
  obtain ⟨ports', jm', pending'⟩ := s.takeBlock_frame n data
  obtain ⟨reads, others⟩ := State.takeBlock_readsFor (.inr ⟨item, holder⟩) data
  exact ⟨ports.trans ports', jm.trans jm', pending.trans pending',
    fun a other => (State.skipDamaged_readsFor _ reads a other).trans (others a other)⟩

/-- After a block of a repair read that ends the read or the extent, or that has no damaged block behind it, no zeros are
taken (R62). -/
theorem BlockTaken.atDamaged_repair {s t : State} {n : Fin 4} {b : Fin 8} {c i length : Nat} {p : Fin 4} {d : DigestState}
    {w : ReadWork} {bytes : List Byte} (h : BlockTaken s t n b (.repair c p) i d length bytes)
    (holder : (s.lane n).holder = some (.work b (.repair c p))) (extent : (s.lane n).extent = some i)
    (work : bayWork (s.bay b) (.repair c p) = some w)
    (clear : length ≤ d.count + bytes.length ∨ (d.count + bytes.length) % 4194304 = 0 ∨
      blockAt w.runs ((d.count + bytes.length) / 512) ∉ w.damage) : t.atDamaged n = false := by
  by_cases ends : length ≤ d.count + bytes.length ∨ (d.count + bytes.length) % 4194304 = 0
  · exact State.atDamaged_none t n (h.extent_none ends)
  · have sound := (or_assoc.2 clear).resolve_left ends
    rw [not_or] at ends
    rw [h.reads_on (Nat.lt_of_not_le ends.1) ends.2]
    obtain ⟨holder', extent', unit', work'⟩ := State.bytesTaken_reads (d := d) holder extent work
      (claimOf (.repair c p) d.count) bytes
    exact Bool.eq_false_of_not_eq_true fun here => sound ((State.atDamaged_iff holder' extent' unit' work').1 here)

/-- A block whose taking leaves the clip unfinished was whole. -/
theorem share_whole {length count : Nat} {data : List Byte} (whole : data.length = 512)
    (more : count + (data.take (min 512 (length - count))).length < length) : data.take (min 512 (length - count)) = data := by
  rw [List.length_take] at more
  exact List.take_of_length_le (by omega)

/-- A byte count moved on by a block is in the same extent where it does not stand at the start of one. -/
theorem same_extent {count : Nat} (fits : count % 4194304 + 512 ≤ 4194304) (within : (count + 512) % 4194304 ≠ 0) :
    (count + 512) / 4194304 = count / 4194304 := by omega

theorem digestFeed_zeros (d : DigestState) (k : Nat) : digestFeed d (List.replicate k 0#8) =
    ⟨(List.replicate k 0#8).foldl digestByte d.reg, d.count + k⟩ := by
  rw [digestFeed, List.length_replicate]

theorem clipBlock_spec (n : Fin 4) (data : List Byte) (s : State) (b : Fin 8) (c i : Nat) (d : DigestState) (w : ReadWork)
    (whole : data.length = 512) (holder : (s.lane n).holder = some (.work b (.clip c)))
    (extent : (s.lane n).extent = some i) (unit : (s.lane n).unit = some d)
    (work : bayWork (s.bay b) (.clip c) = some w) (bytes : List Byte)
    (share : bytes = data.take (min 512 (w.length - d.count))) :
    ∃ t, exec (.blockReadAttempt n (some data)) s = .next t ∧ t.ports = s.ports ∧ t.jm = s.jm ∧ t.pending = s.pending ∧
      (∀ a, a ≠ b → bayCore (t.bay a) = bayCore (s.bay a)) ∧
      t.pool = poolPlace s.pool i ⟨c, .first, none, d.count / 4194304⟩ (d.count % 4194304) bytes ∧
      BlockTaken s t n b (.clip c) i d w.length bytes := by
  have taken := s.takeBlock_taken n b (.clip c) i d w data holder extent unit work
  rw [← share] at taken
  have run := blockReadAttempt_whole holder extent unit work whole
  have stands := (s.takeBlock n data).skipZeros_sound n (taken.atDamaged_clip holder)
  obtain ⟨ports, jm, pending, others⟩ := takeBlock_skipZeros_frame holder data _ rfl
  rw [stands] at run ports jm pending others
  obtain ⟨pool, -, -⟩ := taken.frame
  exact ⟨_, run, ports, jm, pending, others, pool, taken⟩

theorem repairBlock_spec (n : Fin 4) (data : List Byte) (s : State) (b : Fin 8) (c i : Nat) (p : Fin 4) (d : DigestState)
    (w : ReadWork) (whole : data.length = 512) (holder : (s.lane n).holder = some (.work b (.repair c p)))
    (extent : (s.lane n).extent = some i) (unit : (s.lane n).unit = some d)
    (work : bayWork (s.bay b) (.repair c p) = some w) (bytes : List Byte) (d' : DigestState) (claim : ClaimId)
    (share : bytes = data.take (min 512 (w.length - d.count)))
    (fed : d' = ⟨bytes.foldl digestByte d.reg, d.count + bytes.length⟩)
    (named : claim = ⟨c, .repair, some p, d.count / 4194304⟩) :
    ∃ t, exec (.blockReadAttempt n (some data)) s = .next t ∧ t.ports = s.ports ∧ t.jm = s.jm ∧ t.pending = s.pending ∧
      (∀ a, a ≠ b → bayCore (t.bay a) = bayCore (s.bay a)) ∧
      (w.length ≤ d'.count ∨ d'.count % 4194304 = 0 ∨ blockAt w.runs (d'.count / 512) ∉ w.damage →
        t.pool = poolPlace s.pool i claim (d.count % 4194304) bytes ∧
          BlockTaken s t n b (.repair c p) i d w.length bytes) ∧
      (∀ k, d.count % 4194304 + 512 ≤ 4194304 → 1 ≤ k → k ≤ 16 →
        (∀ m, m < k → blockAt w.runs ((d'.count + 512 * m) / 512) ∈ w.damage) →
        blockAt w.runs ((d'.count + 512 * k) / 512) ∉ w.damage → d'.count + 512 * k < w.length → d'.count % 4194304 ≠ 0 →
        d'.count % 4194304 + 512 * k < 4194304 →
        t.lane n = { s.lane n with
          unit := some ⟨(List.replicate (512 * k) 0#8).foldl digestByte d'.reg, d'.count + 512 * k⟩ } ∧
        t.pool = poolPlace (poolPlace s.pool i claim (d.count % 4194304) bytes) i claim (d'.count % 4194304)
          (List.replicate (512 * k) 0#8) ∧ t.wire = s.wire) := by
  have taken := s.takeBlock_taken n b (.repair c p) i d w data holder extent unit work
  obtain ⟨ports, jm, pending, others⟩ := takeBlock_skipZeros_frame holder data _ rfl
  refine ⟨_, blockReadAttempt_whole holder extent unit work whole, ports, jm, pending, others, fun clear => ?_,
    fun k fits some few damaged sound more within inside => ?_⟩
  · rw [← share] at taken
    subst fed named
    rw [State.skipZeros_sound _ n (taken.atDamaged_repair holder extent work clear)]
    obtain ⟨pool, -, -⟩ := taken.frame
    exact ⟨pool, taken⟩
  · have goesOn : d'.count < w.length := Nat.lt_of_le_of_lt (Nat.le_add_right _ _) more
    have full : bytes = data := by
      rw [fed, share] at goesOn
      rw [share]
      exact share_whole whole goesOn
    subst full
    have count : d'.count = d.count + 512 := by rw [fed, whole]
    obtain ⟨z, rfl⟩ := Nat.exists_eq_add_of_le' some
    have step := State.takeBlock_whole holder extent unit work whole (count ▸ goesOn) (count ▸ within)
    obtain ⟨holder', extent', unit', work'⟩ := State.bytesTaken_reads (d := d) holder extent work claim bytes
    have next : digestFeed d bytes = d' := fed.symm
    rw [next] at unit'
    have zeros := State.skipDamaged_zeros z (k := Config.maxDamage) few holder' extent' unit' work'
      ⟨damaged, sound, more, inside⟩
    have extents : d'.count / 4194304 = d.count / 4194304 := by
      rw [count] at within ⊢
      exact same_extent fits within
    rw [extents, ← named] at zeros
    rw [step, State.skipZeros, ← named, zeros]
    refine ⟨?_, rfl, rfl⟩
    rw [State.bytesTaken_lane, State.bytesTaken_lane, digestFeed_zeros]

/-- Settles O31: a block is placed and digested as the lane's part of the bytes, and the damaged blocks behind it are zeros. -/
theorem blocksArePlacedAndDigested : Obligations.BlocksArePlacedAndDigested := by
  refine ⟨fun q i off c bytes => ⟨fun e entry filling claim => poolPlace_filling entry filling claim off bytes,
    fun other => poolPlace_other other off bytes⟩, fun m a k bytes sorted => ⟨fun v at_k => ?_,
    fun outside => Memory.read_writeBytes_other sorted a bytes outside⟩, fun n answer s free => ?_, clipBlock_spec,
    repairBlock_spec⟩
  · obtain ⟨inside, rfl⟩ := List.getElem?_eq_some_iff.1 at_k
    exact Memory.read_writeBytes sorted a bytes k inside
  · simp [exec, execBlockReadAttempt, free]

end Sys2Proof.Machine
end

section
namespace Sys2Proof.Machine

/-! ## READ_COMPLETION_ACK -/

/-- A search for grants gives no lane an acknowledgment to await (R56). -/
theorem GrantRound.ack_none {s t : State} (h : GrantRound s t) (n : Fin 4) (none : (s.lane n).ack = none) :
    (t.lane n).ack = .none := by
  induction h with
  | ends => exact none
  | host s u t m r _ _ given _ ih =>
    refine ih ?_
    rcases given.ends_or_holds with ⟨c, body, rfl⟩ | ⟨-, k, -, rfl⟩
    · rw [State.lane_of_arb (State.endRead_arb _ _ _ _)]
      exact none
    · by_cases same : n = m
      · rw [same, State.lane_setLane]
        rfl
      · rw [State.lane_setLane_ne _ _ _ _ same]
        exact none
  | bay s t m b item _ _ _ _ _ ih =>
    refine ih ?_
    by_cases same : n = m
    · subst same
      simp [turnGiven, State.setBay, State.lane, Lane.reset]
    · have stands : (turnGiven s m b item).lane n = s.lane n := State.lane_setLane_ne s m n _ same
      rw [stands]
      exact none

theorem readCompletionAck_spec (n : Fin 4) (item : WorkItem) (s : State) : ∃ t, exec (.readCompletionAck n item) s = .next t ∧
    t.pool = s.pool ∧ t.ports = s.ports ∧ t.jm = s.jm ∧ t.pending = s.pending ∧
    (∀ a, bayCore (t.bay a) = bayCore (s.bay a)) ∧
    (∀ b a, (s.lane n).holder = some (.work b item) → (s.lane n).ack = some a →
      Instr.extentComplete a.index a.claim a.bytes ∈ t.wire ∧ (t.lane n).ack = none ∧
      GrantRound (laneBack ((s.arrive (.readCompletionAck n item)).send (.extentComplete a.index a.claim a.bytes)) n) t) ∧
    ((s.lane n).ack = none ∨ (∀ b, (s.lane n).holder ≠ some (.work b item)) → t = s.arrive (.readCompletionAck n item)) := by
  by_cases awaited : ∃ b a, (s.lane n).holder = some (.work b item) ∧ (s.lane n).ack = some a
  · obtain ⟨b, a, holder, ack⟩ := awaited
    have run : exec (.readCompletionAck n item) s = .next (((s.arrive (.readCompletionAck n item)).send
        (.extentComplete a.index a.claim a.bytes)).returnLane n) := by
      simp [exec, execReadCompletionAck, holder, ack]
    have round := State.returnLane_round ((s.arrive (.readCompletionAck n item)).send (.extentComplete a.index a.claim a.bytes)) n
    obtain ⟨pool, ports, jm, pending, -, -, bays, -⟩ := GrantOnly.of_round round
    refine ⟨_, run, pool, ports, jm, pending, bays, fun b' a' _ ack' => ?_, fun unawaited => ?_⟩
    · obtain rfl := Option.some.inj (ack.symm.trans ack')
      exact ⟨round.wire.subset (by simp [laneBack]), round.ack_none n (by rw [laneBack_lane]; rfl), round⟩
    · rcases unawaited with none | other
      · rw [ack] at none
        cases none
      · exact absurd holder (other b)
  · have run : exec (.readCompletionAck n item) s = .next (s.arrive (.readCompletionAck n item)) := by
      refine congrArg Host.Outcome.next ?_
      split
      · rename_i b i a holder ack
        split
        · rename_i same
          exact absurd ⟨b, a, same ▸ holder, ack⟩ awaited
        · rfl
      · rfl
    exact ⟨_, run, rfl, rfl, rfl, rfl, fun _ => rfl, fun b a holder ack => absurd ⟨b, a, holder, ack⟩ awaited, fun _ => rfl⟩

/-! ## CLAIM_ANSWER for a lane -/

section
variable {s : State} {n : Fin 4} {b : Fin 8} {c : ClaimId}

theorem laneAnswer_unawaited (index : Option Nat) (h : ⟨.lane n b, c⟩ ∈ s.arb.unawaited) : s.laneAnswer n b c index =
    (s.setUnawaited (s.arb.unawaited.erase ⟨.lane n b, c⟩)).giveBack none (.lane n b) c index := if_pos h

theorem laneAnswer_unclaimed (index : Option Nat) (h : ⟨.lane n b, c⟩ ∉ s.arb.unawaited) (claim : (s.lane n).claim ≠ some c) :
    s.laneAnswer n b c index = s.giveBack none (.lane n b) c index := by
  unfold State.laneAnswer
  rw [if_neg h]
  split
  · exact if_neg fun both => claim both.2
  · rfl

variable {item : WorkItem} {d : DigestState} (h : ⟨.lane n b, c⟩ ∉ s.arb.unawaited)
  (holder : (s.lane n).holder = some (.work b item)) (unit : (s.lane n).unit = some d) (claim : (s.lane n).claim = some c)
include h holder unit claim

theorem laneAnswer_granted (i : Nat) : s.laneAnswer n b c (some i) = s.claimGranted n b i := by
  simp [State.laneAnswer, h, holder, unit, claim]

theorem laneAnswer_waits : s.laneAnswer n b c none = s.claimWaits n b item d := by
  simp [State.laneAnswer, h, holder, unit, claim]
end

/-- A granted claim has made its extent the lane's, the next block starting with no failed attempt (R54, R57). -/
def State.claimTaken (s : State) (n : Fin 4) (b : Fin 8) (i : Nat) : State :=
  (s.setBay b { s.bay b with fails := 0 }).setLane n { s.lane n with claim := none, extent := some i }

theorem State.claimGranted_eq (s : State) (n : Fin 4) (b : Fin 8) (i : Nat) :
    s.claimGranted n b i = (s.claimTaken n b i).skipZeros n := rfl

theorem State.claimTaken_lane (s : State) (n : Fin 4) (b : Fin 8) (i : Nat) :
    (s.claimTaken n b i).lane n = { s.lane n with claim := none, extent := some i } := State.lane_setLane _ n _

theorem State.claimTaken_bay (s : State) (n : Fin 4) (b : Fin 8) (i : Nat) :
    (s.claimTaken n b i).bay b = { s.bay b with fails := 0 } := State.bay_setBay _ b _

/-- The clip's read takes no zeros (R62). -/
theorem claimGranted_clip {s : State} {n : Fin 4} {b : Fin 8} {k : Nat} (holder : (s.lane n).holder = some (.work b (.clip k)))
    (i : Nat) : s.claimGranted n b i = s.claimTaken n b i :=
  State.skipZeros_sound (s.claimTaken n b i) n
    (State.atDamaged_clip (s.claimTaken n b i) n b k (by rw [State.claimTaken_lane]; exact holder))

section
variable {s : State} {n : Fin 4} {b : Fin 8} {k : Nat} {p : Fin 4} {d : DigestState} {w : ReadWork}
  (holder : (s.lane n).holder = some (.work b (.repair k p))) (unit : (s.lane n).unit = some d)
  (work : bayWork (s.bay b) (.repair k p) = some w)
include holder unit work

theorem claimTaken_reads (i : Nat) : ((s.claimTaken n b i).lane n).holder = some (.work b (.repair k p)) ∧
    ((s.claimTaken n b i).lane n).extent = some i ∧ ((s.claimTaken n b i).lane n).unit = some d ∧
    bayWork ((s.claimTaken n b i).bay b) (.repair k p) = some w := by
  rw [State.claimTaken_lane, State.claimTaken_bay]
  exact ⟨holder, rfl, unit, work⟩

theorem claimGranted_sound (i : Nat) (sound : blockAt w.runs (d.count / 512) ∉ w.damage) :
    s.claimGranted n b i = s.claimTaken n b i := by
  obtain ⟨holder', extent', unit', work'⟩ := claimTaken_reads holder unit work i
  exact State.skipDamaged_sound holder' extent' unit' work' _ sound

theorem claimGranted_zeros (i : Nat) {z : Nat} (few : z < 16) (next : ZerosNext w d (z + 1)) : s.claimGranted n b i =
    (s.claimTaken n b i).bytesTaken n b i ⟨k, .repair, some p, d.count / 4194304⟩ d (List.replicate (512 * (z + 1)) 0#8) := by
  obtain ⟨holder', extent', unit', work'⟩ := claimTaken_reads holder unit work i
  exact State.skipDamaged_zeros z few holder' extent' unit' work' next
end

/-- The blocks that the answer to a lane's claim leaves as they are. -/
theorem laneAnswer_frame (s : State) (n : Fin 4) (b : Fin 8) (c : ClaimId) (index : Option Nat) (t : State)
    (h : t = s.laneAnswer n b c index) : t.ports = s.ports ∧ t.jm = s.jm ∧ t.pending = s.pending ∧
      ∀ a, a ≠ b → bayCore (t.bay a) = bayCore (s.bay a) := by
  subst h
  have given (u : State) (ports : u.ports = s.ports) (jm : u.jm = s.jm) (pending : u.pending = s.pending)
      (bays : u.bays = s.bays) : (u.giveBack none (.lane n b) c index).ports = s.ports ∧
        (u.giveBack none (.lane n b) c index).jm = s.jm ∧ (u.giveBack none (.lane n b) c index).pending = s.pending ∧
        ∀ a, a ≠ b → bayCore ((u.giveBack none (.lane n b) c index).bay a) = bayCore (s.bay a) := by
    obtain ⟨bays', -, ports', jm', -, -, pending', -⟩ := u.giveBack_frame none (.lane n b) c index
    exact ⟨ports'.trans ports, jm'.trans jm, pending'.trans pending,
      fun a _ => congrArg bayCore (State.bay_of_bays (bays'.trans bays) a)⟩
  unfold State.laneAnswer
  split
  · exact given _ rfl rfl rfl rfl
  · split
    · rename_i b' item d holder unit
      split
      · rename_i same
        obtain ⟨rfl, -⟩ := same
        split
        · rename_i i
          obtain ⟨ports, jm, pending⟩ := (s.claimTaken n b' i).skipZeros_frame n
          have reads : ReadsFor b' n (s.claimTaken n b' i) := .inr ⟨item, by rw [State.claimTaken_lane]; exact holder⟩
          exact ⟨ports, jm, pending, fun a other => (State.skipDamaged_readsFor _ reads a other).trans
            (congrArg bayCore (State.bay_setBay_ne s b' a _ other))⟩
        · obtain ⟨-, ports, jm, pending, -, -, bays, -⟩ := GrantOnly.grants
            (((s.send (.burstEndReport item d)).setLane n Lane.reset).setBay b'
              { s.bay b' with waiting := decide ((s.bay b').offered ≠ some item) })
          exact ⟨ports, jm, pending, fun a other => (bays a).trans
            (congrArg bayCore (State.bay_setBay_ne ((s.send _).setLane n _) b' a _ other))⟩
      · exact given s rfl rfl rfl rfl
    · exact given s rfl rfl rfl rfl

theorem laneClaimAnswer_spec (n : Fin 4) (b : Fin 8) (c : ClaimId) (index : Option Nat) (s : State) : ∃ t,
    exec (.claimAnswer (.lane n b) c index) s = .next t ∧ t.ports = s.ports ∧ t.jm = s.jm ∧ t.pending = s.pending ∧
    (∀ a, a ≠ b → bayCore (t.bay a) = bayCore (s.bay a)) ∧
    (⟨.lane n b, c⟩ ∈ s.arb.unawaited →
      GivenBack ((s.arrive (.claimAnswer (.lane n b) c index)).setUnawaited (s.arb.unawaited.erase ⟨.lane n b, c⟩)) t none
        (.lane n b) c index) ∧
    (⟨.lane n b, c⟩ ∉ s.arb.unawaited → (s.lane n).claim ≠ some c →
      GivenBack (s.arrive (.claimAnswer (.lane n b) c index)) t none (.lane n b) c index) ∧
    (∀ k d i, ⟨.lane n b, c⟩ ∉ s.arb.unawaited → (s.lane n).holder = some (.work b (.clip k)) →
      (s.lane n).unit = some d → (s.lane n).claim = some c → index = some i →
        t.lane n = { s.lane n with claim := none, extent := some i } ∧ (t.bay b).fails = 0 ∧
        t.pool = s.pool ∧ t.wire = s.wire.erase (.claimAnswer (.lane n b) c index)) ∧
    (∀ k p d i w, ⟨.lane n b, c⟩ ∉ s.arb.unawaited → (s.lane n).holder = some (.work b (.repair k p)) →
      (s.lane n).unit = some d → (s.lane n).claim = some c → index = some i → bayWork (s.bay b) (.repair k p) = some w →
      (blockAt w.runs (d.count / 512) ∉ w.damage →
        t.lane n = { s.lane n with claim := none, extent := some i } ∧ (t.bay b).fails = 0 ∧ t.pool = s.pool ∧
          t.wire = s.wire.erase (.claimAnswer (.lane n b) c index)) ∧
      (∀ z, 1 ≤ z → z ≤ 16 → (∀ m, m < z → blockAt w.runs ((d.count + 512 * m) / 512) ∈ w.damage) →
        blockAt w.runs ((d.count + 512 * z) / 512) ∉ w.damage → d.count + 512 * z < w.length →
        d.count % 4194304 + 512 * z < 4194304 →
        t.lane n = { s.lane n with
          claim := none, extent := some i
          unit := some ⟨(List.replicate (512 * z) 0#8).foldl digestByte d.reg, d.count + 512 * z⟩ } ∧
          t.pool = poolPlace s.pool i ⟨k, .repair, some p, d.count / 4194304⟩ (d.count % 4194304)
            (List.replicate (512 * z) 0#8) ∧
          t.wire = s.wire.erase (.claimAnswer (.lane n b) c index))) ∧
    (∀ item d, ⟨.lane n b, c⟩ ∉ s.arb.unawaited → (s.lane n).holder = some (.work b item) →
      (s.lane n).unit = some d → (s.lane n).claim = some c → index = none → Instr.burstEndReport item d ∈ t.wire ∧ t.pool = s.pool ∧
        ((s.bay b).offered ≠ some item → (t.bay b).waiting = true) ∧
        GrantRound ((((s.arrive (.claimAnswer (.lane n b) c none)).send (.burstEndReport item d)).setLane n Lane.reset).setBay
          b { s.bay b with waiting := decide ((s.bay b).offered ≠ some item) }) t) := by
  obtain ⟨ports, jm, pending, others⟩ := laneAnswer_frame (s.arrive (.claimAnswer (.lane n b) c index)) n b c index _ rfl
  have taken (i : Nat) : ((s.arrive (.claimAnswer (.lane n b) c index)).claimTaken n b i).lane n =
      { s.lane n with claim := none, extent := some i } := State.claimTaken_lane _ n b i
  have fresh (i : Nat) : (((s.arrive (.claimAnswer (.lane n b) c index)).claimTaken n b i).bay b).fails = 0 := by
    rw [State.claimTaken_bay]
  refine ⟨(s.arrive (.claimAnswer (.lane n b) c index)).laneAnswer n b c index, rfl, ports, jm, pending, others,
    fun out => ?_, fun out claim => ?_, fun k d i out holder unit claim given => ?_,
    fun k p d i w out holder unit claim given work => ⟨fun sound => ?_, fun z some few damaged sound more inside => ?_⟩,
    fun item d out holder unit claim given => ?_⟩
  · rw [laneAnswer_unawaited (s := s.arrive _) index out]
    exact State.giveBack_spec _ _ _ _ _
  · rw [laneAnswer_unclaimed (s := s.arrive _) index out claim]
    exact State.giveBack_spec _ _ _ _ _
  · subst given
    rw [laneAnswer_granted (s := s.arrive _) out holder unit claim i, claimGranted_clip (s := s.arrive _) holder i]
    exact ⟨taken i, fresh i, rfl, rfl⟩
  · subst given
    rw [laneAnswer_granted (s := s.arrive _) out holder unit claim i,
      claimGranted_sound (s := s.arrive _) holder unit work i sound]
    exact ⟨taken i, fresh i, rfl, rfl⟩
  · subst given
    obtain ⟨z, rfl⟩ := Nat.exists_eq_add_of_le' some
    rw [laneAnswer_granted (s := s.arrive _) out holder unit claim i,
      claimGranted_zeros (s := s.arrive _) holder unit work i few ⟨damaged, sound, more, inside⟩]
    refine ⟨?_, rfl, rfl⟩
    rw [State.bytesTaken_lane, taken, digestFeed_zeros]
  · subst given
    rw [laneAnswer_waits (s := s.arrive _) out holder unit claim]
    have round := State.grants_round ((((s.arrive (.claimAnswer (.lane n b) c none)).send (.burstEndReport item d)).setLane n
      Lane.reset).setBay b { s.bay b with waiting := decide ((s.bay b).offered ≠ some item) })
    obtain ⟨pool, -, -, -, -, -, bays, -⟩ := GrantOnly.of_round round
    have core := bays b
    rw [State.bay_setBay] at core
    obtain ⟨-, -, -, -, -, -, -, -, -, -, -, -, waiting, -⟩ := bayCore_fields core
    exact ⟨round.wire.subset (by simp), pool, fun other => waiting.trans (by simp [other]), round⟩

end Sys2Proof.Machine
end

section
namespace Sys2Proof.Machine

/-! ## CLAIM_ANSWER for a verify engine -/

theorem shareAlone_side (x : Share) (side : Side) : (shareAlone x side).side = side := by
  unfold shareAlone
  split <;> rfl

theorem State.startWrite_engine (s : State) (p : Fin 4) : ((s.startWrite p).port p).engine = (s.port p).engine := by
  unfold State.startWrite
  split
  · rfl
  · split
    · rw [State.port_setPort]
    · rfl

/-- A WAITING engine is given no chunk: the link can only go to the write side (R136, R137). -/
theorem State.runLink_waiting (s : State) (p : Fin 4) (waiting : (s.port p).engine.state = .waiting) :
    ((s.runLink p).port p).engine = (s.port p).engine := by
  have idle : verifyReady (s.port p) = false := by simp [verifyReady, waiting]
  unfold State.runLink
  rw [idle]
  split
  · cases writeReady (s.port p) with
    | false => rfl
    | true =>
      simp only [shareChoice, shareAlone_side]
      rw [State.startWrite_engine, State.port_setPort]
  · rfl

section
variable {s : State} {p : Fin 4} {c : ClaimId}

theorem engineAnswer_unawaited (index : Option Nat) (h : c ∈ (s.port p).unawaited) : s.engineAnswer p c index =
    (s.setPort p { s.port p with unawaited := (s.port p).unawaited.erase c }).giveBack none (.engine p) c index := if_pos h

theorem engineAnswer_unclaimed (index : Option Nat) (h : c ∉ (s.port p).unawaited)
    (claim : (s.port p).engine.claim ≠ some c) : s.engineAnswer p c index = s.giveBack none (.engine p) c index := by
  simp [State.engineAnswer, h, claim]

/-- The engine is told to wait (R136). -/
def engineWaits (x : Port) : Port := { x with engine := { x.engine with claim := none, state := .waiting } }

/-- The engine reads into the extent that its claim was granted, which counts as its chunk (R137, R145; log 26). -/
def engineGranted (x : Port) (i : Nat) : Port :=
  { x with share := shareAlone x.share .verify, engine := { x.engine with claim := none, extent := some i } }

theorem engineAnswer_waits (h : c ∉ (s.port p).unawaited) (claim : (s.port p).engine.claim = some c) :
    s.engineAnswer p c none = (s.setPort p (engineWaits (s.port p))).runLink p := by
  simp [State.engineAnswer, h, claim, engineWaits]

theorem engineAnswer_idle (i : Nat) (h : c ∉ (s.port p).unawaited) (claim : (s.port p).engine.claim = some c)
    (queue : (s.port p).verifyQ = []) : s.engineAnswer p c (some i) = s.setPort p (engineGranted (s.port p) i) := by
  unfold State.engineAnswer
  rw [if_neg h, if_pos claim]
  dsimp only
  split
  · rename_i some
    cases queue.symm.trans some
  · rfl

theorem engineAnswer_reads {e : VerifyEntry} {rest : List VerifyEntry} (i : Nat) (h : c ∉ (s.port p).unawaited)
    (claim : (s.port p).engine.claim = some c) (queue : (s.port p).verifyQ = e :: rest) :
    s.engineAnswer p c (some i) = (s.setPort p (engineGranted (s.port p) i)).nextChunk p e := by
  unfold State.engineAnswer
  rw [if_neg h, if_pos claim]
  dsimp only
  split
  · rename_i head
    cases queue.symm.trans head
    rfl
  · rename_i none
    cases queue.symm.trans none
end

/-- A sibling read that has its extent reads its next chunk (R145). -/
theorem nextChunk_sibling {s : State} {p : Fin 4} {e : VerifyEntry} {a : Area} {rp : Fin 4} {i : Nat}
    (area : (s.port p).area = some a) (sibling : e.repairPort = some rp) (extent : (s.port p).engine.extent = some i) :
    s.nextChunk p e = s.setPort p { s.port p with read := some (dataRead .sibling a e (s.port p).engine.chunk) } := by
  simp [State.nextChunk, area, sibling, extent]

/-- Work on the drive link of a port changes this port alone, and its awaited answers stand (R137). -/
theorem LinkWork.only {p : Fin 4} {s t u : State} (h : LinkWork p t u) (only : OnlyPort p s t) (frame : OnlyPort p t u)
    (unawaited : (t.port p).unawaited = (s.port p).unawaited) :
    OnlyPort p s u ∧ (u.port p).unawaited = (s.port p).unawaited := by
  obtain ⟨bays, arb, pool, jm, lki, pending, others⟩ := only
  obtain ⟨bays', arb', pool', jm', lki', pending', others'⟩ := frame
  have kept := congrArg Port.unawaited h.1
  exact ⟨⟨bays'.trans bays, arb'.trans arb, pool'.trans pool, jm'.trans jm, lki'.trans lki, pending'.trans pending,
    fun q other => (others' q other).trans (others q other)⟩, kept.trans unawaited⟩

theorem engineAnswer_only {s : State} {p : Fin 4} {c : ClaimId} (index : Option Nat) (h : c ∉ (s.port p).unawaited)
    (claim : (s.port p).engine.claim = some c) : OnlyPort p s (s.engineAnswer p c index) ∧
      ((s.engineAnswer p c index).port p).unawaited = (s.port p).unawaited := by
  have only (x : Port) : OnlyPort p s (s.setPort p x) :=
    ⟨rfl, rfl, rfl, rfl, rfl, rfl, fun q other => State.port_setPort_ne s p q x other⟩
  have kept {x : Port} (h : x.unawaited = (s.port p).unawaited) : ((s.setPort p x).port p).unawaited =
      (s.port p).unawaited := by rw [State.port_setPort, h]
  cases index with
  | none =>
    rw [engineAnswer_waits h claim]
    exact (LinkWork.runLink p _).only (only _) (by simp +contextual [OnlyPort]) (kept rfl)
  | some i =>
    cases queue : (s.port p).verifyQ with
    | nil =>
      rw [engineAnswer_idle i h claim queue]
      exact ⟨only _, kept rfl⟩
    | cons e rest =>
      rw [engineAnswer_reads i h claim queue]
      exact (LinkWork.nextChunk p _ e).only (only _) (by simp +contextual [OnlyPort]) (kept rfl)

theorem engineClaimAnswer_spec (p : Fin 4) (c : ClaimId) (index : Option Nat) (s : State) : ∃ t,
    exec (.claimAnswer (.engine p) c index) s = .next t ∧
    (c ∈ (s.port p).unawaited →
      GivenBack ((s.arrive (.claimAnswer (.engine p) c index)).setPort p
        { s.port p with unawaited := (s.port p).unawaited.erase c }) t none (.engine p) c index) ∧
    (c ∉ (s.port p).unawaited → (s.port p).engine.claim = some c → OnlyPort p s t ∧
      (t.port p).unawaited = (s.port p).unawaited) ∧
    (c ∉ (s.port p).unawaited → (s.port p).engine.claim ≠ some c →
      GivenBack (s.arrive (.claimAnswer (.engine p) c index)) t none (.engine p) c index) ∧
    (∀ i e rest a rp, c ∉ (s.port p).unawaited → (s.port p).engine.claim = some c → index = some i → (s.port p).verifyQ = e :: rest →
      (s.port p).area = some a → e.repairPort = some rp →
      (t.port p).engine.claim = none ∧ (t.port p).engine.extent = some i ∧
        (t.port p).read = some ⟨.sibling, e.runStart + (s.port p).engine.chunk * (4194304 / a.blockSize),
          ceilDiv (extentLength e.length (s.port p).engine.chunk) a.blockSize, false⟩ ∧
        (t.port p).share = shareAlone (s.port p).share .verify) ∧
    (c ∉ (s.port p).unawaited → (s.port p).engine.claim = some c → index = none → (t.port p).engine =
      { (s.port p).engine with claim := none, state := .waiting }) := by
  refine ⟨(s.arrive (.claimAnswer (.engine p) c index)).engineAnswer p c index, rfl, fun out => ?_, fun out claim => ?_,
    fun out claim => ?_, fun i e rest a rp out claim given queue area sibling => ?_, fun out claim given => ?_⟩
  · rw [engineAnswer_unawaited (s := s.arrive _) index out]
    exact State.giveBack_spec _ _ _ _ _
  · exact engineAnswer_only (s := s.arrive _) index out claim
  · rw [engineAnswer_unclaimed (s := s.arrive _) index out claim]
    exact State.giveBack_spec _ _ _ _ _
  · subst given
    rw [engineAnswer_reads (s := s.arrive _) i out claim queue, nextChunk_sibling (a := a) (i := i) (by rw [State.port_setPort]; exact area) sibling
      (by rw [State.port_setPort]; rfl), State.port_setPort, State.port_setPort]
    exact ⟨rfl, rfl, rfl, rfl⟩
  · subst given
    rw [engineAnswer_waits (s := s.arrive _) out claim, State.runLink_waiting _ _ (by rw [State.port_setPort]; rfl),
      State.port_setPort]
    rfl

/-! ## Discards that are due -/

theorem discards_iff {c : ClaimId} {m : Instr} : discards c m = true ↔ m = .clipDiscard c.clip ∨
    ∃ p, c.purpose = .repair ∧ c.repairPort = some p ∧ m = .repairDiscard c.clip p := by
  unfold discards
  split
  · simp only [ofClip, beq_iff_eq, Instr.clipDiscard.injEq, reduceCtorEq, and_false, exists_false, or_false]
    exact eq_comm
  · simp only [ofRepair, Bool.and_eq_true, beq_iff_eq, decide_eq_true_eq]
    constructor
    · rintro ⟨⟨clip, repair⟩, port⟩
      exact .inr ⟨_, repair, port, by rw [clip]⟩
    · rintro (other | ⟨p, repair, port, same⟩)
      · cases other
      · cases same
        exact ⟨⟨rfl, repair⟩, port⟩
  · rename_i noClip noRepair
    constructor
    · intro other
      cases other
    · rintro (same | ⟨p, -, -, same⟩)
      · exact absurd same (noClip _)
      · exact absurd same (noRepair _ _)

theorem discarded_iff {c : ClaimId} {ms : List Instr} : ms.any (discards c) = true ↔ Instr.clipDiscard c.clip ∈ ms ∨
    ∃ p, c.purpose = .repair ∧ c.repairPort = some p ∧ Instr.repairDiscard c.clip p ∈ ms := by
  rw [List.any_eq_true]
  constructor
  · rintro ⟨m, member, hits⟩
    rcases discards_iff.1 hits with rfl | ⟨p, repair, port, rfl⟩
    · exact .inl member
    · exact .inr ⟨p, repair, port, member⟩
  · rintro (member | ⟨p, repair, port, member⟩)
    · exact ⟨_, member, discards_iff.2 (.inl rfl)⟩
    · exact ⟨_, member, discards_iff.2 (.inr ⟨p, repair, port, rfl⟩)⟩

theorem reportsLoss_lane {c : ClaimId} {n : Fin 4} {b : Fin 8} {m : Instr} : reportsLoss c (.lane n b) m = true ↔
    m = .cardLostReport b ∨ (c.repairPort = none ∧ m = .mediaFailure c.clip) ∨
      ∃ p, c.repairPort = some p ∧ m = .repairSourceFailure c.clip p := by
  cases m with
  | cardLostReport a => simp [reportsLoss]
  | mediaFailure clip => simp [reportsLoss, and_comm]
  | repairSourceFailure clip p => simp [reportsLoss, and_comm]
  | _ => simp [reportsLoss]

theorem reportsLoss_engine {c : ClaimId} {q : Fin 4} {m : Instr} : reportsLoss c (.engine q) m = true ↔
    m = .driveLossReport q ∨ m = .portFaultReport q := by
  cases m with
  | driveLossReport p => simp [reportsLoss]
  | portFaultReport p => simp [reportsLoss]
  | _ => simp [reportsLoss]

theorem lossReported_lane {c : ClaimId} {n : Fin 4} {b : Fin 8} {ms : List Instr} :
    ms.any (reportsLoss c (.lane n b)) = true ↔ Instr.cardLostReport b ∈ ms ∨
      (c.repairPort = none ∧ Instr.mediaFailure c.clip ∈ ms) ∨
      ∃ p, c.repairPort = some p ∧ Instr.repairSourceFailure c.clip p ∈ ms := by
  simp only [List.any_eq_true, reportsLoss_lane]
  constructor
  · rintro ⟨m, member, rfl | ⟨none, rfl⟩ | ⟨p, port, rfl⟩⟩
    · exact .inl member
    · exact .inr (.inl ⟨none, member⟩)
    · exact .inr (.inr ⟨p, port, member⟩)
  · rintro (member | ⟨none, member⟩ | ⟨p, port, member⟩)
    · exact ⟨_, member, .inl rfl⟩
    · exact ⟨_, member, .inr (.inl ⟨none, rfl⟩)⟩
    · exact ⟨_, member, .inr (.inr ⟨p, port, rfl⟩)⟩

theorem lossReported_engine {c : ClaimId} {q : Fin 4} {ms : List Instr} : ms.any (reportsLoss c (.engine q)) = true ↔
    Instr.driveLossReport q ∈ ms ∨ Instr.portFaultReport q ∈ ms := by
  simp only [List.any_eq_true, reportsLoss_engine]
  constructor
  · rintro ⟨m, member, rfl | rfl⟩
    · exact .inl member
    · exact .inr member
  · rintro (member | member)
    · exact ⟨_, member, .inl rfl⟩
    · exact ⟨_, member, .inr rfl⟩

theorem readingClip_iff {s : State} {i : Nat} : (s.readingClip i).isSome = true ↔ ∃ x, s.clip? i = some x ∧ x.state = .reading := by
  unfold State.readingClip
  cases s.clip? i with
  | none => simp
  | some x => simp [Option.filter]

/-- A copy of a clip that has not ended is under a repair from the source that is asked for. -/
theorem liveCopy_any {s : State} {i : Nat} {p : Fin 4} {f : Copy → Bool} : (s.liveCopy i p).any (fun x => f x.2) = true ↔
    ∃ x, s.clip? i = some x ∧ clipTerminal x = false ∧ ∃ k, copyOn x p = some k ∧ f k = true := by
  unfold State.liveCopy State.liveClip
  cases s.clip? i with
  | none => simp
  | some x =>
    cases terminal : clipTerminal x with
    | true => simp [Option.filter, terminal]
    | false =>
      simp only [Option.filter_some, terminal, Bool.not_false, if_true, Option.bind_some, Option.any_map,
        Option.some.injEq, exists_eq_left', true_and, Option.any_eq_true_iff_get]
      cases copyOn x p <;> simp

theorem readsCard_iff {k : Copy} : readsCard k = true ↔ k.state = .repairing ∧
    ∃ y, k.repair = some y ∧ y.source = .card ∧ y.reading = true := by
  unfold readsCard
  cases k.repair <;> simp

theorem readsFrom_iff {q : Fin 4} {k : Copy} : readsFrom q k = true ↔ k.state = .repairing ∧
    ∃ y, k.repair = some y ∧ y.source = .port q := by
  unfold readsFrom
  cases k.repair <;> simp

/-- A discard is due for a lane's claim: it is on its way, or the report of the end of a read that the job manager holds. -/
theorem discardDue_lane {s : State} {n : Fin 4} {b : Fin 8} {c : ClaimId} :
    (s.inTime.any (reportsLoss c (.lane n b)) = true ∧ s.readStands (.lane n b) c = true) ↔
    ∃ x, s.clip? c.clip = some x ∧
      (((Instr.cardLostReport b ∈ s.inTime ∨ Instr.mediaFailure c.clip ∈ s.inTime) ∧ c.repairPort = none ∧
          x.state = .reading) ∨
        (clipTerminal x = false ∧ ∃ p k, c.repairPort = some p ∧ copyOn x p = some k ∧ k.state = .repairing ∧
          ∃ y, k.repair = some y ∧ (Instr.cardLostReport b ∈ s.inTime ∨ Instr.repairSourceFailure c.clip p ∈ s.inTime) ∧
            y.source = .card ∧ y.reading = true)) := by
  rw [lossReported_lane]
  unfold State.readStands
  cases port : c.repairPort with
  | none =>
    simp only [true_and, reduceCtorEq, false_and, exists_const, or_false, readingClip_iff, exists_false, and_false]
    constructor
    · rintro ⟨loss, x, clip, reading⟩
      exact ⟨x, clip, loss, reading⟩
    · rintro ⟨x, clip, loss, reading⟩
      exact ⟨loss, x, clip, reading⟩
  | some p =>
    simp only [reduceCtorEq, false_and, Option.some.injEq, exists_eq_left', false_or, liveCopy_any, readsCard_iff,
      and_false, exists_and_left]
    constructor
    · rintro ⟨loss, x, clip, live, k, copy, repairing, y, repair, reading⟩
      exact ⟨x, clip, live, k, copy, repairing, y, repair, loss, reading⟩
    · rintro ⟨x, clip, live, k, copy, repairing, y, repair, loss, reading⟩
      exact ⟨loss, x, clip, live, k, copy, repairing, y, repair, reading⟩

theorem discardDue_engine {s : State} {q : Fin 4} {c : ClaimId} :
    (s.inTime.any (reportsLoss c (.engine q)) = true ∧ s.readStands (.engine q) c = true) ↔
    ∃ x, s.clip? c.clip = some x ∧ clipTerminal x = false ∧ ∃ p k, c.repairPort = some p ∧ copyOn x p = some k ∧
      k.state = .repairing ∧ ∃ y, k.repair = some y ∧
        (Instr.driveLossReport q ∈ s.inTime ∨ Instr.portFaultReport q ∈ s.inTime) ∧ y.source = .port q := by
  rw [lossReported_engine]
  unfold State.readStands
  cases port : c.repairPort with
  | none => simp
  | some p =>
    simp only [liveCopy_any, readsFrom_iff, Option.some.injEq, exists_and_left, exists_eq_left']
    constructor
    · rintro ⟨loss, x, clip, live, k, copy, repairing, y, repair, source⟩
      exact ⟨x, clip, live, k, copy, repairing, y, repair, loss, source⟩
    · rintro ⟨x, clip, live, k, copy, repairing, y, repair, loss, source⟩
      exact ⟨loss, x, clip, live, k, copy, repairing, y, repair, source⟩

theorem discardDue_iff (s : State) (r : Requester) (c : ClaimId) : s.discardDue r c = true ↔
    Instr.clipDiscard c.clip ∈ s.wire ∨
    (∃ p, c.purpose = .repair ∧ c.repairPort = some p ∧ Instr.repairDiscard c.clip p ∈ s.wire) ∨
    ∃ x, s.clip? c.clip = some x ∧
      ((∃ n b, r = .lane n b ∧ (Instr.cardLostReport b ∈ s.inTime ∨ Instr.mediaFailure c.clip ∈ s.inTime) ∧
          c.repairPort = none ∧ x.state = .reading) ∨
        (clipTerminal x = false ∧ ∃ p k, c.repairPort = some p ∧ copyOn x p = some k ∧ k.state = .repairing ∧
          ∃ y, k.repair = some y ∧
            ((∃ n b, r = .lane n b ∧
                (Instr.cardLostReport b ∈ s.inTime ∨ Instr.repairSourceFailure c.clip p ∈ s.inTime) ∧
                y.source = .card ∧ y.reading = true) ∨
            ∃ q, r = .engine q ∧ (Instr.driveLossReport q ∈ s.inTime ∨ Instr.portFaultReport q ∈ s.inTime) ∧
              y.source = .port q))) := by
  rw [State.discardDue, Bool.or_eq_true, Bool.and_eq_true, discarded_iff, or_assoc]
  refine or_congr_right (or_congr_right ?_)
  cases r with
  | lane n b => simpa using discardDue_lane (n := n) (b := b)
  | engine q => simpa using discardDue_engine (q := q)

/-! ## Extents that are still as they were given -/

theorem givesExtent_iff {c : ClaimId} {i : Nat} {m : Instr} : givesExtent c i m = true ↔
    (∃ r, m = .claimAnswer r c (some i)) ∨ ∃ p, m = .siblingOffer p i c := by
  unfold givesExtent
  split
  · simp
  · simp [and_comm]
  · rename_i noAnswer noOffer
    constructor
    · intro other
      cases other
    · rintro (⟨r, same⟩ | ⟨p, same⟩)
      · exact absurd same (noAnswer _ _ _)
      · exact absurd same (noOffer _ _ _)

theorem givesExtent_none {c : ClaimId} {i : Nat} {ms : List Instr} : ms.any (givesExtent c i) = false ↔
    (∀ r, Instr.claimAnswer r c (some i) ∉ ms) ∧ ∀ p, Instr.siblingOffer p i c ∉ ms := by
  rw [List.any_eq_false]
  constructor
  · intro none
    exact ⟨fun r member => none _ member (givesExtent_iff.2 (.inl ⟨r, rfl⟩)),
      fun p member => none _ member (givesExtent_iff.2 (.inr ⟨p, rfl⟩))⟩
  · rintro ⟨noAnswer, noOffer⟩ m member gives
    rcases givesExtent_iff.1 gives with ⟨r, rfl⟩ | ⟨p, rfl⟩
    · exact noAnswer r member
    · exact noOffer p member

theorem laneHolds_eq_false {c : ClaimId} {i : Nat} {l : Lane} : laneHolds c i l = false ↔
    (∀ a, l.ack = some a → a.index = i → a.claim ≠ c) ∧
      ∀ b item d, l.holder = some (.work b item) → l.unit = some d → l.extent = some i → claimOf item d.count ≠ c := by
  unfold laneHolds
  rw [Bool.or_eq_false_iff]
  refine and_congr ?_ ?_
  · cases l.ack <;> simp
  · split
    · rename_i b item d holder unit
      simp only [holder, unit, Option.some.injEq, Holder.work.injEq, Bool.and_eq_false_imp, decide_eq_true_eq,
        decide_eq_false_iff_not]
      exact ⟨fun h b' item' d' ⟨_, same⟩ same' extent => same ▸ same' ▸ h extent, fun h extent => h b item d ⟨rfl, rfl⟩ rfl extent⟩
    · rename_i other
      exact ⟨fun _ b item d holder unit => absurd unit (other b item d holder), fun _ => rfl⟩

theorem engineHolds_eq_false {c : ClaimId} {i : Nat} {x : Port} : engineHolds c i x = false ↔
    ∀ e rest rp, x.verifyQ = e :: rest → e.repairPort = some rp → x.engine.extent = some i →
      c ≠ ⟨e.clip, .repair, some rp, x.engine.chunk⟩ := by
  unfold engineHolds headClaims
  rw [Bool.and_eq_false_imp, decide_eq_true_eq]
  cases x.verifyQ with
  | nil => simp
  | cons e rest =>
    simp only [List.head?_cons, Option.any_some, decide_eq_false_iff_not, Option.map_eq_some_iff, List.cons.injEq]
    constructor
    · rintro none f more rp ⟨rfl, rfl⟩ sibling extent same
      exact none extent ⟨rp, sibling, same.symm⟩
    · rintro none extent ⟨rp, sibling, same⟩
      exact none e rest rp ⟨rfl, rfl⟩ sibling extent same.symm

theorem stillGiven_iff (s : State) (aside : Option SetAside) (c : ClaimId) (i : Nat) : s.stillGiven aside c i = true ↔
    (∃ e, extentAt s.pool i = some e ∧ e.state = .filling ∧ e.claim = c ∧ e.aside = aside) ∧
    (∀ r, Instr.claimAnswer r c (some i) ∉ s.wire) ∧ (∀ p, Instr.siblingOffer p i c ∉ s.wire) ∧
    ∀ n, (∀ a, (s.lane n).ack = some a → a.index = i → a.claim ≠ c) ∧
      (∀ b item d, (s.lane n).holder = some (.work b item) → (s.lane n).unit = some d → (s.lane n).extent = some i →
        claimOf item d.count ≠ c) ∧
      ∀ e rest rp, (s.port n).verifyQ = e :: rest → e.repairPort = some rp → (s.port n).engine.extent = some i →
        c ≠ ⟨e.clip, .repair, some rp, (s.port n).engine.chunk⟩ := by
  have entry : (extentAt s.pool i).any (fun e => decide (e.state = .filling) && decide (e.claim = c) &&
      decide (e.aside = aside)) = true ↔
      ∃ e, extentAt s.pool i = some e ∧ e.state = .filling ∧ e.claim = c ∧ e.aside = aside := by
    cases extentAt s.pool i <;> simp [and_assoc]
  have hands (n : Fin 4) : (!laneHolds c i (s.lane n) && !engineHolds c i (s.port n)) = true ↔ _ :=
    Bool.and_eq_true_iff.trans (and_congr ((Bool.not_eq_true' _).to_iff.trans laneHolds_eq_false)
      ((Bool.not_eq_true' _).to_iff.trans engineHolds_eq_false))
  rw [State.stillGiven, Bool.and_eq_true, Bool.and_eq_true, entry, Bool.not_eq_true', givesExtent_none, List.all_eq_true]
  simp only [hands, List.mem_finRange, true_implies, and_assoc]

/-- Settles O34: each answer by who awaits it, and the two tests of what is given back read off their definitions. -/
theorem acksAndClaimAnswers : Obligations.AcksAndClaimAnswers :=
  ⟨readCompletionAck_spec, laneClaimAnswer_spec, engineClaimAnswer_spec, State.inTime_count, discardDue_iff, stillGiven_iff⟩

end Sys2Proof.Machine
end

section
namespace Sys2Proof.Machine

/-! ## Failed attempts of a bay's work -/

/-- The read work found for an item is that item's. -/
theorem bayWork_item {x : Bay} {item : WorkItem} {w : ReadWork} (h : bayWork x item = some w) : w.item = item := by
  unfold bayWork at h
  split at h
  · rename_i v found
    cases h
    simpa using List.find?_some found
  · split at h
    · split at h
      · rename_i named
        cases h
        exact named
      · cases h
    · cases h

theorem State.setLane_lane (s : State) (n : Fin 4) : s.setLane n (s.lane n) = s := by
  simp [State.setLane, State.lane]

/-- The end of a turn that has been set is forgotten with the rest of a lane that is returned. -/
theorem laneBack_endTurn (s : State) (n : Fin 4) (e : Bool) :
    laneBack (s.setLane n { s.lane n with endTurn := e }) n = laneBack s n := by
  unfold laneBack
  rw [State.lane_setLane]
  simp [State.setLane, Vector.set_set]

/-! ## The eighth failed attempt -/

theorem State.eighthFailed_lane (s : State) (b : Fin 8) (m : Fin 4) : (eighthFailed s b).lane m = s.lane m := by
  unfold Machine.eighthFailed
  split <;> rfl

/-- An attempt that is judged leaves the bay's read work and its count of replaced blocks (R60, R61). -/
theorem State.eighthFailed_work (s : State) (b : Fin 8) :
    ((eighthFailed s b).bay b).uncorrectable = (s.bay b).uncorrectable ∧
      bayWork ((eighthFailed s b).bay b) = bayWork (s.bay b) := by
  unfold Machine.eighthFailed
  split
  · rw [State.bay_setBay]
    exact ⟨rfl, rfl⟩
  · rw [State.carefulEntered_bay]
    exact ⟨rfl, rfl⟩

/-- The state in which an eighth failed attempt is judged, where the lane of the attempt is the only one held for the bay (R53,
R60, R66). -/
theorem eighthJudged_work {s : State} {n : Fin 4} {b : Fin 8} {item : WorkItem}
    (holder : (s.lane n).holder = some (.work b item)) (sure : (s.bay b).health.mode = .careful ∨ OnlyLane s n b) :
    s.eighthJudged b = (eighthFailed s b).setLane n
      { s.lane n with endTurn := (s.lane n).endTurn || decide ((s.bay b).health.mode = .normal) } := by
  have lane := State.eighthFailed_lane s b n
  unfold State.eighthJudged
  cases mode : (s.bay b).health.mode with
  | careful => simpa using (lane ▸ (eighthFailed s b).setLane_lane n).symm
  | normal =>
    have only : OnlyLane (eighthFailed s b) n b := (sure.resolve_left (by rw [mode]; decide)).eighthFailed
    have shortened := (State.shortenTurn_cases _ b n only).1 item (lane ▸ holder)
    rw [lane] at shortened
    simpa using shortened

/-- What the lane of a judged attempt reads stands. -/
theorem BayJudged.laneGiven {b : Fin 8} {s t : State} (h : BayJudged b s t) (n : Fin 4) :
    laneGiven n (t.lane n) = laneGiven n (s.lane n) := by
  obtain ⟨-, -, -, -, -, -, lanes⟩ := h
  obtain ⟨e, lane⟩ := lanes n
  rw [lane]
  rfl

theorem laneGiven_reads {n : Fin 4} {b : Fin 8} {item : WorkItem} {i : Nat} {d : DigestState} {l : Lane}
    (holder : l.holder = some (.work b item)) (extent : l.extent = some i) (unit : l.unit = some d) :
    laneGiven n l = [⟨.lane n b, none, claimOf item d.count, some i⟩] := by
  simp [laneGiven, holder, extent, unit]

/-! ## Reads that end without their completion -/

/-- The read of a work item has ended without its completion: it leaves the bay's read work, the report is sent, and the lane is
returned (R55, R61, R62). -/
def State.readStops (s : State) (n : Fin 4) (b : Fin 8) (item : WorkItem) (report : Instr) : State :=
  ((s.loseWork b item).send report).returnLane n

/-- A read has ended without its completion, and what its lane filled is given back (log 18). -/
def State.readLost (s : State) (n : Fin 4) (b : Fin 8) (item : WorkItem) (report : Instr) : State :=
  (s.readStops n b item report).giveBackAll (laneGiven n (s.lane n))

theorem State.readStops_round (s : State) (n : Fin 4) (b : Fin 8) (item : WorkItem) (report : Instr) :
    GrantRound (laneBack ((s.setBay b (withoutItem (s.bay b) item)).send report) n) (s.readStops n b item report) := by
  rw [← withoutItem_eq]
  exact State.returnLane_round _ n

/-- What the end of a read leaves but for what the lane gives up of the pool. -/
theorem State.readStops_frame (s : State) (n : Fin 4) (b : Fin 8) (item : WorkItem) (report : Instr) (u : State)
    (stops : u = s.readStops n b item report) :
    u.pool = s.pool ∧ u.ports = s.ports ∧ u.jm = s.jm ∧ u.pending = s.pending ∧ s.wire ++ [report] <+: u.wire ∧
      (∀ a, a ≠ b → bayCore (u.bay a) = bayCore (s.bay a)) ∧
      bayCore (u.bay b) = bayCore (withoutItem (s.bay b) item) ∧ (u.lane n).extent = none := by
  subst stops
  have round := s.readStops_round n b item report
  obtain ⟨pool, ports, jm, pending, -, -, bays, -⟩ := GrantOnly.of_round round
  refine ⟨pool, ports, jm, pending, round.wire, fun a other => (bays a).trans (congrArg bayCore ?_),
    (bays b).trans (congrArg bayCore ?_), State.returnLane_extent _ n⟩
  · exact State.bay_setBay_ne s b a _ other
  · exact State.bay_setBay s b _

theorem State.readLost_giving (s : State) (n : Fin 4) (b : Fin 8) (item : WorkItem) (report : Instr) :
    Giving (laneGiven n (s.lane n)) (fun u => u = s.readStops n b item report) (s.readLost n b item report) :=
  State.giveBackAll_giving _ _ _ rfl

/-- What the end of a read leaves, the lane having given up what it had of the pool. -/
theorem State.readLost_frame (s : State) (n : Fin 4) (b : Fin 8) (item : WorkItem) (report : Instr) (t : State)
    (lost : t = s.readLost n b item report) :
    t.ports = s.ports ∧ t.jm = s.jm ∧ t.pending = s.pending ∧ s.wire ++ [report] <+: t.wire ∧
      (∀ a, a ≠ b → bayCore (t.bay a) = bayCore (s.bay a)) ∧
      bayCore (t.bay b) = bayCore (withoutItem (s.bay b) item) ∧ (t.lane n).extent = none := by
  subst lost
  obtain ⟨-, ports, jm, pending, wire, others, bay, extent⟩ := s.readStops_frame n b item report _ rfl
  obtain ⟨bays', arb', ports', jm', -, -, pending', -⟩ :=
    (s.readStops n b item report).giveBackAll_frame (laneGiven n (s.lane n))
  refine ⟨ports'.trans ports, jm'.trans jm, pending'.trans pending, wire.trans (State.wire_prefix_giveBackAll _ _),
    fun a other => ?_, ?_, ?_⟩
  · exact (congrArg bayCore (State.bay_of_bays bays' a)).trans (others a other)
  · exact (congrArg bayCore (State.bay_of_bays bays' b)).trans bay
  · exact (congrArg Lane.extent (State.lane_of_arb arb' n)).trans extent

/-- An eighth failed attempt has ended the read of an item, the bay having the record `x` (R61, R62). -/
theorem ReadLost.of_stops {s : State} {n : Fin 4} {b : Fin 8} {item : WorkItem}
    (holder : (s.lane n).holder = some (.work b item)) (report : Instr) (x : Bay) :
    ReadLost s (((s.eighthJudged b).setBay b x).readStops n b item report) n b item report x := by
  intro sure
  have turn : laneBack (((s.eighthJudged b).setBay b (withoutItem x item)).send report) n =
      laneBack (((eighthFailed s b).setBay b (withoutItem x item)).send report) n := by
    rw [eighthJudged_work holder sure, ← State.eighthFailed_lane s b n]
    exact laneBack_endTurn (((eighthFailed s b).setBay b (withoutItem x item)).send report) n _
  have round := ((s.eighthJudged b).setBay b x).readStops_round n b item report
  rw [State.bay_setBay, State.setBay_setBay, turn] at round
  exact round

/-! ## Uncorrectable blocks -/

theorem State.workUncorrectable_repair {s : State} {n : Fin 4} {b : Fin 8} {w : ReadWork} {c : Nat} {p : Fin 4}
    (item : w.item = .repair c p) (count : Nat) :
    s.workUncorrectable n b w count = s.readLost n b (.repair c p) (.repairSourceFailure c p) := by
  rw [State.workUncorrectable, item]
  rfl

theorem State.setBay_bay (s : State) (b : Fin 8) : s.setBay b (s.bay b) = s := by
  simp [State.setBay, State.bay]

/-- The count of the uncorrectable blocks of a bay's clip read goes on by one under SALVAGE (R61). -/
def countsBlock (x : Bay) (policy : DamagePolicy) : Bay :=
  { x with uncorrectable := x.uncorrectable + if policy = .salvage then 1 else 0 }

theorem State.workUncorrectable_ends {s : State} {n : Fin 4} {b : Fin 8} {w : ReadWork} {c : Nat} (item : w.item = .clip c)
    (ends : w.policy = .abort ∨ 16 < (s.bay b).uncorrectable + 1) (count : Nat) : s.workUncorrectable n b w count =
      (s.setBay b (countsBlock (s.bay b) w.policy)).readLost n b (.clip c) (.mediaFailure c) := by
  rw [State.workUncorrectable, item]
  dsimp only
  unfold State.clipUncorrectable
  cases policy : w.policy with
  | abort =>
    have same : s.setBay b (countsBlock (s.bay b) .abort) = s := State.setBay_bay s b
    rw [same]
    rfl
  | salvage =>
    have many : Config.maxDamage < (s.bay b).uncorrectable + 1 := ends.resolve_left (by rw [policy]; decide)
    dsimp only
    rw [if_pos many]
    rfl

/-- A block of a clip read has been counted as uncorrectable and its substitution reported (R61). -/
def State.blockSubstituted (s : State) (b : Fin 8) (c block : Nat) : State :=
  (s.setBay b { s.bay b with uncorrectable := (s.bay b).uncorrectable + 1 }).send (.blockSubstitution c block)

theorem State.blockSubstituted_bay (s : State) (b : Fin 8) (c block : Nat) :
    (s.blockSubstituted b c block).bay b = { s.bay b with uncorrectable := (s.bay b).uncorrectable + 1 } :=
  State.bay_setBay s b _

theorem State.blockSubstituted_wire (s : State) (b : Fin 8) (c block : Nat) :
    (s.blockSubstituted b c block).wire = s.wire ++ [.blockSubstitution c block] := rfl

theorem salvage_of_not_abort {policy : DamagePolicy} (h : policy ≠ .abort) : policy = .salvage := by
  cases policy with
  | abort => exact absurd rfl h
  | salvage => rfl

theorem State.workUncorrectable_substitutes {s : State} {n : Fin 4} {b : Fin 8} {w : ReadWork} {c : Nat}
    (item : w.item = .clip c) (policy : w.policy = .salvage) (few : (s.bay b).uncorrectable + 1 ≤ 16) (count : Nat) :
    s.workUncorrectable n b w count = (s.blockSubstituted b c (blockAt w.runs (count / 512))).takeBlock n zeroBlock := by
  have enough : ¬ Config.maxDamage < (s.bay b).uncorrectable + 1 := Nat.not_lt_of_le few
  rw [State.workUncorrectable, item]
  dsimp only
  rw [State.clipUncorrectable, policy]
  dsimp only
  rw [if_neg enough]
  rfl

end Sys2Proof.Machine
end

section
namespace Sys2Proof.Machine

/-! ## A lane that reads a work item -/

/-- The lane `n` fills the extent `i` for a work item that its bay has, `d` being its digest unit (R54). -/
structure ReadsItem (s : State) (n : Fin 4) (b : Fin 8) (item : WorkItem) (i : Nat) (d : DigestState) (w : ReadWork) : Prop where
  holder : (s.lane n).holder = some (.work b item)
  extent : (s.lane n).extent = some i
  unit : (s.lane n).unit = some d
  work : bayWork (s.bay b) item = some w

section
variable {s t : State} {n : Fin 4} {b : Fin 8} {item : WorkItem} {i : Nat} {d : DigestState} {w : ReadWork}

theorem BayJudged.reads (h : BayJudged b s t) (stands : bayWork (t.bay b) = bayWork (s.bay b))
    (r : ReadsItem s n b item i d w) : ReadsItem t n b item i d w := by
  obtain ⟨-, -, -, -, -, -, lanes⟩ := h
  obtain ⟨e, lane⟩ := lanes n
  exact ⟨lane ▸ r.holder, lane ▸ r.extent, lane ▸ r.unit, stands ▸ r.work⟩

theorem ReadsItem.eighthJudged (r : ReadsItem s n b item i d w) : ReadsItem (s.eighthJudged b) n b item i d w := by
  obtain ⟨-, stands⟩ := s.eighthFailed_work b
  exact (BayJudged.eighthJudged s b).reads (by rw [State.eighthJudged_bay]; exact stands) r

theorem ReadsItem.given (r : ReadsItem s n b item i d w) :
    laneGiven n (s.lane n) = [⟨.lane n b, none, claimOf item d.count, some i⟩] :=
  laneGiven_reads r.holder r.extent r.unit

/-- A lane whose next block is not on the damage list of a repair stands at no damaged block (R62). -/
theorem ReadsItem.atDamaged (r : ReadsItem s n b item i d w)
    (sound : ∀ c p, item = .repair c p → blockAt w.runs (d.count / 512) ∉ w.damage) : s.atDamaged n = false := by
  cases item with
  | clip c => exact State.atDamaged_clip s n b c r.holder
  | repair c p =>
    exact Bool.eq_false_of_not_eq_true fun here =>
      sound c p rfl ((State.atDamaged_iff r.holder r.extent r.unit r.work).1 here)

/-! ## Substituted blocks -/

theorem zeroBlock_take (k : Nat) : zeroBlock.take (min 512 k) = List.replicate (min 512 k) 0#8 := by
  rw [zeroBlock, List.take_replicate]
  exact congrArg (List.replicate · 0#8) (Nat.min_eq_left (Nat.min_le_left 512 k))

/-- The zeros of a substituted block are taken as its data would have been (R61). -/
theorem ReadsItem.substitutes (r : ReadsItem s n b item i d w) (c block : Nat) : BlockTaken (s.blockSubstituted b c block)
    ((s.blockSubstituted b c block).takeBlock n zeroBlock) n b item i d w.length
    (List.replicate (min 512 (w.length - d.count)) 0#8) := by
  have work : bayWork ((s.blockSubstituted b c block).bay b) item = some w := by
    rw [State.blockSubstituted_bay]
    exact r.work
  rw [← zeroBlock_take]
  exact State.takeBlock_taken _ n b item i d w zeroBlock r.holder r.extent r.unit work

/-- The taking of a block leaves the bay's record, but for the attempts counted and for an item whose read it ends. -/
theorem BlockTaken.core {length : Nat} {bytes : List Byte} (h : BlockTaken s t n b item i d length bytes) :
    bayCore (t.bay b) = bayCore (s.bay b) ∨ bayCore (t.bay b) = bayCore (withoutItem (s.bay b) item) := by
  obtain ⟨middle, last, full⟩ := h _ _ _ _ _ rfl rfl rfl rfl rfl
  have fresh (pool : Pool) : bayCore ((({ s with pool := pool } : State).setBay b { s.bay b with fails := 0 }).bay b) =
      bayCore (s.bay b) := by rw [State.bay_setBay]; rfl
  rcases Nat.lt_or_ge (d.count + bytes.length) length with more | done
  · refine .inl ?_
    by_cases boundary : (d.count + bytes.length) % 4194304 = 0
    · obtain ⟨turnEnds, claimsNext⟩ := full more boundary
      by_cases turn : (s.lane n).burst ≤ (s.lane n).filled + 1 ∨ (s.lane n).endTurn = true
      · obtain ⟨-, -, -, -, -, -, bays, -⟩ := GrantOnly.of_round (turnEnds turn)
        exact (bays b).trans (fresh _)
      · rw [not_or] at turn
        rw [claimsNext (Nat.lt_of_not_le turn.1) (Bool.eq_false_of_not_eq_true turn.2)]
        exact fresh _
    · rw [middle more boundary]
      exact fresh _
  · right
    rw [last done, State.setLane_bay, State.bay_setBay]
    cases item <;> rfl

theorem withoutItem_record (x : Bay) (item : WorkItem) : (withoutItem x item).health = x.health ∧
    (withoutItem x item).lamp = x.lamp ∧ (withoutItem x item).uncorrectable = x.uncorrectable := by
  cases item <;> exact ⟨rfl, rfl, rfl⟩

theorem BlockTaken.record {length : Nat} {bytes : List Byte} (h : BlockTaken s t n b item i d length bytes) :
    (t.bay b).health = (s.bay b).health ∧ (t.bay b).lamp = (s.bay b).lamp ∧
      (t.bay b).uncorrectable = (s.bay b).uncorrectable := by
  rcases h.core with core | core <;> obtain ⟨-, -, -, -, -, -, -, -, lamp, health, -, -, -, uncorrectable⟩ := bayCore_fields core
  · exact ⟨health, lamp, uncorrectable⟩
  · obtain ⟨health', lamp', uncorrectable'⟩ := withoutItem_record (s.bay b) item
    exact ⟨health.trans health', lamp.trans lamp', uncorrectable.trans uncorrectable'⟩

/-! ## Uncorrectable blocks, whatever the policy -/

theorem State.workUncorrectable_cases (s : State) (n : Fin 4) (b : Fin 8) (w : ReadWork) (count : Nat) :
    (∃ x item report, s.workUncorrectable n b w count = (s.setBay b x).readLost n b item report) ∨
      ∃ c block, w.item = .clip c ∧
        s.workUncorrectable n b w count = (s.blockSubstituted b c block).takeBlock n zeroBlock := by
  cases named : w.item with
  | repair c p =>
    exact .inl ⟨s.bay b, _, _, by rw [State.setBay_bay]; exact State.workUncorrectable_repair named count⟩
  | clip c =>
    by_cases ends : w.policy = .abort ∨ 16 < (s.bay b).uncorrectable + 1
    · exact .inl ⟨_, _, _, State.workUncorrectable_ends named ends count⟩
    · rw [not_or] at ends
      obtain ⟨policy, few⟩ := ends
      exact .inr ⟨c, _, rfl, State.workUncorrectable_substitutes named (salvage_of_not_abort policy) (Nat.le_of_not_lt few) count⟩

/-- What an uncorrectable block leaves, and that no zeros of a damage list follow it. -/
theorem ReadsItem.uncorrectable (r : ReadsItem s n b item i d w) (count : Nat) (h : t = s.workUncorrectable n b w count) :
    t.skipZeros n = t ∧ t.ports = s.ports ∧ t.jm = s.jm ∧ t.pending = s.pending ∧
      (∀ a, a ≠ b → bayCore (t.bay a) = bayCore (s.bay a)) ∧ s.wire <+: t.wire := by
  have others (x : Bay) (a : Fin 8) (other : a ≠ b) : (s.setBay b x).bay a = s.bay a := State.bay_setBay_ne s b a x other
  rcases s.workUncorrectable_cases n b w count with ⟨x, lost, report, ends⟩ | ⟨c, block, named, goesOn⟩
  · obtain ⟨ports, jm, pending, wire, bays, -, extent⟩ := (s.setBay b x).readLost_frame n b lost report t (h.trans ends)
    exact ⟨t.skipZeros_sound n (t.atDamaged_none n extent), ports, jm, pending,
      fun a other => (bays a other).trans (congrArg bayCore (others x a other)), (List.prefix_append _ _).trans wire⟩
  · obtain rfl : item = .clip c := (bayWork_item r.work).symm.trans named
    have taken := r.substitutes c block
    obtain ⟨ports, jm, pending⟩ := (s.blockSubstituted b c block).takeBlock_frame n zeroBlock
    obtain ⟨-, bays, wire⟩ := taken.frame
    subst h
    rw [goesOn]
    exact ⟨State.skipZeros_sound _ n (taken.atDamaged_clip r.holder), ports, jm, pending,
      fun a other => (bays a other).trans (congrArg bayCore (others _ a other)), (List.prefix_append _ _).trans wire⟩

/-! ## Failed attempts -/

theorem State.workFailed_eighth (eighth : 8 ≤ (s.bay b).fails + 1) (count : Nat) :
    s.workFailed n b w count = (s.eighthJudged b).workUncorrectable n b w count := by
  simp [State.workFailed, State.judgeFailure_eighth s b eighth, State.eighthJudged]

theorem ReadsItem.attemptFails (r : ReadsItem s n b item i d w) {answer : Option (List Byte)}
    (failed : ∀ data, answer = some data → data.length ≠ 512) :
    exec (.blockReadAttempt n answer) s = .next ((s.workFailed n b w d.count).skipZeros n) := by
  rw [blockReadAttempt_work r.holder r.extent r.unit r.work, State.workAttempt, blockData_failed failed]

/-- The eighth failed attempt on a block (R60 to R62). -/
theorem ReadsItem.eighthFails (r : ReadsItem s n b item i d w) {answer : Option (List Byte)}
    (failed : ∀ data, answer = some data → data.length ≠ 512) (eighth : 8 ≤ (s.bay b).fails + 1) :
    exec (.blockReadAttempt n answer) s = .next ((s.eighthJudged b).workUncorrectable n b w d.count) := by
  obtain ⟨stands, -⟩ := r.eighthJudged.uncorrectable d.count rfl
  rw [r.attemptFails failed, State.workFailed_eighth eighth, stands]

/-- A failed attempt while attempts are left (R60, R64 to R66). -/
theorem ReadsItem.fails (r : ReadsItem s n b item i d w) {answer : Option (List Byte)}
    (failed : ∀ data, answer = some data → data.length ≠ 512) (running : (s.bay b).health.running = true)
    (sound : ∀ c p, item = .repair c p → blockAt w.runs (d.count / 512) ∉ w.damage) (left : (s.bay b).fails + 1 < 8) :
    (¬ EntersCareful (s.bay b) → exec (.blockReadAttempt n answer) s = .next (retried s b)) ∧
      (EntersCareful (s.bay b) → exec (.blockReadAttempt n answer) s =
        .next ((carefulEntered s b (entryCount (s.bay b))).shortenTurn b)) := by
  obtain ⟨again, careful⟩ := State.judgeFailure_again s b running left
  refine ⟨fun stays => ?_, fun enters => ?_⟩
  · have judged : BayJudged b s (retried s b) := .setBay s b _
    have reads := judged.reads (by rw [retried, State.bay_setBay]; rfl) r
    rw [r.attemptFails failed, State.workFailed, again stays]
    exact congrArg _ (State.skipZeros_sound _ n (reads.atDamaged sound))
  · have judged := (BayJudged.carefulEntered s b (entryCount (s.bay b))).shortenTurn
    have reads := judged.reads (by rw [State.shortenTurn_bay, State.carefulEntered_bay]; rfl) r
    rw [r.attemptFails failed, State.workFailed, careful enters]
    exact congrArg _ (State.skipZeros_sound _ n (reads.atDamaged sound))
end

end Sys2Proof.Machine
end

section
namespace Sys2Proof.Machine

/-! ## BLOCK_READ_ATTEMPT that fails for a bay's work -/

theorem failedAttempt_spec (n : Fin 4) (answer : Option (List Byte)) (s : State) (b : Fin 8) (item : WorkItem) (i : Nat)
    (d : DigestState) (w : ReadWork) (failed : ∀ data, answer = some data → data.length ≠ 512)
    (holder : (s.lane n).holder = some (.work b item)) (extent : (s.lane n).extent = some i)
    (unit : (s.lane n).unit = some d) (work : bayWork (s.bay b) item = some w)
    (sound : ∀ c p, item = .repair c p → blockAt w.runs (d.count / 512) ∉ w.damage)
    (running : (s.bay b).health.running = true) :
    ∃ t, exec (.blockReadAttempt n answer) s = .next t ∧ t.ports = s.ports ∧ t.jm = s.jm ∧ t.pending = s.pending ∧
      (∀ a, a ≠ b → bayCore (t.bay a) = bayCore (s.bay a)) ∧
      ((s.bay b).fails + 1 < 8 →
        (¬ EntersCareful (s.bay b) → t = retried s b) ∧
        (EntersCareful (s.bay b) → t.pool = s.pool ∧ t.bay b = carefulRecord (s.bay b) (entryCount (s.bay b)) ∧
          t.wire = (carefulEntered s b (entryCount (s.bay b))).wire ∧
          (OnlyLane s n b → t = (carefulEntered s b (entryCount (s.bay b))).setLane n { s.lane n with endTurn := true }))) ∧
      (8 ≤ (s.bay b).fails + 1 → (eighthFailed s b).wire <+: t.wire) := by
  have reads : ReadsItem s n b item i d w := ⟨holder, extent, unit, work⟩
  rcases Nat.lt_or_ge ((s.bay b).fails + 1) 8 with left | eighth
  · obtain ⟨again, careful⟩ := reads.fails failed running sound left
    by_cases enters : EntersCareful (s.bay b)
    · obtain ⟨pool, ports, jm, -, pending, bays, -⟩ :=
        (BayJudged.carefulEntered s b (entryCount (s.bay b))).shortenTurn
      obtain ⟨-, -, -, -, -, wire, -⟩ := (carefulEntered s b (entryCount (s.bay b))).shortenTurn_frame b
      refine ⟨_, careful enters, ports, jm, pending, fun a other => congrArg bayCore (bays a other),
        fun _ => ⟨fun stays => absurd enters stays, fun _ => ⟨pool, ?_, wire, fun only => ?_⟩⟩, fun eighth => by omega⟩
      · rw [State.shortenTurn_bay, State.carefulEntered_bay]
      · exact (State.shortenTurn_cases _ b n (only.carefulEntered _)).1 item holder
    · have judged : BayJudged b s (retried s b) := .setBay s b _
      obtain ⟨-, ports, jm, -, pending, bays, -⟩ := judged
      exact ⟨_, again enters, ports, jm, pending, fun a other => congrArg bayCore (bays a other),
        fun _ => ⟨fun _ => rfl, fun yes => absurd yes enters⟩, fun eighth => by omega⟩
  · obtain ⟨-, ports', jm', -, pending', bays', -⟩ := BayJudged.eighthJudged s b
    obtain ⟨-, ports, jm, pending, bays, wire⟩ := reads.eighthJudged.uncorrectable d.count rfl
    rw [State.eighthJudged_wire] at wire
    exact ⟨_, reads.eighthFails failed eighth, ports.trans ports', jm.trans jm', pending.trans pending',
      fun a other => (bays a other).trans (congrArg bayCore (bays' a other)), fun left => by omega, fun _ => wire⟩

/-- An eighth failed attempt has ended the read of an item (R55, R60 to R62; log 18). -/
theorem ReadsItem.lost {s t : State} {n : Fin 4} {b : Fin 8} {item : WorkItem} {i : Nat} {d : DigestState} {w : ReadWork}
    (r : ReadsItem s n b item i d w) {x : Bay} {report : Instr}
    (h : t = ((s.eighthJudged b).setBay b x).readLost n b item report) :
    Giving [⟨.lane n b, none, claimOf item d.count, some i⟩] (fun u => u.pool = s.pool ∧ u.jm = s.jm ∧
        (eighthFailed s b).wire ++ [report] <+: u.wire ∧ ReadLost s u n b item report x) t ∧
      bayCore (t.bay b) = bayCore (withoutItem x item) ∧ (t.lane n).extent = none := by
  obtain ⟨-, -, -, -, -, core, extent⟩ := State.readLost_frame _ n b item report t h
  rw [State.bay_setBay] at core
  refine ⟨?_, core, extent⟩
  have giving := ((s.eighthJudged b).setBay b x).readLost_giving n b item report
  rw [← h, State.setBay_lane, r.eighthJudged.given] at giving
  refine giving.imp fun u stops => ?_
  obtain ⟨pool', -, jm', -⟩ := BayJudged.eighthJudged s b
  obtain ⟨pool, -, jm, -, wire, -⟩ := State.readStops_frame _ n b item report u stops
  rw [State.setBay_wire, State.eighthJudged_wire] at wire
  exact ⟨pool.trans pool', jm.trans jm', wire, stops ▸ ReadLost.of_stops r.holder report x⟩

theorem repairFails_spec (n : Fin 4) (answer : Option (List Byte)) (s : State) (b : Fin 8) (c i : Nat) (p : Fin 4)
    (d : DigestState) (w : ReadWork) (failed : ∀ data, answer = some data → data.length ≠ 512)
    (holder : (s.lane n).holder = some (.work b (.repair c p))) (extent : (s.lane n).extent = some i)
    (unit : (s.lane n).unit = some d) (work : bayWork (s.bay b) (.repair c p) = some w) (eighth : 8 ≤ (s.bay b).fails + 1) :
    ∃ t, exec (.blockReadAttempt n answer) s = .next t ∧
      Giving [⟨.lane n b, none, ⟨c, .repair, some p, d.count / 4194304⟩, some i⟩] (fun u => u.pool = s.pool ∧ u.jm = s.jm ∧
        (eighthFailed s b).wire ++ [.repairSourceFailure c p] <+: u.wire ∧
        ReadLost s u n b (.repair c p) (.repairSourceFailure c p) ((eighthFailed s b).bay b)) t ∧
      (t.bay b).health = ((eighthFailed s b).bay b).health ∧ (t.bay b).lamp = ((eighthFailed s b).bay b).lamp ∧
      (∀ v ∈ (t.bay b).repairs, v.item ≠ .repair c p) ∧ (t.lane n).extent = none := by
  have reads : ReadsItem s n b (.repair c p) i d w := ⟨holder, extent, unit, work⟩
  have ends := (s.eighthJudged b).workUncorrectable_repair (n := n) (b := b) (bayWork_item work) d.count
  have same := (s.eighthJudged b).setBay_bay b
  rw [State.eighthJudged_bay] at same
  rw [← same] at ends
  have run := reads.eighthFails failed eighth
  rw [← same] at run
  obtain ⟨giving, core, free⟩ := reads.lost ends
  obtain ⟨-, -, -, -, -, -, -, -, lamp, health, -, repairs, -⟩ := bayCore_fields core
  refine ⟨_, run, giving, health, lamp, fun v mem => ?_, free⟩
  rw [repairs] at mem
  simpa using (List.mem_filter.1 mem).2

/-- The state in which the zeros of a block that an eighth failure has lost are taken (R60, R61, R66). -/
theorem State.eighthJudged_substituted {s : State} {n : Fin 4} {b : Fin 8} {item : WorkItem}
    (holder : (s.lane n).holder = some (.work b item)) (sure : (s.bay b).health.mode = .careful ∨ OnlyLane s n b)
    (c block : Nat) : (s.eighthJudged b).blockSubstituted b c block = (({ eighthFailed s b with
        wire := (eighthFailed s b).wire ++ [.blockSubstitution c block] } : State).setBay b
      { (eighthFailed s b).bay b with uncorrectable := (s.bay b).uncorrectable + 1 }).setLane n
      { s.lane n with endTurn := (s.lane n).endTurn || decide ((s.bay b).health.mode = .normal) } := by
  obtain ⟨count, -⟩ := s.eighthFailed_work b
  rw [eighthJudged_work holder sure, State.blockSubstituted, State.setLane_bay, count]
  rfl

theorem clipFails_spec (n : Fin 4) (answer : Option (List Byte)) (s : State) (b : Fin 8) (c i : Nat) (d : DigestState)
    (w : ReadWork) (failed : ∀ data, answer = some data → data.length ≠ 512)
    (holder : (s.lane n).holder = some (.work b (.clip c))) (extent : (s.lane n).extent = some i)
    (unit : (s.lane n).unit = some d) (work : bayWork (s.bay b) (.clip c) = some w) (eighth : 8 ≤ (s.bay b).fails + 1) :
    ∃ t, exec (.blockReadAttempt n answer) s = .next t ∧
      (t.bay b).health = ((eighthFailed s b).bay b).health ∧ (t.bay b).lamp = ((eighthFailed s b).bay b).lamp ∧
      (w.policy = .salvage → (t.bay b).uncorrectable = (s.bay b).uncorrectable + 1) ∧
      (w.policy = .abort ∨ 16 < (s.bay b).uncorrectable + 1 →
        (∀ v, (t.bay b).reading = some v → v.item ≠ .clip c) ∧
        Giving [⟨.lane n b, none, ⟨c, .first, none, d.count / 4194304⟩, some i⟩] (fun u => u.pool = s.pool ∧ u.jm = s.jm ∧
          (eighthFailed s b).wire ++ [.mediaFailure c] <+: u.wire ∧
          ReadLost s u n b (.clip c) (.mediaFailure c) { (eighthFailed s b).bay b with
            uncorrectable := (s.bay b).uncorrectable + (if w.policy = .salvage then 1 else 0) }) t) ∧
      (w.policy = .salvage → (s.bay b).uncorrectable + 1 ≤ 16 →
        (eighthFailed s b).wire ++ [.blockSubstitution c (blockAt w.runs (d.count / 512))] <+: t.wire ∧
        t.pool = poolPlace s.pool i ⟨c, .first, none, d.count / 4194304⟩ (d.count % 4194304)
          (List.replicate (min 512 (w.length - d.count)) 0#8) ∧
        ((s.bay b).health.mode = .careful ∨ OnlyLane s n b →
          ∀ u : State, u = (({ eighthFailed s b with
              wire := (eighthFailed s b).wire ++ [.blockSubstitution c (blockAt w.runs (d.count / 512))] } : State).setBay b
            { (eighthFailed s b).bay b with uncorrectable := (s.bay b).uncorrectable + 1 }).setLane n
            { s.lane n with endTurn := (s.lane n).endTurn || decide ((s.bay b).health.mode = .normal) } →
          BlockTaken u t n b (.clip c) i d w.length (List.replicate (min 512 (w.length - d.count)) 0#8))) := by
  have reads : ReadsItem s n b (.clip c) i d w := ⟨holder, extent, unit, work⟩
  have named : w.item = .clip c := bayWork_item work
  obtain ⟨pool, -⟩ := BayJudged.eighthJudged s b
  obtain ⟨count, -⟩ := s.eighthFailed_work b
  have bay := s.eighthJudged_bay b
  have counted : ((s.eighthJudged b).bay b).uncorrectable = (s.bay b).uncorrectable := (congrArg _ bay).trans count
  refine ⟨_, reads.eighthFails failed eighth, ?_⟩
  by_cases ends : w.policy = .abort ∨ 16 < (s.bay b).uncorrectable + 1
  · have lost := State.workUncorrectable_ends (s := s.eighthJudged b) (n := n) (b := b) named (by rwa [counted]) d.count
    obtain ⟨giving, core, -⟩ := reads.lost lost
    obtain ⟨-, -, -, -, -, -, -, -, lamp, health, reading, -, -, uncorrectable⟩ := bayCore_fields core
    rw [bay] at lamp health reading uncorrectable giving
    rw [countsBlock, count] at giving
    refine ⟨health, lamp, fun salvage => ?_, fun _ => ⟨fun v lives => ?_, giving⟩, fun salvage few => ?_⟩
    · rw [uncorrectable]
      simp [withoutItem, countsBlock, salvage, count]
    · rw [reading] at lives
      simpa using (Option.filter_eq_some_iff.1 lives).2
    · rcases ends with abort | many
      · rw [abort] at salvage
        cases salvage
      · omega
  · rw [not_or] at ends
    obtain ⟨policy, few⟩ := ends
    have salvage := salvage_of_not_abort policy
    rw [State.workUncorrectable_substitutes named salvage (by rw [counted]; exact Nat.le_of_not_lt few)]
    have taken := reads.eighthJudged.substitutes c (blockAt w.runs (d.count / 512))
    obtain ⟨health, lamp, uncorrectable⟩ := taken.record
    obtain ⟨placed, -, wire⟩ := taken.frame
    rw [State.blockSubstituted_bay] at health lamp uncorrectable
    rw [State.blockSubstituted_wire, State.eighthJudged_wire] at wire
    rw [bay] at health lamp uncorrectable
    refine ⟨health, lamp, fun _ => uncorrectable.trans (congrArg (· + 1) count), fun no => absurd no (not_or.2 ⟨policy, few⟩),
      fun _ _ => ⟨wire, placed.trans (congrArg (poolPlace · i _ _ _) pool), fun sure u set => ?_⟩⟩
    rwa [set, ← State.eighthJudged_substituted holder sure]

/-- Settles O33: while attempts are left the monitor's mode judges; the eighth failure ends the read or substitutes the block. -/
theorem failedAttemptsAreJudged : Obligations.FailedAttemptsAreJudged := by
  refine ⟨failedAttempt_spec, fun n answer s b c i p d w failed holder extent unit work _ eighth =>
    repairFails_spec n answer s b c i p d w failed holder extent unit work eighth,
    fun n answer s b c i d w failed holder extent unit work _ _ eighth =>
      clipFails_spec n answer s b c i d w failed holder extent unit work eighth⟩

end Sys2Proof.Machine
end

section
namespace Sys2Proof.Machine

/-! ## What a search for grants goes by -/

/-- A search for grants leaves the pool, the ports, the job manager and the bays, but for what the start of a turn sets; it adds
to the messages and the replies, and passes over the lanes that are held (R52). -/
theorem GrantRound.frame {s t : State} (h : GrantRound s t) : t.pool = s.pool ∧ t.ports = s.ports ∧ t.jm = s.jm ∧
    t.pending = s.pending ∧ s.wire <+: t.wire ∧ s.replyLog <+: t.replyLog ∧ t.arb.unawaited = s.arb.unawaited ∧
    (∀ b, bayCore (t.bay b) = bayCore (s.bay b)) ∧ ∀ m, (s.lane m).holder ≠ none → t.lane m = s.lane m := by
  obtain ⟨pool, ports, jm, pending, -, -, bays, -⟩ := GrantOnly.of_round h
  exact ⟨pool, ports, jm, pending, h.wire, (RepliesKept.of_round h).1, h.unawaited, bays, fun _ held => h.held held⟩

theorem bayWork_some {x : Bay} {item : WorkItem} {w : ReadWork} (h : bayWork x item = some w) :
    x.repairs ≠ [] ∨ x.reading ≠ none := by
  refine or_iff_not_imp_left.2 fun repairs none => ?_
  rw [not_not] at repairs
  simp [bayWork, repairs, none] at h

/-- The item of a turn: the offered one that the bay still has, else the oldest repair, else the clip (R53, R83). -/
theorem bayItem_offered {x : Bay} {i : WorkItem} {w : ReadWork} (offered : x.offered = some i) (work : bayWork x i = some w) :
    bayItem x = some w.item := by
  simp [bayItem, offered, work]

theorem bayItem_unoffered {x : Bay} (none : x.offered.bind (bayWork x) = none) :
    (∀ w rest, x.repairs = w :: rest → bayItem x = some w.item) ∧
      (x.repairs = [] → bayItem x = x.reading.map ReadWork.item) := by
  refine ⟨fun w rest repairs => ?_, fun repairs => ?_⟩ <;> simp [bayItem, none, repairs]

/-- A bay has an item for a turn where it has read work. -/
theorem bayItem_isSome (x : Bay) : (bayItem x).isSome = true ↔ x.repairs ≠ [] ∨ x.reading ≠ none := by
  cases found : x.offered.bind (bayWork x) with
  | some w =>
    obtain ⟨i, offered, work⟩ := Option.bind_eq_some_iff.1 found
    simp [bayItem_offered offered work, bayWork_some work]
  | none =>
    obtain ⟨oldest, clip⟩ := bayItem_unoffered found
    cases repairs : x.repairs with
    | nil => simp [clip repairs, Option.isSome_iff_ne_none]
    | cons w rest => simp [oldest w rest repairs]

/-- A MOUNTED bay with a job that is not away has the job's card (R51). -/
theorem job_here_iff {x : Bay} (mounted : x.state = .mounted) :
    x.job.isSome = true ∧ bayAway x = false ↔ ∃ j, x.job = some j ∧ x.sig = some j.sig := by
  cases job : x.job with
  | none => simp
  | some j => simp [bayAway, job, mounted]

/-- An eligible bay (R51). -/
theorem State.bayEligible_iff (s : State) (b : Fin 8) : s.bayEligible b = true ↔ (s.bay b).state = .mounted ∧
    (∃ j, (s.bay b).job = some j ∧ (s.bay b).sig = some j.sig) ∧ (s.bay b).waiting = false ∧
    ((s.bay b).repairs ≠ [] ∨ (s.bay b).reading ≠ none) ∧ ∀ n, holderBay (s.lane n) ≠ some b := by
  simp only [State.bayEligible, bayWantsLane, Bool.and_eq_true, decide_eq_true_eq, Bool.not_eq_true',
    Option.isNone_iff_eq_none, ← bayItem_isSome, ← s.laneOf_eq_none b]
  by_cases mounted : (s.bay b).state = .mounted
  · rw [← job_here_iff mounted]
    tauto
  · simp [mounted]

/-! ## The running states handed on -/

theorem inTransitState_none {item : WorkItem} {ms : List Instr} (h : ∀ m ∈ ms, ∀ d, m ≠ .burstEndReport item d) :
    inTransitState item ms = none := by
  induction ms with
  | nil => rfl
  | cons m ms ih =>
    unfold inTransitState
    rw [ih fun x mem => h x (List.mem_cons_of_mem m mem)]
    dsimp only
    split
    · rename_i i d
      exact if_neg fun same => h _ List.mem_cons_self d (by rw [same])
    · rfl

theorem inTransitState_last {item : WorkItem} (before : List Instr) {d : DigestState} {after : List Instr}
    (newer : ∀ m ∈ after, ∀ e, m ≠ .burstEndReport item e) :
    inTransitState item (before ++ .burstEndReport item d :: after) = some d := by
  induction before with
  | nil => simp [inTransitState, inTransitState_none newer]
  | cons m before ih =>
    rw [List.cons_append]
    unfold inTransitState
    rw [ih]

/-- A lane loads the state handed on last in the item's read (R53; log 16). -/
theorem State.loadState_last {s : State} {item : WorkItem} {before after : List Instr} {d : DigestState}
    (reports : s.inTime = before ++ .burstEndReport item d :: after)
    (newer : ∀ m ∈ after, ∀ e, m ≠ .burstEndReport item e) : s.loadState item = d := by
  rw [State.loadState, reports, inTransitState_last before newer]

/-! ## What a bay has of the pool -/

theorem State.mem_lanesGiven (s : State) (b : Fin 8) (items : WorkItem → Bool) (g : Given) : g ∈ s.lanesGiven b items ↔
    ∃ n item d i, (s.lane n).holder = some (.work b item) ∧ items item = true ∧ (s.lane n).unit = some d ∧
      (s.lane n).extent = some i ∧ g = ⟨.lane n b, none, claimOf item d.count, some i⟩ := by
  simp only [State.lanesGiven, List.mem_flatMap, List.mem_finRange, true_and]
  constructor
  · rintro ⟨n, mem⟩
    split at mem
    · rename_i a item holder
      split at mem
      · rename_i wanted
        obtain ⟨rfl, wanted⟩ := wanted
        obtain ⟨a', item', d, i, holder', unit, extent, rfl⟩ := (mem_laneGiven n _ g).1 mem
        cases holder.symm.trans holder'
        exact ⟨n, item, d, i, holder, wanted, unit, extent, rfl⟩
      · cases mem
    · cases mem
  · rintro ⟨n, item, d, i, holder, wanted, unit, extent, rfl⟩
    refine ⟨n, ?_⟩
    rw [laneGiven_reads holder extent unit]
    simp [holder, wanted]

theorem mem_asidesGiven (q : Pool) (b : Fin 8) (items : WorkItem → Bool) (g : Given) : g ∈ asidesGiven q b items ↔
    ∃ i e, (i, e) ∈ q.extents ∧ e.aside = some (.bay b) ∧ items (itemOf e.claim) = true ∧
      g = ⟨.lane 0 b, some (.bay b), e.claim, some i⟩ := by
  simp only [asidesGiven, List.mem_map, List.mem_filter, Bool.and_eq_true, decide_eq_true_eq]
  constructor
  · rintro ⟨⟨i, e⟩, ⟨mem, aside, wanted⟩, rfl⟩
    exact ⟨i, e, mem, aside, wanted, rfl⟩
  · rintro ⟨i, e, mem, aside, wanted, rfl⟩
    exact ⟨(i, e), ⟨mem, aside, wanted⟩, rfl⟩

theorem State.mem_bayGiven (s : State) (b : Fin 8) (items : WorkItem → Bool) (g : Given) : g ∈ s.bayGiven b items ↔
    (∃ n item d i, (s.lane n).holder = some (.work b item) ∧ items item = true ∧ (s.lane n).unit = some d ∧
      (s.lane n).extent = some i ∧ g = ⟨.lane n b, none, claimOf item d.count, some i⟩) ∨
    ∃ i e, (i, e) ∈ s.pool.extents ∧ e.aside = some (.bay b) ∧ items (itemOf e.claim) = true ∧
      g = ⟨.lane 0 b, some (.bay b), e.claim, some i⟩ := by
  rw [State.bayGiven, List.mem_append, State.mem_lanesGiven, mem_asidesGiven]

end Sys2Proof.Machine
end

section
namespace Sys2Proof.Machine

/-! ## A bay's record is set and the arbiter looks for grants -/

/-- What is set in a bay's record before a search for grants. -/
theorem State.setBay_grants (s : State) (b : Fin 8) (x : Bay) :
    OnlyReads b s (s.setBay b x).grants ∧ GrantRound (s.setBay b x) (s.setBay b x).grants ∧
      bayCore ((s.setBay b x).grants.bay b) = bayCore x := by
  have core := (s.setBay b x).grants_bayCore b
  rw [State.bay_setBay] at core
  exact ⟨(OnlyBay.setBay s b x).reads.grants, State.grants_round _, core⟩

theorem OnlyReads.arrived {b : Fin 8} {s t : State} {m : Instr} (h : OnlyReads b (s.arrive m) t) : OnlyReads b s t := h

theorem takeWork_clip {w : ReadWork} {c : Nat} (item : w.item = .clip c) (x : Bay) :
    (takeWork x w).reading = some w ∧ (takeWork x w).uncorrectable = 0 ∧ (takeWork x w).repairs = x.repairs := by
  rw [takeWork, item]
  exact ⟨rfl, rfl, rfl⟩

theorem takeWork_repair {w : ReadWork} {c : Nat} {p : Fin 4} (item : w.item = .repair c p) (x : Bay) :
    (takeWork x w).repairs = x.repairs ++ [w] ∧ (takeWork x w).reading = x.reading := by
  rw [takeWork, item]
  exact ⟨rfl, rfl⟩

theorem takeWork_stands (x : Bay) (w : ReadWork) :
    (takeWork x w).waiting = x.waiting ∧ (takeWork x w).state = x.state := by
  unfold takeWork
  split <;> exact ⟨rfl, rfl⟩

theorem bayReadWork_spec (b : Fin 8) (w : ReadWork) (s : State) : ∃ t, exec (.bayReadWork b w) s = .next t ∧
    OnlyReads b s t ∧
    (∀ c, w.item = .clip c → (t.bay b).reading = some w ∧ (t.bay b).uncorrectable = 0 ∧
      (t.bay b).repairs = (s.bay b).repairs) ∧
    (∀ c p, w.item = .repair c p → (t.bay b).repairs = (s.bay b).repairs ++ [w] ∧
      (t.bay b).reading = (s.bay b).reading) ∧
    (t.bay b).waiting = (s.bay b).waiting ∧ (t.bay b).state = (s.bay b).state ∧
    GrantRound ((s.arrive (.bayReadWork b w)).setBay b (takeWork (s.bay b) w)) t := by
  obtain ⟨reads, round, core⟩ := (s.arrive (.bayReadWork b w)).setBay_grants b (takeWork (s.bay b) w)
  obtain ⟨-, state, -, -, -, -, -, -, -, -, reading, repairs, waiting, uncorrectable⟩ := bayCore_fields core
  obtain ⟨waits, stands⟩ := takeWork_stands (s.bay b) w
  refine ⟨_, rfl, reads.arrived, fun c item => ?_, fun c p item => ?_, waiting.trans waits, state.trans stands, round⟩
  · obtain ⟨reading', uncorrectable', repairs'⟩ := takeWork_clip item (s.bay b)
    exact ⟨reading.trans reading', uncorrectable.trans uncorrectable', repairs.trans repairs'⟩
  · obtain ⟨repairs', reading'⟩ := takeWork_repair item (s.bay b)
    exact ⟨repairs.trans repairs', reading.trans reading'⟩

theorem bayWaitRemoved_spec (n : Fin 4) (b : Fin 8) (c : ClaimId) (s : State) :
    ∃ t, exec (.waitRemoved (.lane n b) c) s = .next t ∧ OnlyReads b s t ∧ (t.bay b).waiting = false ∧
      (t.bay b).reading = (s.bay b).reading ∧ (t.bay b).repairs = (s.bay b).repairs ∧
      GrantRound ((s.arrive (.waitRemoved (.lane n b) c)).setBay b { s.bay b with waiting := false }) t := by
  obtain ⟨reads, round, core⟩ := (s.arrive (.waitRemoved (.lane n b) c)).setBay_grants b { s.bay b with waiting := false }
  obtain ⟨-, -, -, -, -, -, -, -, -, -, reading, repairs, waiting, -⟩ := bayCore_fields core
  exact ⟨_, rfl, reads.arrived, waiting, reading, repairs, round⟩

/-! ## POOL_OFFER -/

theorem State.freeActiveLane_of_arb {s t : State} (h : t.arb = s.arb) : t.freeActiveLane = s.freeActiveLane := by
  have lanes (n : Fin 4) : t.lane n = s.lane n := State.lane_of_arb h n
  unfold State.freeActiveLane
  rw [h]
  simp only [lanes]

theorem State.offerLapses_none {s : State} {b : Fin 8} {c : ClaimId} (none : setAsideFor s.pool (.lane 0 b) c = none) :
    s.offerLapses b c = s := by
  rw [State.offerLapses, none]

theorem State.offerLapses_some {s : State} {b : Fin 8} {c : ClaimId} {i : Nat}
    (aside : setAsideFor s.pool (.lane 0 b) c = some i) :
    s.offerLapses b c = s.giveBack (some (.bay b)) (.lane 0 b) c (some i) := by
  rw [State.offerLapses, aside]

theorem State.offerLapses_frame (s : State) (b : Fin 8) (c : ClaimId) : (s.offerLapses b c).bays = s.bays ∧
    (s.offerLapses b c).arb = s.arb ∧ (s.offerLapses b c).ports = s.ports ∧ (s.offerLapses b c).jm = s.jm ∧
    (s.offerLapses b c).pending = s.pending := by
  unfold State.offerLapses
  split <;> simp

/-- An offer comes to a bay that no longer has the read: what it set aside is given back (R83; log 18). -/
def State.offerTaken (s : State) (b : Fin 8) (c : ClaimId) : State :=
  if (bayWork (s.bay b) (itemOf c)).isSome then s else s.offerLapses b c

theorem State.offerTaken_frame (s : State) (b : Fin 8) (c : ClaimId) : (s.offerTaken b c).bays = s.bays ∧
    (s.offerTaken b c).arb = s.arb ∧ (s.offerTaken b c).ports = s.ports ∧ (s.offerTaken b c).jm = s.jm ∧
    (s.offerTaken b c).pending = s.pending := by
  unfold State.offerTaken
  split
  · exact ⟨rfl, rfl, rfl, rfl, rfl⟩
  · exact s.offerLapses_frame b c

theorem State.offerTaken_same {s : State} {b : Fin 8} {c : ClaimId}
    (h : (bayWork (s.bay b) (itemOf c)).isSome = true ∨ setAsideFor s.pool (.lane 0 b) c = none) :
    s.offerTaken b c = s := by
  unfold State.offerTaken
  split
  · rfl
  · rename_i gone
    exact State.offerLapses_none (h.resolve_left gone)

theorem State.offerTaken_lapses {s : State} {b : Fin 8} {c : ClaimId} {i : Nat}
    (gone : bayWork (s.bay b) (itemOf c) = none) (aside : setAsideFor s.pool (.lane 0 b) c = some i) :
    GivenBack s (s.offerTaken b c) (some (.bay b)) (.lane 0 b) c (some i) := by
  rw [State.offerTaken, gone, Option.isSome_none, if_neg Bool.false_ne_true, State.offerLapses_some aside]
  exact State.giveBack_spec _ _ _ _ _

theorem poolOffer_spec (b : Fin 8) (c : ClaimId) (s : State) : ∃ t, exec (.poolOffer b c) s = .next t ∧
    t.ports = s.ports ∧ t.jm = s.jm ∧
    t.pending = s.pending ∧ (∀ a, a ≠ b → bayCore (t.bay a) = bayCore (s.bay a)) ∧
    (t.bay b).waiting = false ∧ (t.bay b).reading = (s.bay b).reading ∧ (t.bay b).repairs = (s.bay b).repairs ∧
    (s.freeActiveLane = none → (t.bay b).offered = some (itemOf c)) ∧
    ((bayWork (s.bay b) (itemOf c)).isSome = true → t.pool = s.pool) ∧
    ((∀ i, setAsideFor s.pool (.lane 0 b) c = some i → False) → t.pool = s.pool) ∧
    ∃ u, GrantRound (u.setBay b { s.bay b with waiting := false, offered := some (itemOf c) }) t ∧
      ((bayWork (s.bay b) (itemOf c)).isSome = true ∨ setAsideFor s.pool (.lane 0 b) c = none →
        u = s.arrive (.poolOffer b c)) ∧
      (∀ i, bayWork (s.bay b) (itemOf c) = none → setAsideFor s.pool (.lane 0 b) c = some i →
        GivenBack (s.arrive (.poolOffer b c)) u (some (.bay b)) (.lane 0 b) c (some i) ∧ t.pool = u.pool) := by
  have run : exec (.poolOffer b c) s = .next (((s.arrive (.poolOffer b c)).offerTaken b c).setBay b
      { ((s.arrive (.poolOffer b c)).offerTaken b c).bay b with waiting := false, offered := some (itemOf c) }).grants := rfl
  obtain ⟨bays', arb', ports', jm', pending'⟩ := (s.arrive (.poolOffer b c)).offerTaken_frame b c
  have same := State.offerTaken_same (s := s.arrive (.poolOffer b c)) (b := b) (c := c)
  have lapses (i : Nat) := State.offerTaken_lapses (s := s.arrive (.poolOffer b c)) (b := b) (c := c) (i := i)
  generalize (s.arrive (.poolOffer b c)).offerTaken b c = u at run bays' arb' ports' jm' pending' same lapses
  have bay (a : Fin 8) : u.bay a = s.bay a := State.bay_of_bays bays' a
  rw [bay] at run
  obtain ⟨⟨pool, ports, jm, pending, others⟩, round, core⟩ :=
    u.setBay_grants b { s.bay b with waiting := false, offered := some (itemOf c) }
  obtain ⟨-, -, -, -, -, -, -, -, -, -, reading, repairs, waiting, -⟩ := bayCore_fields core
  refine ⟨_, run, ports.trans ports', jm.trans jm', pending.trans pending',
    fun a other => (others a other).trans (congrArg bayCore (bay a)), waiting, reading, repairs, fun full => ?_,
    fun has => ?_, fun none => ?_, u, round, same, fun i gone aside => ⟨lapses i gone aside, pool⟩⟩
  · have full' : (u.setBay b { s.bay b with waiting := false, offered := some (itemOf c) }).freeActiveLane = none :=
      (State.freeActiveLane_of_arb arb').trans full
    rw [State.grants_none _ (.inr full'), State.bay_setBay]
  · rw [pool, same (.inl has)]
    rfl
  · rw [pool, same (.inr (Option.eq_none_iff_forall_ne_some.2 none))]
    rfl

end Sys2Proof.Machine
end

section
namespace Sys2Proof.Machine

/-! ## WORK_ITEM_ENDED: the steps of the command -/

/-- The record of a bay of whose read work an item has been taken, the offer for it with it (R55, R83). -/
def itemEndedBay (x : Bay) (i : WorkItem) (waiting : Bool) : Bay :=
  { withoutItem x i with waiting := waiting, offered := x.offered.filter (fun y => decide (y ≠ i)) }

/-- The bay gives up a place among the waiting requests that no discard will take (R51, R80; log 18). -/
def State.placeGone (s : State) (b : Fin 8) (i : WorkItem) : Bool :=
  (bayPlaces s.pool b i).any fun g => !s.discardDue g.requester g.claim && s.stillWaits g.requester g.claim

/-- An item has left its bay's read work (R55, R149, R159). -/
def State.itemLeft (s : State) (b : Fin 8) (i : WorkItem) : State :=
  s.setBay b (itemEndedBay (s.bay b) i ((s.bay b).waiting && !s.placeGone b i))

/-- The lane that serves an ended item is returned, and the arbiter looks for grants (R55). -/
def State.laneLeaves (s : State) (b : Fin 8) (i : WorkItem) : State :=
  match s.laneFor b i with
  | some n => s.returnLane n
  | none => s.grants

theorem State.endWait_eq (s : State) (b : Fin 8) (i : WorkItem) :
    s.endWait b i = s.setBay b { s.bay b with waiting := (s.bay b).waiting && !s.placeGone b i } := by
  have cases : s.endWait b i = if s.placeGone b i then s.setBay b { s.bay b with waiting := false } else s := rfl
  rw [cases]
  cases s.placeGone b i with
  | true => rw [if_pos rfl, Bool.not_true, Bool.and_false]
  | false =>
    rw [if_neg Bool.false_ne_true, Bool.not_false, Bool.and_true]
    exact (s.setBay_bay b).symm

theorem State.itemLeft_eq (s : State) (b : Fin 8) (i : WorkItem) :
    ((s.endWait b i).loseWork b i).setBay b { ((s.endWait b i).loseWork b i).bay b with
      offered := (((s.endWait b i).loseWork b i).bay b).offered.filter (fun y => decide (y ≠ i)) } = s.itemLeft b i := by
  rw [State.endWait_eq, State.loseWork, State.bay_setBay, State.setBay_setBay, State.bay_setBay, State.setBay_setBay,
    withoutItem_eq]
  cases i <;> rfl

theorem workItemEnded_run (b : Fin 8) (i : WorkItem) (s : State) : exec (.workItemEnded b i) s = .next
    ((((s.arrive (.workItemEnded b i)).itemLeft b i).laneLeaves b i).giveBackAll
      (s.bayGiven b (fun x => decide (x = i)) ++ bayPlaces s.pool b i)) := by
  rw [← State.itemLeft_eq]
  rfl

/-! ### The place among the waiting requests -/

theorem State.placeGone_iff (s : State) (b : Fin 8) (i : WorkItem) : s.placeGone b i = true ↔
    ∃ w ∈ s.pool.waits, (∃ n, w.requester = .lane n b) ∧ itemOf w.claim = i ∧ s.discardDue w.requester w.claim = false ∧
      s.wire.count (.claimAnswer w.requester w.claim none) < s.pool.waits.count w := by
  simp only [State.placeGone, List.any_eq_true, mem_bayPlaces, Bool.and_eq_true, Bool.not_eq_true', State.stillWaits,
    decide_eq_true_eq]
  constructor
  · rintro ⟨g, ⟨w, mem, n, lane, item, rfl⟩, kept, stands⟩
    exact ⟨w, mem, ⟨n, lane⟩, item, kept, stands⟩
  · rintro ⟨w, mem, ⟨n, lane⟩, item, kept, stands⟩
    exact ⟨_, ⟨w, mem, n, lane, item, rfl⟩, kept, stands⟩

theorem State.placeGone_arrive (s : State) (b : Fin 8) (i : WorkItem) :
    (s.arrive (.workItemEnded b i)).placeGone b i = true ↔ ∃ w ∈ s.pool.waits, (∃ n, w.requester = .lane n b) ∧
      itemOf w.claim = i ∧ (s.arrive (.workItemEnded b i)).discardDue w.requester w.claim = false ∧
      s.wire.count (.claimAnswer w.requester w.claim none) < s.pool.waits.count w := by
  have count (r : Requester) (c : ClaimId) : (s.arrive (.workItemEnded b i)).wire.count (.claimAnswer r c none) =
      s.wire.count (.claimAnswer r c none) := List.count_erase_of_ne (by simp)
  rw [State.placeGone_iff]
  simp only [count]
  rfl

/-! ### The lane of the item -/

theorem State.laneFor_iff (s : State) (b : Fin 8) (i : WorkItem) (n : Fin 4) : s.laneFor b i = some n ↔
    ((s.lane n).holder = some (.work b i) ∧ (s.lane n).ack = none) ∧
      ∀ m, m < n → (s.lane m).holder = some (.work b i) → (s.lane m).ack ≠ none := by
  rw [State.laneFor, finRange_find?_iff]
  simp [Option.isSome_iff_ne_none]

theorem State.laneFor_none (s : State) (b : Fin 8) (i : WorkItem) : s.laneFor b i = none ↔
    ∀ n, (s.lane n).holder = some (.work b i) → (s.lane n).ack ≠ none := by
  simp [State.laneFor, List.find?_eq_none]

/-- A lane that serves the ended item is returned (R55). -/
theorem State.laneLeaves_lane {s : State} {b : Fin 8} {i : WorkItem} {n : Fin 4} (serves : s.laneFor b i = some n) :
    GrantRound (laneBack s n) (s.laneLeaves b i) := by
  rw [State.laneLeaves, serves]
  exact s.returnLane_round n

theorem State.laneLeaves_none {s : State} {b : Fin 8} {i : WorkItem} (unserved : s.laneFor b i = none) :
    GrantRound s (s.laneLeaves b i) := by
  rw [State.laneLeaves, unserved]
  exact s.grants_round

theorem GrantOnly.laneLeaves (s : State) (b : Fin 8) (i : WorkItem) : GrantOnly s (s.laneLeaves b i) := by
  unfold State.laneLeaves
  split
  · exact .returnLane s _
  · exact .grants s

theorem State.laneLeaves_wire (s : State) (b : Fin 8) (i : WorkItem) : s.wire <+: (s.laneLeaves b i).wire := by
  unfold State.laneLeaves
  split
  · exact (s.returnLane_round _).wire
  · exact s.grants_wire

/-- A search for grants makes no offer: it uses up one, or leaves it (R83). -/
theorem GrantRound.offered {s t : State} (h : GrantRound s t) (b : Fin 8) :
    (t.bay b).offered = none ∨ (t.bay b).offered = (s.bay b).offered := by
  induction h with
  | ends => exact .inr rfl
  | host s u t n r _ _ given _ ih =>
    have same : (u.bay b).offered = (s.bay b).offered := by
      rcases given.ends_or_holds with ⟨c, body, rfl⟩ | ⟨-, k, -, rfl⟩
      · exact congrArg Bay.offered (State.bay_of_bays (State.endRead_bays _ _ _ _) b)
      · by_cases here : b = r.bay
        · subst here
          rw [State.setLane_bay, State.bay_setBay]
        · rw [State.setLane_bay, State.bay_setBay_ne _ _ _ _ here]
          rfl
    rwa [same] at ih
  | bay s t n a item _ _ _ _ _ ih =>
    by_cases here : b = a
    · subst here
      rw [turnGiven, State.bay_setBay] at ih
      exact .inl (ih.elim id id)
    · rw [turnGiven, State.bay_setBay_ne _ _ _ _ here] at ih
      exact ih

theorem State.laneLeaves_offered (s : State) (b : Fin 8) (i : WorkItem) :
    ((s.laneLeaves b i).bay b).offered = none ∨ ((s.laneLeaves b i).bay b).offered = (s.bay b).offered := by
  unfold State.laneLeaves
  split
  · exact (s.returnLane_round _).offered b
  · exact s.grants_round.offered b

/-! ### No grant follows -/

/-- With no host card read on the list and no eligible bay nothing is granted (R52). -/
theorem GrantRound.idle {s t : State} (h : GrantRound s t) (none : s.arb.requests = [])
    (idle : ∀ b, s.bayEligible b = false) : t = s :=
  h.unique (.ends s (.inr ⟨not_hostNext none, idle⟩))

/-- The return of a lane makes only the bay that it was held for eligible (R51). -/
theorem laneBack_eligible {s : State} {n : Fin 4} {a b : Fin 8} (held : holderBay (s.lane n) = some b) (other : a ≠ b)
    (idle : s.bayEligible a = false) : (laneBack s n).bayEligible a = false := by
  rw [Bool.eq_false_iff, Ne, State.bayEligible_iff] at idle ⊢
  rintro ⟨mounted, job, waiting, work, unheld⟩
  refine idle ⟨mounted, job, waiting, work, fun m => ?_⟩
  by_cases same : m = n
  · rw [same, held]
    exact fun e => other (Option.some.inj e).symm
  · have lane : (laneBack s n).lane m = s.lane m := State.lane_setLane_ne s n m Lane.reset same
    exact lane ▸ unheld m

theorem State.bayEligible_noWork {s : State} {b : Fin 8} (repairs : (s.bay b).repairs = []) (reading : (s.bay b).reading = none) :
    s.bayEligible b = false := by
  rw [Bool.eq_false_iff, Ne, State.bayEligible_iff]
  rintro ⟨-, -, -, work, -⟩
  exact work.elim (fun h => h repairs) (fun h => h reading)

/-! ### Giving back with no request waiting -/

theorem State.giveBack_noWaits {s : State} (none : s.pool.waits = []) (a : Option SetAside) (r : Requester) (c : ClaimId)
    (index : Option Nat) : (s.giveBack a r c index).wire = s.wire ∧ (s.giveBack a r c index).pool.waits = [] := by
  unfold State.giveBack
  split
  · exact ⟨rfl, none⟩
  · split
    · split
      · rw [State.offerRound_of_noWaits]
        · exact ⟨rfl, none⟩
        · exact none
      · exact ⟨rfl, none⟩
    · split
      · exact ⟨rfl, by rw [none]; rfl⟩
      · exact ⟨rfl, none⟩

theorem State.giveBackAll_noWaits {s : State} (none : s.pool.waits = []) (gs : List Given) : (s.giveBackAll gs).wire = s.wire := by
  induction gs generalizing s with
  | nil => rfl
  | cons g gs ih =>
    obtain ⟨wire, waits⟩ := State.giveBack_noWaits none g.aside g.requester g.claim g.index
    exact (ih waits).trans wire

end Sys2Proof.Machine
end

section
namespace Sys2Proof.Machine

/-! ## WORK_ITEM_ENDED -/

theorem itemEndedBay_work (x : Bay) (i : WorkItem) (waiting : Bool) :
    (∀ w, (itemEndedBay x i waiting).reading = some w → w.item ≠ i ∨ ∃ c p, i = .repair c p) ∧
      ∀ w ∈ (itemEndedBay x i waiting).repairs, w.item ≠ i ∨ ∃ c, i = .clip c := by
  cases i with
  | clip c =>
    refine ⟨fun w lives => .inl ?_, fun _ _ => .inr ⟨c, rfl⟩⟩
    simpa using (Option.filter_eq_some_iff.1 lives).2
  | repair c p =>
    refine ⟨fun _ _ => .inr ⟨c, p, rfl⟩, fun w mem => .inl ?_⟩
    simpa using (List.mem_filter.1 mem).2

/-- The ended item was all the read work that the bay had. -/
def OnlyItem (x : Bay) (i : WorkItem) : Prop :=
  ((∃ c, i = .clip c) ∧ x.repairs = [] ∧ ∀ w, x.reading = some w → w.item = i) ∨
    ((∃ c q, i = .repair c q) ∧ x.reading = none ∧ ∀ w ∈ x.repairs, w.item = i)

theorem OnlyItem.none_left {x : Bay} {i : WorkItem} (h : OnlyItem x i) (waiting : Bool) :
    (itemEndedBay x i waiting).repairs = [] ∧ (itemEndedBay x i waiting).reading = none := by
  rcases h with ⟨⟨c, rfl⟩, repairs, only⟩ | ⟨⟨c, q, rfl⟩, reading, only⟩
  · refine ⟨repairs, Option.filter_eq_none_iff.2 fun w lives => ?_⟩
    simpa using only w lives
  · refine ⟨List.filter_eq_nil_iff.2 fun w mem => ?_, reading⟩
    simpa using only w mem

section
variable (s : State) (b : Fin 8) (i : WorkItem)

theorem State.itemLeft_bay :
    (s.itemLeft b i).bay b = itemEndedBay (s.bay b) i ((s.bay b).waiting && !s.placeGone b i) := State.bay_setBay s b _

theorem OnlyReads.itemLeft : OnlyReads b s (s.itemLeft b i) := (OnlyBay.setBay s b _).reads

theorem OnlyReads.laneLeaves : OnlyReads b s (s.laneLeaves b i) := by
  obtain ⟨pool, ports, jm, pending, -, -, bays, -⟩ := GrantOnly.laneLeaves s b i
  exact ⟨pool, ports, jm, pending, fun a _ => bays a⟩

/-- The bay's record when the lane of an ended item has been returned. -/
theorem State.itemEnds_bay : bayCore (((s.itemLeft b i).laneLeaves b i).bay b) =
    bayCore (itemEndedBay (s.bay b) i ((s.bay b).waiting && !s.placeGone b i)) := by
  obtain ⟨-, -, -, -, -, -, bays, -⟩ := GrantOnly.laneLeaves (s.itemLeft b i) b i
  rw [bays, State.itemLeft_bay]

/-- What the command leaves before the bay and its lane give up what they have of the pool (R55, R80). -/
def ItemEnds (u : State) : Prop := OnlyReads b s u ∧ s.wire.erase (.workItemEnded b i) <+: u.wire ∧
  ∀ x, x = (s.arrive (.workItemEnded b i)).setBay b (itemEndedBay (s.bay b) i (u.bay b).waiting) →
    (∀ n, (s.lane n).holder = some (.work b i) → (s.lane n).ack = none →
      (∀ m, m < n → (s.lane m).holder = some (.work b i) → (s.lane m).ack ≠ none) → GrantRound (laneBack x n) u) ∧
    ((∀ n, (s.lane n).holder = some (.work b i) → (s.lane n).ack ≠ none) → GrantRound x u)

theorem State.itemEnds : ItemEnds s b i (((s.arrive (.workItemEnded b i)).itemLeft b i).laneLeaves b i) := by
  obtain ⟨-, -, -, -, -, -, -, -, -, -, -, -, waiting, -⟩ := bayCore_fields ((s.arrive (.workItemEnded b i)).itemEnds_bay b i)
  have wire := ((s.arrive (.workItemEnded b i)).itemLeft b i).laneLeaves_wire b i
  refine ⟨((OnlyReads.itemLeft _ b i).trans (.laneLeaves _ b i)).arrived, wire, fun x set => ?_⟩
  rw [waiting] at set
  subst set
  refine ⟨fun n holder ack first => ?_, fun unserved => ?_⟩
  · exact State.laneLeaves_lane ((State.laneFor_iff _ b i n).2 ⟨⟨holder, ack⟩, first⟩)
  · exact State.laneLeaves_none ((State.laneFor_none _ b i).2 unserved)

end

/-- The one lane that serves the ended item (R50, R55). -/
structure ServesAlone (s : State) (n : Fin 4) (b : Fin 8) (i : WorkItem) : Prop where
  holder : (s.lane n).holder = some (.work b i)
  ack : (s.lane n).ack = none
  alone : ∀ m, m ≠ n → (s.lane m).holder ≠ some (.work b i)

theorem ServesAlone.returned {s : State} {n : Fin 4} {b : Fin 8} {i : WorkItem} (h : ServesAlone s n b i) :
    GrantRound (laneBack (s.itemLeft b i) n) ((s.itemLeft b i).laneLeaves b i) :=
  State.laneLeaves_lane ((State.laneFor_iff _ b i n).2
    ⟨⟨h.holder, h.ack⟩, fun m less holder => absurd holder (h.alone m (Fin.ne_of_lt less))⟩)

/-- No grant follows where neither a host card read nor another bay's work waits for a lane. -/
theorem ServesAlone.idle {s : State} {n : Fin 4} {b : Fin 8} {i : WorkItem} (h : ServesAlone s n b i)
    (none : s.arb.requests = []) (others : ∀ a, a ≠ b → s.bayEligible a = false) (only : OnlyItem (s.bay b) i) :
    (s.itemLeft b i).laneLeaves b i = laneBack (s.itemLeft b i) n := by
  refine h.returned.idle none fun a => ?_
  by_cases here : a = b
  · subst here
    obtain ⟨repairs, reading⟩ := only.none_left ((s.bay a).waiting && !s.placeGone a i)
    have bay : (laneBack (s.itemLeft a i) n).bay a = _ := s.itemLeft_bay a i
    exact State.bayEligible_noWork (bay ▸ repairs) (bay ▸ reading)
  · have held : holderBay (s.lane n) = some b := by rw [holderBay, h.holder]
    have bay : (s.itemLeft b i).bay a = s.bay a := State.bay_setBay_ne s b a _ here
    refine laneBack_eligible (s := s.itemLeft b i) held here ?_
    rw [State.bayEligible, bay]
    exact others a here

/-- The claim that the returned lane has out is awaited no more (log 44). -/
theorem laneBack_unawaited {s : State} {n : Fin 4} {b : Fin 8} {i : WorkItem} {c : ClaimId}
    (holder : (s.lane n).holder = some (.work b i)) (claim : (s.lane n).claim = some c) :
    (laneBack s n).arb.unawaited = s.arb.unawaited ++ [⟨.lane n b, c⟩] := by
  simp [laneBack, holder, claim]

theorem workItemEnded_spec (b : Fin 8) (i : WorkItem) (s : State) : ∃ t, exec (.workItemEnded b i) s = .next t ∧
    Giving (s.bayGiven b (fun x => decide (x = i)) ++ bayPlaces s.pool b i) (ItemEnds s b i) t ∧
    (∀ gone, gone = (∃ w ∈ s.pool.waits, (∃ n, w.requester = .lane n b) ∧ itemOf w.claim = i ∧
        (s.arrive (.workItemEnded b i)).discardDue w.requester w.claim = false ∧
        s.wire.count (.claimAnswer w.requester w.claim none) < s.pool.waits.count w) →
      (gone → (t.bay b).waiting = false) ∧ (¬ gone → (t.bay b).waiting = (s.bay b).waiting)) ∧
    (∀ w, (t.bay b).reading = some w → w.item ≠ i ∨ ∃ c p, i = .repair c p) ∧
    (∀ w ∈ (t.bay b).repairs, w.item ≠ i ∨ ∃ c, i = .clip c) ∧ (t.bay b).offered ≠ some i ∧
    (∀ n, (s.lane n).holder = some (.work b i) → (s.lane n).ack = none →
      (∀ m, m ≠ n → (s.lane m).holder ≠ some (.work b i)) → s.arb.requests = [] →
      (∀ a, a ≠ b → s.bayEligible a = false) → OnlyItem (s.bay b) i →
      t.lane n = Lane.reset ∧ (s.pool.waits = [] → t.wire = s.wire.erase (.workItemEnded b i))) ∧
    (∀ n c, (s.lane n).holder = some (.work b i) → (s.lane n).ack = none → (s.lane n).claim = some c →
      (∀ m, m ≠ n → (s.lane m).holder ≠ some (.work b i)) →
      t.arb.unawaited = s.arb.unawaited ++ [⟨.lane n b, c⟩]) := by
  have core := (s.arrive (.workItemEnded b i)).itemEnds_bay b i
  obtain ⟨-, -, -, -, -, -, -, -, -, -, reading, repairs, waiting, -⟩ := bayCore_fields core
  obtain ⟨clip, repair⟩ := itemEndedBay_work (s.bay b) i ((s.bay b).waiting && !(s.arrive (.workItemEnded b i)).placeGone b i)
  have offered := ((s.arrive (.workItemEnded b i)).itemLeft b i).laneLeaves_offered b i
  rw [State.itemLeft_bay] at offered
  have pool := (OnlyReads.laneLeaves ((s.arrive (.workItemEnded b i)).itemLeft b i) b i).1
  have ends := s.itemEnds b i
  have returned (n : Fin 4) := ServesAlone.returned (s := s.arrive (.workItemEnded b i)) (n := n) (b := b) (i := i)
  have idle (n : Fin 4) := ServesAlone.idle (s := s.arrive (.workItemEnded b i)) (n := n) (b := b) (i := i)
  have run := workItemEnded_run b i s
  generalize ((s.arrive (.workItemEnded b i)).itemLeft b i).laneLeaves b i = u at *
  refine ⟨_, run, State.giveBackAll_giving _ _ _ ends, fun gone is => ?_, ?_⟩
  · rw [State.giveBackAll_bay, waiting, is, ← s.placeGone_arrive b i]
    refine ⟨fun gone => ?_, fun stands => ?_⟩
    · simp [itemEndedBay, gone]
    · rw [itemEndedBay, Bool.eq_false_of_not_eq_true stands, Bool.not_false, Bool.and_true]
      rfl
  · rw [State.giveBackAll_bay]
    obtain ⟨-, arb, -⟩ := u.giveBackAll_frame (s.bayGiven b (fun x => decide (x = i)) ++ bayPlaces s.pool b i)
    refine ⟨fun w lives => clip w (reading ▸ lives), fun w mem => repair w (repairs ▸ mem), fun here => ?_,
      fun n holder ack alone none others only => ?_, fun n c holder ack claim alone => ?_⟩
    · rcases offered with none | same
      · rw [none] at here
        cases here
      · rw [same] at here
        simpa using (Option.filter_eq_some_iff.1 here).2
    · have back := idle n ⟨holder, ack, alone⟩ none others only
      refine ⟨?_, fun waits => ?_⟩
      · rw [State.lane_of_arb arb, back, laneBack_lane]
      · rw [State.giveBackAll_noWaits (by rw [pool]; exact waits), back]
        rfl
    · have serves : ServesAlone (s.arrive (.workItemEnded b i)) n b i := ⟨holder, ack, alone⟩
      rw [arb, (returned n serves).unawaited]
      exact laneBack_unawaited holder claim

/-- Settles O30: what a bay's read work, an offer, an ended item and a word of removal leave, and the rules that a search for
grants goes by. -/
theorem bayReadWorkChanges : Obligations.BayReadWorkChanges := by
  refine ⟨bayReadWork_spec, poolOffer_spec, workItemEnded_spec, bayWaitRemoved_spec, fun s n r lane read =>
    ⟨_, State.grantOne_host lane read, s.grantHost_given n r⟩, fun s n b item lane unread bay work =>
    State.grantOne_bay lane unread bay work, fun s none => State.grantOne_none none, fun s t round => round.frame,
    State.bayEligible_iff, fun x => ⟨fun i w => bayItem_offered, fun w rest none => ?_, fun none => ?_⟩,
    fun s c p n => ⟨rfl, rfl, State.loadState_stored s (.clip c), State.loadState_stored s (.repair c p)⟩,
    fun s item m => ⟨s.inTime_count m, fun before d after => State.loadState_last⟩, State.mem_bayGiven, mem_bayPlaces⟩
  · exact (bayItem_unoffered (by rw [none]; rfl)).1 w rest
  · exact (bayItem_unoffered (by rw [none]; rfl)).2

end Sys2Proof.Machine
end
